-- ==== Sys2Proof/Word.lean ====
section
/-! DEFINITION. Word.lean: the words of the KM-9480 and sparse tables keyed by a number. -/

namespace Sys2Proof

/-- One byte of memory. -/
abbrev Byte := BitVec 8
/-- A 32-bit word. -/
abbrev W32 := BitVec 32
/-- A 64-bit word. -/
abbrev W64 := BitVec 64
/-- A device address (R10). -/
abbrev DevAddr := Nat

/-- A sparse family of like things: entries with strictly rising keys. A key that is not listed stands for the family's
default, which every read names. -/
abbrev Tab (α : Type) := List (Nat × α)

/-- The entry of key `k`, or `d` where none is listed. -/
def Tab.get {α : Type} (d : α) : Tab α → Nat → α
  | [], _ => d
  | (j, a) :: t, k => if k = j then a else Tab.get d t k

/-- The entry of key `k`, if one is listed. -/
def Tab.find {α : Type} : Tab α → Nat → Option α
  | [], _ => none
  | (j, a) :: t, k => if k = j then some a else Tab.find t k

/-- Put `a` at key `k`, keeping the keys strictly rising. -/
def Tab.set {α : Type} : Tab α → Nat → α → Tab α
  | [], k, a => [(k, a)]
  | (j, b) :: t, k, a =>
    if k = j then (k, a) :: t
    else if k < j then (k, a) :: (j, b) :: t
    else (j, b) :: Tab.set t k a

/-- Drop key `k`. -/
def Tab.erase {α : Type} : Tab α → Nat → Tab α
  | [], _ => []
  | (j, b) :: t, k => if k = j then Tab.erase t k else (j, b) :: Tab.erase t k

end Sys2Proof
end

