-- ==== Sys2Proof/Syntax.lean ====
section
/-! DEFINITION. Syntax.lean: the commands of the KM-9480, one constructor for each row of the table of operations and
events (opcode_table.json), and the data they carry. A unit is named by its number; what the surroundings bring in (a
frame, a reading, an observed error) is an operand. -/

namespace Sys2Proof

/-- What a check of one word finds: a corrected single-bit error, an uncorrectable one (R170, R274, R411), or, in a scratchpad, that copy
`copy` (0 to 2) of the written-since-commission bit of the word's row has changed (R169). -/
inductive Ecc where
  | corrected
  | uncorrectable
  | bitCopy (copy : Nat)
deriving DecidableEq, Repr

/-- ECC findings of one access: the address of the 8-byte word and what its check found. -/
abbrev EccHits := List (Nat × Ecc)

/-- Arbitration points of each set (R391): router outputs by position, output and plane and edge-switch outputs of a spar die; die-to-die
directions; HBM channels; fabric egress ports (the numbering is the model's, assumption 133). -/
def pointCount (set : Nat) : Nat := if set < 2 then 5440 + 48 else if set = 2 then 6 else if set = 3 then 256 else if set = 4 then 16 else 0
/-- A point of the set, the issue points of a spar die's cores among them (R339) and the fabric switch's point for tags (R471). -/
def isPoint (set point : Nat) : Bool := decide (point < pointCount set) || (decide (set < 2) && decide (point < 5488 + 128)) || (set == 4 && point == 16)

/-- The FLAGS bits of a frame header (R429). -/
structure FrameFlags where
  td : Bool
  last : Bool
  mcast : Bool
  resent : Bool
deriving DecidableEq, Repr

/-- A fabric frame in the clear (R429): header, tensor descriptor, payload. -/
structure Frame where
  type : Byte
  flags : FrameFlags
  cls : Nat
  hops : Nat
  srcPart : Nat
  dstPart : Nat
  srcModule : Nat
  /-- Module id, or the tree id when `flags.mcast`. -/
  dstModule : Nat
  /-- DST_ADDR[51:0]: local address, or the stream offset when `flags.mcast`. -/
  addr : Nat
  /-- DST_ADDR[61:52]: requested length minus 1, READ only. -/
  readLen : Nat
  lseq : Nat
  epoch : Nat
  xtag : Nat
  td : List Byte
  payload : List Byte
  /-- STOMP of the trailer is 0xE7: the frame failed its link check on the way (R435). -/
  stomp : Bool := false
deriving DecidableEq, Repr

/-- The fields of a data frame lie in their places: payload up to 512 bytes, a TD of 64 bytes where FLAGS.TD is set, and LSEQ without bit 47
(R429, R433). -/
def Frame.fits (f : Frame) : Bool :=
  decide (f.cls < 4) && decide (f.hops < 64) && decide (f.srcPart < 16) && decide (f.dstPart < 16) && decide (f.srcModule < 2 ^ 15)
    && decide (f.dstModule < if f.flags.mcast then 2 ^ 12 else 2 ^ 15) && decide (f.addr < 2 ^ 52) && decide (f.readLen < 1024)
    && decide (f.lseq < 2 ^ 47) && decide (f.epoch < 2 ^ 32) && decide (f.xtag < 2 ^ 32) && f.td.length == (if f.flags.td then 64 else 0)
    && decide (f.payload.length ≤ 512)

/-- A frame as a port receives it, with what the link check of R431 finds in it, and how many codewords that the FEC cannot correct it
brings (R425). -/
structure Rx where
  port : Nat
  frame : Frame
  crcOk : Bool
  tagOk : Bool
  stomp : Bool
  fec : Nat := 0
  /-- What the check of the HBM words finds that the frame's access reads (R411, R412). -/
  ecc : EccHits := []
deriving DecidableEq, Repr

/-- The payload of an LCTL frame (R433). -/
structure Lctl where
  ack : Nat
  nak : Bool
  lane : Nat
  cred : List Nat
  switchAt : Nat
  switchKind : Nat
  keyBytes : List Byte
deriving DecidableEq, Repr

/-- A keying message (R574): its KIND and body, and whether its CRC-32C holds. -/
structure KeyMsg where
  kind : Nat
  body : List Byte
  crcOk : Bool
deriving DecidableEq, Repr

/-- A channel of R537 that carries Smitum messages to the firmware. -/
inductive Channel where
  /-- The PF mailbox in PF BAR0. -/
  | pfMailbox
  /-- A MAILBOX command of ring `ring` of function `fn` (0 the PF, k VF k). -/
  | ring (fn ring : Nat)
  /-- MCTP messages of the management port. -/
  | mgmt
deriving DecidableEq, Repr

/-- How a Smitum request reaches the security core: it waits on its channel (R537), or it arrives on the management port
with its bytes, plain or in the sealed envelope of R565: its SESSION, its SEQ, its sealed bytes with the tag, and the message that they
hold where they open. -/
inductive Via where
  | waiting (ch : Channel)
  | mgmtPlain (msg : List Byte)
  | mgmtSealed (session : Nat) (seq : Nat) (sealed msg : List Byte)
deriving DecidableEq, Repr

/-- The two-copy items of the boot flash (R531, R532, R567). -/
inductive FlashItem where
  | bootRecord
  | rowMap
  | repairList
  | credentials
deriving DecidableEq, Repr

/-- A copy of an item that its reader finds not valid. -/
structure ItemCopy where
  item : FlashItem
  second : Bool
deriving DecidableEq, Repr

/-- A boot stage's result, as the processor that runs it finds it (R535). -/
inductive BootCheck where
  | passes
  | fails
deriving DecidableEq, Repr

/-- The path a message takes when a mailbox is offered it. -/
structure Message where
  src : Nat
  srcCtx : Nat
  len : Nat
  cls : Nat
  part : Nat
  payload : List Byte
deriving DecidableEq, Repr

/-- One requester of an arbitration point (R392): its class and whether it is the virtual channel of responses (R370), its input number,
its head packet's beats and stamp. -/
structure ArbReq where
  cls : Nat
  resp : Bool := false
  input : Nat
  beats : Nat
  stamp : Nat
deriving DecidableEq, Repr

/-- A unit, named as an event record names it (R611). -/
structure UnitRef where
  kind : Nat
  id : Nat
deriving DecidableEq, Repr

/-- A unit that a self-test finds failing, with the failing cores in it: physical position, and failing scratchpad rows as bank and row
of the bank; a core without rows fails as a whole (R175, R628). -/
structure TestFail where
  unit : UnitRef
  cores : List (Nat × List (Nat × Nat))
deriving DecidableEq, Repr

/-- Who owns a PCIe read that fails (R473). -/
inductive ReadOwner where
  | descriptor (core ctx seq idx : Nat)
  | command (ring k : Nat)
  | doorbell (ring : Nat)
deriving DecidableEq, Repr

/-- Who accesses a register (R636): the host, or a firmware processor. -/
inductive RegAgent where
  | host
  | control (cluster : Nat)
  | scheduler
  | power
  | security
deriving DecidableEq, Repr

/-- An access of a register: function, offset in its BAR0 and size in bytes. A firmware processor uses the offsets of the PF. -/
structure BarAccess where
  /-- The request arrives inside its function's IDE stream (R572). -/
  inStream : Bool := false
  agent : RegAgent := .host
  fn : Nat
  off : Nat
  size : Nat
deriving DecidableEq, Repr

/-- The commands of the KM-9480: the rows of the table, in its order. -/
inductive Instr where
  -- scalar core (04, 05)
  | scalarInstruction (core : Nat)
  | ecall (core : Nat)
  | ebreak (core : Nat)
  | scalarLoad (core : Nat)
  | scalarStore (core : Nat)
  | scalarAtomic (core : Nat)
  | fence (core : Nat)
  | narrowAccess (core : Nat) (ecc : Option Ecc)
  | gather (core : Nat) (ecc : EccHits)
  | spadEccWriteback (core : Nat)
  -- Xknl and kring
  | kpush (core : Nat) (ecc : EccHits)
  | kwait (core : Nat)
  | ktest (core : Nat)
  | kdrain (core : Nat)
  | krecv (core : Nat)
  | kclaimClaim (core ctx : Nat) (ecc : EccHits)
  | kclaimCommit (core ctx : Nat) (ecc : EccHits)
  | kringStatus (core : Nat)
  | kringOpen (core : Nat)
  | kringClose (core : Nat)
  | kringRelease (core : Nat)
  -- context control
  | ctxStart (core ctx : Nat)
  | ctxHalt (core ctx : Nat)
  | ctxResume (core ctx : Nat)
  | ctxKill (core ctx : Nat)
  | contextIdle (core ctx : Nat) (ecc : EccHits)
  -- issue and the units; `lines`: wide lines that the unit has written before the next command, where it is still at work then (R351)
  | descriptorIssue (core ctx : Nat) (ecc : EccHits)
  | matmul (core ctx : Nat) (ecc : EccHits) (abuf : EccHits)
  | matvec (core ctx : Nat) (ecc : EccHits)
  | merge (core ctx : Nat) (ecc : EccHits) (lines : Option Nat)
  | intersect (core ctx : Nat) (ecc : EccHits) (lines : Option Nat)
  | fill (core ctx : Nat) (ecc : EccHits) (lines : Option Nat)
  | copy (core ctx : Nat) (ecc : EccHits) (lines : Option Nat)
  | transposeCopy (core ctx : Nat) (ecc : EccHits)
  | compactionStore (core ctx : Nat) (ecc : EccHits)
  | load (core ctx : Nat) (ecc : EccHits)
  | predict (core ctx : Nat) (ecc : EccHits)
  | topKSelect (core ctx : Nat) (ecc : EccHits) (lines : Option Nat)
  | sendMailbox (core ctx : Nat) (ecc : EccHits)
  | sendSlotRing (core ctx : Nat) (ecc : EccHits)
  | sendTree (core ctx : Nat) (ecc : EccHits)
  | tileClose (core ctx seq : Nat) (ecc : EccHits) (abuf : EccHits)
  | abufAddRetire (core bank : Nat) (ecc high : Option Ecc)
  | descriptorComplete (core ctx seq : Nat) (ecc : EccHits)
  -- DMA bursts, cancel, halyard (12)
  | burstIssue (core ctx seq : Nat)
  | burstDone (core ctx seq idx : Nat) (ecc : EccHits)
  | burstDataDiscard (core ctx seq idx : Nat) (ecc : EccHits)
  | cancelAccept (core mask tag : Nat)
  | cancelFence (core : Nat)
  | halyardEnable (core : Nat) (cfg : W64)
  | relayForwardStart (core : Nat)
  | relayForwardComplete (core : Nat) (ecc : EccHits)
  | relayTimeout (core : Nat)
  | relayBreakNotice (core : Nat)
  -- messages, slot rings, folds (13, 09)
  | messageArrival (core : Nat) (msg : Message)
  | messageResend (core idx : Nat)
  | creditRequest (core idx : Nat)
  | creditAnswer (core idx : Nat)
  | creditRequestResend (core idx : Nat)
  | slotFill (core target seq : Nat) (ecc : EccHits)
  | slotGrantExpiry (core target seq : Nat)
  | slotTimeout (core ctx : Nat)
  | creditWaitTimeout (core idx : Nat)
  | ringReleaseApply (core ring : Nat)
  | ringCloseComplete (core ring : Nat)
  | foldArm (core ch : Nat) (cfg : W64)
  | foldTakeGroup (core ch : Nat)
  | foldFragment (core ch : Nat) (ecc : EccHits)
  | foldTimeout (core ch : Nat)
  -- arbiters, queues, pacers (13, 17)
  | arbiterDecision (set point now : Nat) (reqs : List ArbReq)
  | quotaWindow (set point : Nat) (now : Nat)
  | arbCommit (fn set : Nat)
  | queueReset (queue : Nat) (occWriter occReader : Nat)
  | respTimeout (core ctx seq idx : Nat)
  | pacerToken (source : Nat)
  -- HBM (14)
  | hbmAccess (addr : DevAddr) (data : Option (List Byte)) (len : Nat) (ecc : EccHits)
  | hbmRefresh (stack ch bank : Nat) (scrubbed : Nat)
  | hbmRetrain (stack ch : Nat)
  | hbmRetrainEnd (stack ch : Nat)
  | bandmapWrite (band : Nat) (mode : Bool)
  | scrubStart (region : Nat)
  | scrubComplete (region : Nat)
  -- fabric ports (15)
  | portTrained (port : Nat)
  | keyingHello (port : Nat) (msg : KeyMsg)
  | encap (port : Nat) (msg : KeyMsg)
  | sign (port : Nat) (msg : KeyMsg)
  | keyingRetry (port : Nat)
  | lctlSend (port : Nat)
  | lctl (port : Nat) (body : Lctl) (checkOk : Bool)
  | frameSend (port cls : Nat)
  | frameForward (rx : Rx)
  | write (rx : Rx)
  | wack (rx : Rx)
  | read (rx : Rx)
  | rdata (rx : Rx)
  | nresp (rx : Rx)
  | treeData (rx : Rx)
  | attach (rx : Rx)
  | mack (rx : Rx)
  | detachWaitExpiry (tree : Nat)
  | detach (rx : Rx)
  | repairReq (rx : Rx)
  | rejoin (rx : Rx)
  | repairNak (rx : Rx)
  | epochBegin (rx : Rx)
  | epochAbort (rx : Rx)
  | epochEnd (part : Nat)
  | roleCommit (fn : Nat) (value : W64)
  | join (rx : Rx)
  | accept (rx : Rx)
  | refuse (rx : Rx)
  | heartbeatSend
  | heartbeat (rx : Rx)
  | memberSilence (member : Nat)
  | mastheadSilence
  | launchFrame (rx : Rx)
  | launchAck (rx : Rx)
  | launchReportTimeout (launch : Nat)
  | schedule (rx : Rx)
  | telemetrySend
  | telemetry (rx : Rx)
  | remove (module : Nat)
  | domainSummary (masthead : Nat) (summary : List Byte)
  | laneFailing (port lane : Nat) (symbols : Nat) (lostLock : Bool)
  | laneSwitch (port : Nat) (tx : Bool)
  | framesLost (port : Nat)
  | keySwitch (port : Nat) (tx : Bool)
  | rekey (port : Nat)
  | stayOpen (mgmt : Bool) (sw : Nat)
  | stayClose (mgmt : Bool) (sw : Nat)
  | stayRingDown (sw : Nat)
  | stayMoveComplete (sw : Nat)
  | holdInAssert (ring : Nat)
  | holdInDeassert (ring : Nat)
  | holdStuck (ring : Nat)
  -- host rings and commands (16)
  | doorbellPoll (fn ring : Nat) (latencyNs : Nat) (ok : Bool)
  | commandFetch (fn ring : Nat) (latencyNs : Nat) (ok : Bool)
  | launchPlace (fn ring k : Nat) (ecc : EccHits)
  | launchPost (fn ring k : Nat)
  | launchRecover (fn ring k : Nat) (ecc : EccHits)
  | copyCommand (fn ring k : Nat) (ecc : EccHits)
  | fillCommand (fn ring k : Nat) (ecc : EccHits)
  | compact (fn ring k : Nat) (ecc : EccHits)
  | fenceCommand (fn ring k : Nat)
  | cancel (fn ring k : Nat)
  | queryLedger (fn ring k : Nat) (ecc : EccHits)
  | scrub (fn ring k : Nat)
  | selftest (fn ring k : Nat) (failed : List TestFail)
  | mailbox (fn ring k : Nat)
  | jobEnd (part : Nat) (launchId : Nat)
  | completionRecordWrite (fn ring : Nat)
  | moderationTimeout (fn : Nat) (queue : Nat)
  | ringEnable (fn ring : Nat) (cfg : W64)
  | ringDisable (fn ring : Nat)
  | eventRecordWrite (fn : Nat)
  | completionFailure (fn : Nat) (owner : ReadOwner)
  | linkTraining (speed width : Nat) (flit : Bool)
  | bar2Access (inStream : Bool) (off : Nat) (data : Option (List Byte)) (len : Nat) (ecc : EccHits)
  | flrVf (vf : Nat)
  | flrPf
  | hotReset
  | keySetGo (fn : Nat)
  | keySetStop (fn : Nat)
  -- firmware (18)
  | mboxGo (vector : Nat)
  | hello (via : Via)
  | start (via : Via)
  | logRead (via : Via) (fails : Bool)
  | traceSet (via : Via)
  | fwStage (via : Via) (flashFails : Bool)
  | fwCommit (via : Via) (flashFails : Bool)
  | fwActivate (via : Via)
  | fwAbort (via : Via)
  | fwStatus (via : Via)
  | svnRaise (via : Via)
  | activationStart
  | activationExpired
  | componentSwap
  | pmcSwap
  | pldmUpdateComponent (slotOff : Nat) (begin_ : Bool) (data : List Byte) (flashFails : Bool)
  | pldmVerifyComplete (flashFails : Bool)
  | pldmActivateFirmware
  | logRecordWrite (source : Nat)
  -- power messages (20)
  | powerGet (via : Via)
  | powerSetCap (via : Via)
  | powerSetLimit (via : Via)
  | powerState (via : Via)
  | thermalSet (via : Via)
  -- sessions, partitions, attestation (19)
  | sessionBegin (via : Via)
  | sessionProve (via : Via)
  | sessionEnd (via : Via)
  | handshakeExpiry (handle : Nat)
  | lockoutExpiry (target : Nat)
  | mgmtSessionIdle
  | credSet (via : Via) (flashFails : Bool)
  | partSetup (via : Via)
  | partTeardown (via : Via)
  | partPeers (via : Via)
  | debugSet (via : Via)
  | attest (via : Via)
  | identity (via : Via)
  | faultStatus (via : Via)
  | unitRecommission (via : Via)
  | getVersion (mgmt : Bool)
  | getCapabilities (mgmt : Bool) (caps : List Byte)
  | negotiateAlgorithms (mgmt : Bool) (asym hash : Nat)
  | getDigests (mgmt : Bool)
  | getCertificate (mgmt : Bool) (slot off len : Nat)
  | challenge (mgmt : Bool) (nonce : List Byte)
  | getMeasurements (mgmt : Bool) (nonce : List Byte) (block : Nat)
  -- faults and recommission (21)
  | lockstep
  | fwWatchdog (source : Nat)
  | coreOut (core cause : Nat)
  | coreFenceTimeout (core : Nat)
  | sparLost (spar cause : Nat)
  | coreRecommission (spar row pcol : Nat) (testPasses : Bool)
  | controlCoreRecommission (cluster : Nat)
  | stackRecommission (stack : Nat) (contentKept : Bool) (failed restored : List Nat)
  | portRecommission (port : Nat) (good : List Nat)
  | boundResume (unit : UnitRef)
  -- power (20)
  | inputOutOfRange (mv : Nat)
  | inputShutdownLevel (mv : Nat)
  | overcurrent (ma : Nat)
  | overcurrentRelease
  | capLoop (watts : Nat)
  | thermalSample (spar0 spar1 mast engines hbm : List Nat)
  | junctionForce
  | junctionForceRelease
  | thermalShutdown
  | thermalBarePole
  | reefStep
  | barePoleEntry
  | barePoleExit
  | standbyEntry
  | standbyExit
  | telemetryUpdate (vin iin pin : Nat) (energy : Nat)
  -- module (23)
  | powerOnReset
  | modEnRise
  | modEnFall
  | modRstNFall
  | modRstNRise
  | perstFall
  | perstRise
  | bootStage0 (bad : List ItemCopy)
  | bootStage1 (bad : List ItemCopy)
  | bootStage2 (rails : BootCheck) (failed restored : List Nat)
  | bootStage3 (spars : BootCheck)
  | bootStage4
  -- registers (22)
  | registerWrite (acc : BarAccess) (value : W64)
  | readClear (acc : BarAccess)
  | w1cClear (acc : BarAccess) (value : W64) (setSameCycle : Bool)
  | lightChange (port : Nat) (light : Bool)
  | retuneEnd (port : Nat) (ok : Bool)
  | inputInRange (mv : Nat)
  | railOutOfRegulation (rail : Nat) (out : Bool)
  | edgeSwitchFailure (spar : Nat)
  | evqHeadPoll (fn : Nat)
deriving DecidableEq, Repr

end Sys2Proof
end

