-- ==== Sys2Proof/Config.lean ====
section
/-! DEFINITION. Config.lean: what the spec leaves open or leaves to published standards: free values (no body, so that
nothing can be proved of the value) and the constants of the part that come from fuses and manufacture. -/

namespace Sys2Proof.Config

open Sys2Proof

/-- A free value: what stands where the spec states no value; the index is `State.fresh` (assumption 6). -/
opaque freeValue : Nat → Nat

/-- SHAKE256 of FIPS 202: `n` output bytes over the input (R561). -/
opaque shake256 : List Byte → Nat → List Byte
/-- KMAC256 of NIST SP 800-185 over the input, keyed by the first argument (R567). -/
opaque kmac256 : List Byte → List Byte → List Byte
/-- ML-KEM-1024 decapsulation with the module's identity KEM key (R561 step 1). -/
opaque kemDecaps : List Byte → List Byte
/-- ML-KEM-1024 encapsulation to a key with on-chip randomness of the given index: ciphertext and shared secret. -/
opaque kemEncaps : List Byte → Nat → List Byte × List Byte
/-- ML-KEM-1024 ephemeral key pair of the given index: encapsulation key. -/
opaque kemEphemeral : Nat → List Byte
/-- ML-KEM-1024 decapsulation with the ephemeral key of the given index. -/
opaque kemDecapsEph : Nat → List Byte → List Byte
/-- AES-256-GCM opening: key, IV, additional data, sealed bytes; the plaintext when the tag verifies (R561 step 5). -/
opaque gcmOpen : List Byte → List Byte → List Byte → List Byte → Option (List Byte)
/-- AES-256-GCM sealing. -/
opaque gcmSeal : List Byte → List Byte → List Byte → List Byte → List Byte
/-- ML-DSA-87 verification: public key, context, message, signature. -/
opaque dsaVerify : List Byte → List Byte → List Byte → List Byte → Bool
/-- ML-DSA-87 signature under the private key of a seed: seed, context, message. -/
opaque dsaSignBy : List Byte → List Byte → List Byte → List Byte
/-- ML-DSA-87 public key of a seed. -/
opaque dsaPublic : List Byte → List Byte
/-- 32 random bytes of the given index (NONCE_M of R560, link nonces of R573). -/
opaque nonce : Nat → List Byte
/-- The module's identity KEM encapsulation key (R586). -/
opaque idKemKey : List Byte
/-- The fuse secret (R567). -/
opaque fuseSecret : List Byte
/-- The bytes of every fuse except the fuse secret, by the MIN_SVN that they hold (R550, R586). -/
opaque fuseBytes : Nat → List Byte
/-- The 32-byte seed of the identity key: SHAKE256 over the fuse secret and "ID" (R586). -/
def idSeed : List Byte := shake256 (fuseSecret ++ [0x49, 0x44]) 32
/-- The module's identity ML-DSA-87 public key, and a signature under that key: context, message (R586). -/
def idDsaKey : List Byte := dsaPublic idSeed
def dsaSign (ctx msg : List Byte) : List Byte := dsaSignBy idSeed ctx msg
/-- FUSE_DIGEST: SHAKE256 over every fuse except the fuse secret (R586). -/
def fuseDigest (minSvn : Nat) : List Byte := shake256 (fuseBytes minSvn) 64
/-- Fused image-key hash of R534. -/
opaque imageKeyHash : List Byte
/-- The setup code's SALT and HASH in fuses (R570). -/
opaque setupSalt : List Byte
opaque setupHash : List Byte
/-- Fused STEPPING and SERIAL of HUB_ID (R642). -/
opaque stepping : BitVec 8
opaque serial : BitVec 32
/-- Fused DEBUG_ALLOWED (R583). -/
opaque debugAllowed : Bool
/-- The SPDM bodies that DSP0274 lays out and R588 names without laying out. -/
opaque spdmBody : Nat → List Byte → List Byte

/-- The response body of FW_STATUS, of the given index: the spec lays out none. -/
opaque openBody : Nat → List Byte
/-- The PLDM response to a row (0 UpdateComponent, 1 VerifyComplete, 2 ActivateFirmware) with an outcome: DSP0267 lays it out. -/
opaque pldmBody : Nat → Nat → List Byte

/-- The scale byte of the MX block at a scratchpad address of a raw MX operand, which has no scale array (R54, R94): the spec
states none. -/
opaque rawMxScale : Nat → Byte

/-- Bits that a packed write keeps in the last byte of a remote range, by its address (R162): the module cannot see them. -/
opaque remoteTail : Nat → Byte
/-- Bank and row of a byte offset in an HBM channel, as one number: the spec gives no geometry of banks and rows (R413). -/
opaque hbmRow : Nat → Nat
/-- What the check of the HBM word at an address finds when an access of firmware, of the given index, reads it (assumption 136). -/
opaque hbmFinding : Nat → Nat → Option Ecc
/-- Members that a masthead's LAUNCH names (R463), by its 64 bytes: the spec lays out no field for them. -/
opaque launchMembers : List Byte → List Nat
/-- Hash of SRC_MODULE, SRC_PART, DST_MODULE and CLASS that spreads the flows over ports (R438): the spec gives no function. -/
opaque sprayHash : Nat → Nat → Nat → Nat → Nat
/-- TAG of the scheduler core's n-th cancel (R355, R503): firmware chooses it. -/
opaque cancelTag : Nat → BitVec 16
/-- Payload byte 0 of TREE_CTL, EPOCH_CTL and GROUP_CTL frames, by the place of the name in the list of R436. -/
opaque ctlCode : Nat → Byte

/-- SEVERITY and CODE of the log records BOOT_FALLBACK (0), LOG_RESUMED (1) and FLASH_ITEM_LOST (2): R535, R544 and R532 name them
without giving either. -/
opaque bootRecord : Nat → Nat × Nat

/-- DATA of the trace record that takes a SEQ: R547 names the trace points and lays out no data. -/
opaque traceData : Nat → Nat

end Sys2Proof.Config
end

