-- ==== Sys2Proof/Machine/Numerics.lean ====
section
/-! DEFINITION. Machine/Numerics.lean: element types, exact values, rounding, accumulation and writeback conversion
(02 R52 to R78, 09 R266). -/

namespace Sys2Proof.Machine

open Sys2Proof

/-! ### Element types (R52) -/

/-- The element types of R52. -/
inductive ElType where
  | int4 | int8 | fp4 | e4m3 | e5m2 | fp16 | bf16 | fp32 | fp64
  | mxfp4 | mx6e2m3 | mx6e3m2 | mx8e4m3 | mx8e5m2 | int32
deriving DecidableEq, Repr

/-- The type of an 8-bit code; a code outside the table of R52 has none. -/
def elTypeOf (code : Nat) : Option ElType :=
  match code with
  | 0x00 => some .int4 | 0x01 => some .int8 | 0x02 => some .fp4 | 0x03 => some .e4m3 | 0x04 => some .e5m2
  | 0x05 => some .fp16 | 0x06 => some .bf16 | 0x07 => some .fp32 | 0x08 => some .fp64
  | 0x09 => some .mxfp4 | 0x0A => some .mx6e2m3 | 0x0B => some .mx6e3m2 | 0x0C => some .mx8e4m3
  | 0x0D => some .mx8e5m2 | 0x0E => some .int32
  | _ => none

/-- Bits per stored element (R52). -/
def elBits : ElType → Nat
  | .int4 | .fp4 | .mxfp4 => 4
  | .mx6e2m3 | .mx6e3m2 => 6
  | .int8 | .e4m3 | .e5m2 | .mx8e4m3 | .mx8e5m2 => 8
  | .fp16 | .bf16 => 16
  | .fp32 | .int32 => 32
  | .fp64 => 64

def isMx : ElType → Bool
  | .mxfp4 | .mx6e2m3 | .mx6e3m2 | .mx8e4m3 | .mx8e5m2 => true
  | _ => false

def isInt : ElType → Bool
  | .int4 | .int8 | .int32 => true
  | _ => false

/-- Bytes of a row of `n` packed elements: each innermost row begins on a byte boundary (R53). -/
def packedBytes (t : ElType) (n : Nat) : Nat := (n * elBits t + 7) / 8

/-- Operand families of R59; INT32 is no operand type. -/
inductive Family where
  | fp | mx | int | fp32 | fp64
deriving DecidableEq, Repr

def family : ElType → Option Family
  | .fp4 | .e4m3 | .e5m2 | .fp16 | .bf16 => some .fp
  | .mxfp4 | .mx6e2m3 | .mx6e3m2 | .mx8e4m3 | .mx8e5m2 => some .mx
  | .int4 | .int8 => some .int
  | .fp32 => some .fp32
  | .fp64 => some .fp64
  | .int32 => none

/-- Two operand types may pair (R59). -/
def mayPair (a b : ElType) : Bool := (family a).isSome && family a == family b

/-- Reduction depth times 16 (R58). -/
def depth16 : ElType → Nat
  | .fp4 | .mxfp4 | .int4 => 64
  | .e4m3 | .e5m2 | .int8 => 32
  | .bf16 | .fp16 | .mx8e4m3 | .mx8e5m2 | .mx6e2m3 | .mx6e3m2 => 16
  | .fp32 | .int32 => 4
  | .fp64 => 1

/-! ### Floating-point formats -/

/-- How the encodings with the largest exponent are read. -/
inductive Special where
  /-- Infinities and NaNs as in IEEE 754. -/
  | ieee
  /-- Only S.1111.111 is a NaN (E4M3). -/
  | e4m3
  /-- Every encoding is finite. -/
  | allFinite
deriving DecidableEq, Repr

/-- A binary floating-point format. -/
structure Fmt where
  ebits : Nat
  mbits : Nat
  special : Special
deriving DecidableEq, Repr

def fmtFp16 : Fmt := ⟨5, 10, .ieee⟩
def fmtBf16 : Fmt := ⟨8, 7, .ieee⟩
def fmtFp32 : Fmt := ⟨8, 23, .ieee⟩
def fmtFp64 : Fmt := ⟨11, 52, .ieee⟩
def fmtE5m2 : Fmt := ⟨5, 2, .ieee⟩
def fmtE4m3 : Fmt := ⟨4, 3, .e4m3⟩
def fmtE2m1 : Fmt := ⟨2, 1, .allFinite⟩
def fmtE2m3 : Fmt := ⟨2, 3, .allFinite⟩
def fmtE3m2 : Fmt := ⟨3, 2, .allFinite⟩
/-- The MX element encodings of MXFP8 as OCP MX gives them: E4M3 with its NaN, E5M2 with infinities. -/
def elFmt : ElType → Option Fmt
  | .fp4 | .mxfp4 => some fmtE2m1
  | .e4m3 | .mx8e4m3 => some fmtE4m3
  | .e5m2 | .mx8e5m2 => some fmtE5m2
  | .fp16 => some fmtFp16
  | .bf16 => some fmtBf16
  | .fp32 => some fmtFp32
  | .fp64 => some fmtFp64
  | .mx6e2m3 => some fmtE2m3
  | .mx6e3m2 => some fmtE3m2
  | .int4 | .int8 | .int32 => none

/-- Exponent bias. -/
def fmtBias (f : Fmt) : Nat := 2 ^ (f.ebits - 1) - 1
/-- Exponent of the spacing in the subnormal range. -/
def fmtQmin (f : Fmt) : Int := 1 - (fmtBias f : Int) - f.mbits
/-- Total bits. -/
def fmtBits (f : Fmt) : Nat := 1 + f.ebits + f.mbits
/-- Magnitude bits of the largest finite value. -/
def fmtMaxFin (f : Fmt) : Nat :=
  match f.special with
  | .ieee => (2 ^ f.ebits - 1) * 2 ^ f.mbits - 1
  | .e4m3 => 2 ^ (f.ebits + f.mbits) - 2
  | .allFinite => 2 ^ (f.ebits + f.mbits) - 1
/-- Magnitude bits of infinity. -/
def fmtInf (f : Fmt) : Nat := (2 ^ f.ebits - 1) * 2 ^ f.mbits
/-- The canonical quiet NaN with sign 0 (R65). -/
def fmtNan (f : Fmt) : Nat :=
  match f.special with
  | .ieee => fmtInf f + 2 ^ (f.mbits - 1)
  | .e4m3 => 2 ^ (f.ebits + f.mbits) - 1
  | .allFinite => 0
/-- Sign bit placed. -/
def fmtSign (f : Fmt) (neg : Bool) : Nat := if neg then 2 ^ (f.ebits + f.mbits) else 0

/-! ### Exact values -/

/-- An exact value: a NaN, an infinity, or ± m × 2^e. -/
inductive FVal where
  | nan
  | inf (neg : Bool)
  | fin (neg : Bool) (m : Nat) (e : Int)
deriving DecidableEq, Repr

def FVal.zero : FVal := .fin false 0 0
def FVal.isFin : FVal → Bool
  | .fin _ _ _ => true
  | _ => false
def FVal.isZero : FVal → Bool
  | .fin _ m _ => m == 0
  | _ => false
def FVal.isNan : FVal → Bool
  | .nan => true
  | _ => false
def FVal.isInf : FVal → Bool
  | .inf _ => true
  | _ => false
def FVal.neg : FVal → Bool
  | .nan => false
  | .inf n => n
  | .fin n _ _ => n
def FVal.negate : FVal → FVal
  | .nan => .nan
  | .inf n => .inf (!n)
  | .fin n m e => .fin (!n) m e

/-- The value of an encoding. -/
def fmtDecode (f : Fmt) (bits : Nat) : FVal :=
  let neg := bits.testBit (f.ebits + f.mbits)
  let ex := bits / 2 ^ f.mbits % 2 ^ f.ebits
  let ma := bits % 2 ^ f.mbits
  let plain : FVal :=
    if ex = 0 then .fin neg ma (fmtQmin f) else .fin neg (2 ^ f.mbits + ma) (fmtQmin f + (ex - 1 : Nat))
  match f.special with
  | .ieee => if ex = 2 ^ f.ebits - 1 then (if ma = 0 then .inf neg else .nan) else plain
  | .e4m3 => if ex = 2 ^ f.ebits - 1 ∧ ma = 2 ^ f.mbits - 1 then .nan else plain
  | .allFinite => plain

/-- m × 2^d rounded toward zero for a negative `d`. -/
def shiftBy (m : Nat) (d : Int) : Nat := if d ≥ 0 then m * 2 ^ d.toNat else m / 2 ^ (-d).toNat

/-- Exact product under IEEE 754 (R61, R65). -/
def fMul : FVal → FVal → FVal
  | .nan, _ => .nan
  | _, .nan => .nan
  | .inf a, .inf b => .inf (a != b)
  | .inf a, .fin b m _ => if m = 0 then .nan else .inf (a != b)
  | .fin a m _, .inf b => if m = 0 then .nan else .inf (a != b)
  | .fin a m e, .fin b n g => .fin (a != b) (m * n) (e + g)

/-- Exact sum under IEEE 754; an exact zero sum of opposite signs is +0, or −0 where `down`. -/
def fAdd (down : Bool) : FVal → FVal → FVal
  | .nan, _ => .nan
  | _, .nan => .nan
  | .inf a, .inf b => if a = b then .inf a else .nan
  | .inf a, _ => .inf a
  | _, .inf b => .inf b
  | .fin a m e, .fin b n g =>
    let q := min e g
    let x := m * 2 ^ (e - q).toNat
    let y := n * 2 ^ (g - q).toNat
    if a = b then .fin a (x + y) q
    else if x > y then .fin a (x - y) q
    else if y > x then .fin b (y - x) q
    else .fin down 0 q

/-- m × 2^k as an exact value. -/
def scaleVal (v : FVal) (k : Int) : FVal :=
  match v with
  | .fin n m e => .fin n m (e + k)
  | w => w

/-- An integer as an exact value. -/
def fOfInt (i : Int) : FVal := .fin (decide (i < 0)) i.natAbs 0

/-- Compare two finite magnitudes. -/
def magLt (m : Nat) (e : Int) (n : Nat) (g : Int) : Bool :=
  let q := min e g
  decide (m * 2 ^ (e - q).toNat < n * 2 ^ (g - q).toNat)

/-- `a < b` for values that are not NaNs. -/
def fLt : FVal → FVal → Bool
  | .nan, _ => false
  | _, .nan => false
  | .inf a, .inf b => a && !b
  | .inf a, .fin _ _ _ => a
  | .fin _ _ _, .inf b => !b
  | .fin a m e, .fin b n g =>
    if m = 0 ∧ n = 0 then false
    else match a, b with
      | false, false => magLt m e n g
      | true, true => magLt n g m e
      | true, false => true
      | false, true => false

def fEq (a b : FVal) : Bool := !a.isNan && !b.isNan && !fLt a b && !fLt b a

/-! ### Rounding -/

/-- Rounding modes: those of R68 and of the RISC-V F extension; stochastic carries its 24-bit threshold (R75). -/
inductive Rm where
  | rne | rtz | rdn | rup | rmm
  | stoch (u : Nat)
deriving DecidableEq, Repr

/-- Whether the magnitude low + rem/den goes to low + 1. -/
def roundsUp (rm : Rm) (neg : Bool) (low rem den : Nat) : Bool :=
  match rm with
  | .rne => decide (2 * rem > den) || (decide (2 * rem = den) && decide (low % 2 = 1))
  | .rtz => false
  | .rdn => neg && decide (rem ≠ 0)
  | .rup => !neg && decide (rem ≠ 0)
  | .rmm => decide (2 * rem ≥ den) && decide (rem ≠ 0)
  | .stoch u => decide (rem * 2 ^ 24 / den > u)

/-- A nonzero magnitude m × 2^e rounded to `prec + 1` significant bits with spacing at least 2^qmin: the exponent of the
spacing, the count of spacings, and whether it is inexact. -/
def roundMag (prec : Nat) (qmin : Int) (rm : Rm) (neg : Bool) (m : Nat) (e : Int) : Int × Nat × Bool :=
  let q := max ((Nat.log2 m : Int) + e - prec) qmin
  let k := e - q
  if k ≥ 0 then (q, m * 2 ^ k.toNat, false)
  else
    let den := 2 ^ (-k).toNat
    let low := m / den
    let rem := m % den
    (q, if roundsUp rm neg low rem den then low + 1 else low, decide (rem ≠ 0))

/-- Magnitude bits of a finite value in format `f` before any limit is applied. -/
def magBits (f : Fmt) (rm : Rm) (neg : Bool) (m : Nat) (e : Int) : Nat × Bool :=
  if m = 0 then (0, false)
  else
    let (q, n, inexact) := roundMag f.mbits (fmtQmin f) rm neg m e
    ((q - fmtQmin f).toNat * 2 ^ f.mbits + n, inexact)

/-- A value in format `f`, saturating at the largest finite value (R70, R71); non-finite values by R72. -/
def satEncode (f : Fmt) (rm : Rm) (v : FVal) : Nat :=
  match v with
  | .nan => fmtNan f
  | .inf n => fmtSign f n + (match f.special with | .ieee => fmtInf f | _ => fmtMaxFin f)
  | .fin n m e => fmtSign f n + min (magBits f rm n m e).1 (fmtMaxFin f)

/-! ### Accumulation (R60 to R67, R266) -/

/-- Sticky bits of an accumulation step. -/
structure AccFlags where
  sat : Bool := false
  nonfin : Bool := false
deriving DecidableEq, Repr

def AccFlags.or (a b : AccFlags) : AccFlags := ⟨a.sat || b.sat, a.nonfin || b.nonfin⟩

/-- One fused step: the exact value `p` added to the accumulator `acc`, rounded to nearest even, saturating (R61, R266). -/
def fpAccumulate (f : Fmt) (acc : Nat) (p : FVal) : Nat × AccFlags :=
  match fAdd false (fmtDecode f acc) p with
  | .fin n m e =>
    let b := (magBits f .rne n m e).1
    if b > fmtMaxFin f then (fmtSign f n + fmtMaxFin f, ⟨true, false⟩) else (fmtSign f n + b, {})
  | v => (satEncode f .rne v, ⟨false, true⟩)

/-- A two's complement value of `w` bits. -/
def intOf (w bits : Nat) : Int :=
  let b := bits % 2 ^ w
  if b ≥ 2 ^ (w - 1) then (b : Int) - (2 ^ w : Nat) else b

/-- The low `w` bits of an integer. -/
def intBits (w : Nat) (i : Int) : Nat := (i % (2 ^ w : Nat)).toNat

/-- An integer clamped to the range of `w` bits, and whether it was changed. -/
def clampInt (w : Nat) (i : Int) : Int × Bool :=
  let hi : Int := (2 ^ (w - 1) : Nat) - 1
  let lo : Int := -((2 ^ (w - 1) : Nat) : Int)
  if i > hi then (hi, true) else if i < lo then (lo, true) else (i, false)

/-- One step of an INT32 accumulator (R67). -/
def intAccumulate (acc : Nat) (p : Int) : Nat × AccFlags :=
  let (v, sat) := clampInt 32 (intOf 32 acc + p)
  (intBits 32 v, ⟨sat, false⟩)

/-- The value of a stored element: an exact value, or an integer as one. Scale is the MX block's scale byte (R54, R56). -/
def elValue (t : ElType) (bits scale : Nat) : FVal :=
  match elFmt t with
  | some f =>
    if isMx t then
      if scale = 0xFF then .nan else scaleVal (fmtDecode f bits) ((scale : Int) - 127)
    else fmtDecode f bits
  | none => fOfInt (intOf (elBits t) bits)

/-- The integer an exact integral value stands for. -/
def fToInt : FVal → Int
  | .fin n m e => let k : Int := shiftBy m e; if n then -k else k
  | _ => 0

/-! ### Writeback conversion (R68 to R75) -/

/-- The random word of R75. -/
def srWord (seed idx : Nat) : Nat :=
  let x : BitVec 32 := BitVec.ofNat 32 seed ^^^ (BitVec.ofNat 32 idx * 0x9E3779B9#32)
  let x := x ^^^ (x >>> 16)
  let x := x * 0x85EBCA6B#32
  let x := x ^^^ (x >>> 13)
  let x := x * 0xC2B2AE35#32
  (x ^^^ (x >>> 16)).toNat

/-- The rounding mode that ROUND names, for output element `idx` (R68, R75). -/
def roundMode (round seed idx : Nat) : Rm :=
  match round with
  | 0 => .rne
  | 1 => .rtz
  | _ => .stoch (srWord seed idx / 2 ^ 8)

/-- Output types that an accumulator of the given type may take (R69). -/
def mayOutput (acc32 accInt : Bool) (t : ElType) : Bool :=
  if accInt then t == .int32 || t == .int8 || t == .int4
  else if acc32 then !isInt t && t != .fp64
  else t == .fp64 || t == .fp32

/-- An integer shifted right by `sh` with ties to even (R73). -/
def shiftRne (i : Int) (sh : Nat) : Int :=
  let den : Int := (2 ^ sh : Nat)
  let low := i / den
  let rem := i % den
  if 2 * rem > den ∨ (2 * rem = den ∧ low % 2 = 1) then low + 1 else low

/-- Integer output: shift, then clamp (R73). -/
def intOutput (t : ElType) (acc sh : Nat) : Nat :=
  intBits (elBits t) (clampInt (elBits t) (shiftRne (intOf 32 acc) sh)).1

/-- A scaled value as a non-MX floating-point output, and whether the conversion is non-finite (R70 to R72). -/
def fpOutput (t : ElType) (rm : Rm) (v : FVal) : Nat × Bool :=
  match elFmt t with
  | some f => (satEncode f rm v, !v.isFin)
  | none => (0, !v.isFin)

/-- Writeback of one accumulator to a non-MX type: `accFmt` is the accumulator's format. An FP32 accumulator written as FP32
with OUT_SCALE 1.0 is copied unchanged (R70). -/
def writebackFp (accFmt : Fmt) (acc : Nat) (outScale : Nat) (t : ElType) (rm : Rm) : Nat × Bool :=
  let a := fmtDecode accFmt acc
  if accFmt = fmtFp32 ∧ t = .fp32 ∧ outScale = 0x3F800000 then (acc, !a.isFin)
  else fpOutput t rm (fMul a (fmtDecode fmtFp32 outScale))

/-- emax of an MX element encoding (R74). -/
def mxEmax : ElType → Int
  | .mxfp4 | .mx6e2m3 => 2
  | .mx6e3m2 => 4
  | .mx8e4m3 => 8
  | .mx8e5m2 => 15
  | _ => 0

/-- floor(log2) of a nonzero magnitude. -/
def floorLog2 (m : Nat) (e : Int) : Int := (Nat.log2 m : Int) + e

/-- Largest magnitude among the finite values, as m × 2^e. -/
def maxMag : List FVal → Nat × Int
  | [] => (0, 0)
  | .fin _ m e :: t =>
    let r := maxMag t
    if magLt r.1 r.2 m e then (m, e) else r
  | _ :: t => maxMag t

/-- The scale byte of a block whose contributing values are `vs` (R74). -/
def mxScale (t : ElType) (vs : List FVal) : Nat :=
  if vs.any FVal.isNan then 0xFF
  else if vs.all FVal.isZero then 0x00
  else
    let m := maxMag vs
    if m.1 = 0 then 0xFE
    else
      let x := floorLog2 m.1 m.2 - mxEmax t
      (max (-127) (min 127 x) + 127).toNat

/-- One element of a block under scale byte `scale` (R74): zero in a NaN block, infinity to the largest finite element. A negative zero
keeps its sign, also in a block of zeros (DESIGN CHOICE, assumption 123). -/
def mxElement (t : ElType) (scale : Nat) (rm : Rm) (v : FVal) : Nat :=
  match elFmt t with
  | none => 0
  | some f =>
    if scale = 0xFF ∨ v.isNan then 0
    else match v with
      | .inf n => fmtSign f n + fmtMaxFin f
      | w => satEncode f rm (scaleVal w (127 - (scale : Int)))

/-! ### Copy conversion (R76) and estimate codes (R77) -/

/-- Every value of `s` is a value of `d` (R76: widening). -/
def widening (s d : ElType) : Bool :=
  if s == d then true
  else match s, d with
    | .int4, .int8 | .int4, .int32 | .int8, .int32 => true
    | .fp4, .e4m3 | .fp4, .e5m2 | .fp4, .fp16 | .fp4, .bf16 | .fp4, .fp32 | .fp4, .fp64 => true
    | .e4m3, .fp16 | .e4m3, .bf16 | .e4m3, .fp32 | .e4m3, .fp64 => true
    | .e5m2, .fp16 | .e5m2, .bf16 | .e5m2, .fp32 | .e5m2, .fp64 => true
    | .fp16, .fp32 | .fp16, .fp64 | .bf16, .fp32 | .bf16, .fp64 | .fp32, .fp64 => true
    | _, _ => false

/-- A copy may convert `s` to `d` (R76). -/
def mayConvert (s d : ElType) : Bool :=
  s == d || (!isMx s && !isMx d && isInt s == isInt d)

/-- One element converted by a copy, and whether the conversion is non-finite (R76). A NaN widens to the canonical NaN and is no
non-finite conversion (DESIGN CHOICE, assumption 124). -/
def copyConvert (s d : ElType) (bits round seed idx outScale outShift : Nat) : Nat × Bool :=
  if s = d then (bits, false)
  else if isInt s then
    let i := intOf (elBits s) bits
    if widening s d then (intBits (elBits d) i, false)
    else (intBits (elBits d) (clampInt (elBits d) (shiftRne i outShift)).1, false)
  else if widening s d then ((fpOutput d .rne (elValue s bits 127)).1, false)
  else fpOutput d (roundMode round seed idx) (fMul (elValue s bits 127) (fmtDecode fmtFp32 outScale))

/-- The E2M1 estimate code of an element (R77); only FP8, BF16 and FP4 operands have one. -/
def estimateCode (t : ElType) (bits : Nat) : Option Nat :=
  match t with
  | .e4m3 | .e5m2 => some (bits / 16 % 16)
  | .bf16 =>
    let e := bits / 128 % 256
    some ((if bits.testBit 15 then 8 else 0) + min 7 (e / 2 - 60))
  | .fp4 => some (bits % 16)
  | _ => none

end Sys2Proof.Machine
end

