-- ==== Sys2Proof/Machine/StateCore.lean ====
section
/-! DEFINITION. Machine/StateCore.lean: the state of one core as plain data (04 to 09, 12, 13). Field defaults are the reset
values (INVENTORY.md lists each with its rule; a value marked [n] there is the model's, assumption n). -/

namespace Sys2Proof.Machine

open Sys2Proof

/-- Bytes by address, in canonical form: addresses strictly rising, no entry equal to what an unlisted address reads as. -/
abbrev Mem := List Host.Cell

/-! ### Cores: contexts (04) -/

/-- States of a context (R121). -/
inductive CtxSt where
  | idle | running | waiting | halted | faulted
deriving DecidableEq, Repr

/-- What a WAITING context waits for (R122). -/
inductive Wait where
  /-- A KPUSH that met a full issue queue or 32 outstanding descriptors. -/
  | kpush
  /-- A KWAIT on an incomplete descriptor: destination register and SEQ. -/
  | kwait (rd seq : Nat)
  /-- A KDRAIN: destination register. -/
  | kdrain (rd : Nat)
  /-- A KRECV on an empty mailbox: destination register and window address. -/
  | krecv (rd addr : Nat)
  /-- A KCLAIM that awaits its reply: destination register. -/
  | kclaim (rd : Nat)
  /-- A load, LR, SC or AMO of `len` bytes that awaits its data. -/
  | narrow (len : Nat)
  /-- A FENCE: every narrow access of the context must have been performed (R160). -/
  | fence
deriving DecidableEq, Repr

/-- One result of the token window (R130). -/
structure Token where
  seq : Nat
  done : Bool := false
  status : BitVec 16 := 0
  summary : BitVec 8 := 0
deriving DecidableEq, Repr

/-- A scoreboard range: bytes `lo` to `hi - 1`, rounded outward to 64 bytes (R141). -/
structure SbRange where
  lo : Nat
  hi : Nat
  wr : Bool
deriving DecidableEq, Repr

/-- A scoreboard entry (R141). -/
structure SbEntry where
  lo : Nat
  hi : Nat
  readers : Nat
  writer : Bool
deriving DecidableEq, Repr

/-- A pushed descriptor in an issue queue (R129): the copy of the descriptor and of its loop nests, the captured
registers, and where it stands in issue. -/
structure QDesc where
  seq : Nat
  /-- Push order over the core (R139). -/
  push : Nat
  /-- Scratchpad address of the window at the push. -/
  base : Nat := 0
  desc : BitVec 1024
  nests : List (BitVec 1792) := []
  caps : List (Nat × W64) := []
  /-- SCLK cycle at which it reached the head of its queue. -/
  headSince : Option Nat := none
  /-- It passed stage 3 and waits for its unit with its entries held (R198). -/
  passed : Bool := false
  holds : List SbRange := []
  /-- Operand headers read in stage 3, by slot number 0 A, 1 B, 2 D, 3 X (R89). -/
  hdrs : List (Nat × BitVec 512) := []
  /-- It passed stage 1 (R138). -/
  past1 : Bool := false
  /-- Stage 3 read a header word that cannot be corrected (R170). -/
  ue : Bool := false
  /-- AON cycle since which it waits on ring or relay slots that it reads (R384), and since which, a head fill, it waits for its relay
  slot (R358, R362). -/
  slotSince : Option Nat := none
  fillSince : Option Nat := none
  /-- Its wait in stage 2 has been reported (R526). -/
  c0Waited : Bool := false
deriving DecidableEq, Repr

/-- A context (R121). -/
structure Ctx where
  st : CtxSt := .idle
  pc : W64 := 0
  x : Tab W64 := []
  f : Tab W64 := []
  fflags : BitVec 5 := 0
  frm : BitVec 3 := 0
  instret : W64 := 0
  classFloor : BitVec 2 := 3
  entry : BitVec 15 := 0
  base : BitVec 18 := 0
  bound : BitVec 19 := 0
  faultPc : BitVec 32 := 0
  cause : BitVec 8 := 0
  queue : List QDesc := []
  nextSeq : Nat := 1
  window : List Token := []
  drainSum : BitVec 8 := 0
  drainBad : Bool := false
  wait : Option Wait := none
  haltPending : Bool := false
  killPending : Bool := false
  /-- LR reservation: scratchpad address and size. -/
  resv : Option (Nat × Nat) := none
  /-- AON cycle of the doorbell read whose C0 message woke it, until its next issue (R527). -/
  hostSince : Option Nat := none
deriving DecidableEq, Repr

/-! ### Cores: running descriptors -/

/-- The units that run descriptors (R137). -/
inductive Engine where
  | array | mvp | fairlead | accPath | memOp | dma
deriving DecidableEq, Repr

/-- The seven metadata counts of R106, in the order of the completion record. -/
structure MetaCounts where
  idxRange : Nat := 0
  idxOrder : Nat := 0
  rowOffset : Nat := 0
  overfull : Nat := 0
  spill : Nat := 0
  bmapCount : Nat := 0
  xpose : Nat := 0
deriving DecidableEq, Repr

/-- A place that a burst reads or writes. -/
inductive Loc where
  | spad (core addr : Nat)
  | device (addr : Nat)
  | remote (module addr : Nat)
  /-- A slot of a slot ring (target below 16) or of a fold channel (16 + n) of a core. -/
  | slot (core target seq off : Nat)
  /-- The stream of a tree entry (R452). -/
  | tree (n : Nat)
  /-- The engine itself, which keeps the data of a read until it has all of the source. -/
  | engine
deriving DecidableEq, Repr

/-- A burst of the DMA engine (R335). -/
structure Burst where
  idx : Nat
  /-- Execution that it belongs to (R181, R352). -/
  exec : Nat := 0
  /-- Where the data comes from; `none` when `data` is the data. -/
  src : Option Loc
  data : List Byte := []
  dst : Loc
  len : Nat
  issued : Bool := false
  done : Bool := false
  /-- AON cycle of issue (R402). -/
  since : Nat := 0
  /-- Fabric transaction tag, or TSEQ of a tree frame; the answer's status (0 OK) once it has come; the WRITE has been sent. -/
  xtag : Nat := 0
  answer : Option Nat := none
  sent : Bool := false
  /-- TD and END of its frame (R443, R452). -/
  td : Bool := false
  last : Bool := false
  /-- Its number among the packets of its core (R370), and whether a packet of it has been lost or discarded on its way, so that no answer
  comes (R45, R402). -/
  no : Nat := 0
  lost : Bool := false
  /-- Where its data is computed from what it reads (R329, R333): the place of its first byte among the bytes of the execution, and how many
  bytes it reads; else it moves its bytes as they are. -/
  makes : Option Nat := none
  srcLen : Nat := 0
deriving DecidableEq, Repr

/-- What an execution reports: its number, the bits of its flag word, the unwritten rows that it reads (R148, R167). -/
structure ExecNote where
  exec : Nat
  bits : List Nat
  rows : List Nat
deriving DecidableEq, Repr

/-- A write of an operation that a unit carries out whole: its execution, its first byte, and values of so many bits each (R162). -/
structure Put where
  exec : Nat
  addr : Nat
  width : Nat := 8
  vals : List Nat
deriving DecidableEq, Repr

/-- A dispatched descriptor. -/
structure Run where
  ctx : Nat
  seq : Nat
  base : Nat := 0
  desc : BitVec 1024
  nests : List (BitVec 1792) := []
  caps : List (Nat × W64) := []
  hdrs : List (Nat × BitVec 512) := []
  holds : List SbRange := []
  eng : Engine
  /-- Dispatch order over the core (R339); ACLK, AON and NCLK cycle of dispatch; SCLK cycles waited at the head. -/
  order : Nat := 0
  dispAclk : Nat := 0
  dispAon : Nat := 0
  dispNclk : Nat := 0
  waitSclk : Nat := 0
  /-- Every write of the descriptor is visible: it may complete (R144). -/
  finished : Bool := false
  /-- Stopped by a cancel (R351); its context was killed while it ran (R322). -/
  stopped : Bool := false
  killed : Bool := false
  /-- Some destination byte was written (R352). -/
  wrote : Bool := false
  /-- Tiles or executions that were partly or wholly written (R352). -/
  written : List Nat := []
  /-- What the executions of a copy or send will report when it completes. -/
  notes : List ExecNote := []
  status : BitVec 16 := 0
  counts : MetaCounts := {}
  skippedOut : Nat := 0
  unwritten : Nat := 0
  satTiles : Nat := 0
  nonfinTiles : Nat := 0
  tiles : Nat := 0
  summary : BitVec 8 := 0
  /-- The tile in work, by its place in the order of tiles, and whether it is still to be reported (R268). -/
  tile : Nat := 0
  openTile : Bool := false
  /-- The burst plan of a descriptor of the DMA engine, and whether it runs on the small path (R338). -/
  bursts : List Burst := []
  small : Bool := false
  /-- A conversion of the tensor in work is non-finite (R72). -/
  nonfin : Bool := false
  /-- Phase of the execution in work (R331): 0 none, 1 header, 2 VALID to zero, 3 source into the engine, 4 writes, 5 VALID. -/
  phase : Nat := 0
  /-- Bursts planned so far. -/
  planned : Nat := 0
  /-- Source tensor of the execution as the engine has read it. -/
  source : List Byte := []
  /-- Writes of a fill, copy, merge, intersect or top-k select that are still to be issued (R351). -/
  rest : List Put := []
deriving DecidableEq, Repr

/-! ### Cores: scratchpad, accumulators -/

/-- What a narrow access does (R156). -/
inductive NarrowKind where
  | load (rd : Nat) (fp : Bool) (signed : Bool)
  | store
  | lr (rd : Nat)
  | sc (rd : Nat)
  | amo (rd : Nat) (op : Nat)
deriving DecidableEq, Repr

/-- An entry of the narrow queue (R157). -/
structure Narrow where
  ctx : Nat
  kind : NarrowKind
  addr : Nat
  size : Nat
  data : W64 := 0
  /-- ACLK cycle of entry. -/
  since : Nat := 0
  /-- Its context was killed: no data is delivered (R124). -/
  dead : Bool := false
deriving DecidableEq, Repr

/-- The scratchpad of a core with its registers (05). -/
structure Spad where
  bytes : Mem := []
  /-- Rows (of 32 bytes, by address div 32) whose written-since-commission bit is set, rising: its three copies (R169). -/
  written : List Nat := []
  written1 : List Nat := []
  written2 : List Nat := []
  queue : List Narrow := []
  /-- Word addresses whose corrected value waits to be written back (R170). -/
  toWriteBack : List Nat := []
  lowBank : BitVec 5 := 0
  lowLeft : BitVec 5 := 0x10
  mapped : BitVec 10 := 0
  ueWord : BitVec 21 := 0
  ueCount : BitVec 16 := 0
  ceCount : BitVec 16 := 0
  gathers : BitVec 16 := 0
  unwrittenNarrow : BitVec 32 := 0
deriving DecidableEq, Repr

/-- Accumulator types (R257). -/
inductive AccType where
  | fp32 | int32 | fp64
deriving DecidableEq, Repr

/-- States of an accumulation group (R259). -/
inductive GroupSt where
  | free | opened | folding
deriving DecidableEq, Repr

/-- An accumulation group of the array, or a set of the matrix-vector path (R255). Entry (i, j) has key 64 i + j; an
unlisted entry holds the opening value. -/
structure Group where
  st : GroupSt := .free
  owner : Nat := 0
  ty : AccType := .fp32
  acc : Tab W64 := []
  sat : Bool := false
  nonfin : Bool := false
  /-- It has received products since it opened (R194). -/
  received : Bool := false
  /-- It lives in the accumulator buffer (R275). -/
  buffered : Bool := false
  /-- An uncorrectable buffer word entered its sums (R274). -/
  ue : Bool := false
deriving DecidableEq, Repr

/-- States of a fold channel (R289). -/
inductive FoldSt where
  | idle | armed | complete | timeout | refused | waiting
deriving DecidableEq, Repr

/-- State of one slot of a slot ring or fold channel (R381, R383). -/
inductive SlotSt where
  | empty
  | granted (seq : Nat) (since : Nat)
  | filled (seq : Nat)
deriving DecidableEq, Repr

/-- A fold channel (R278). -/
structure Fold where
  cfg : W64 := 0
  st : FoldSt := .idle
  next : Nat := 0
  /-- Arming order over the core. -/
  order : Nat := 0
  slots : Tab SlotSt := []
  /-- AON cycle since which the slot of NEXT is awaited (R390). -/
  since : Nat := 0
  /-- The slot of NEXT is being folded: its adds have been offered to the buffer (R273, R281). -/
  busy : Bool := false
deriving DecidableEq, Repr

/-- An add in a conflict queue of the accumulator buffer (R272): group, entry, exact value to add and accumulator type. -/
structure AbufAdd where
  group : Nat
  entry : Nat
  value : FVal
  ty : AccType
deriving DecidableEq, Repr

/-- Accumulators of a core with their registers (09), and the registers of array and fairlead (07, 08). -/
structure Acc where
  groups : Tab Group := []
  sets : Tab Group := []
  folds : Tab Fold := []
  foldOrder : Nat := 0
  /-- Bytes of the fold area, by buffer address (R270). -/
  foldArea : Mem := []
  /-- Conflict queues by bank, and the batches of the fairlead and of the fold channels that wait to enter them, oldest first; whether
  the fold channels are next where both wait (R271 to R273). -/
  conflict : Tab (List AbufAdd) := []
  waiting : List (List AbufAdd) := []
  foldWaiting : List (List AbufAdd) := []
  foldTurn : Bool := false
  abandoned : BitVec 16 := 0
  implicitOpen : BitVec 16 := 0
  foldDiscard : BitVec 16 := 0
  ueCount : BitVec 8 := 0
  ceCount : BitVec 8 := 0
  fldEntries : BitVec 32 := 0
  fldMatches : BitVec 32 := 0
  fldAbufStall : BitVec 32 := 0
  fldSpadStall : BitVec 32 := 0
  arrSupply : BitVec 32 := 0
  arrWriteback : BitVec 32 := 0
  arrBusy : BitVec 32 := 0
  mvpBusy : BitVec 32 := 0
deriving DecidableEq, Repr

/-! ### Cores: DMA, halyard, mesh -/

/-- A cancel in progress (R348 to R354). -/
structure Cancel where
  mask : BitVec 8
  tag : BitVec 16
  accepted : Nat := 0
  /-- Number of the job cancel that it serves (`Hif.nextTag`); 0 for a DMA_CANCEL write. -/
  serial : Nat := 0
deriving DecidableEq, Repr

/-- States of a halyard member (R365). -/
inductive HalSt where
  | off | running | broken | configError | stopped
deriving DecidableEq, Repr

/-- A relay slot of a halyard member (R357): its complete tile, if any, and what has been done with it. -/
structure RelaySlot where
  tile : Option Nat := none
  forwarded : Bool := false
  released : Bool := false
  /-- At the head: the slot's next tile is complete, and enters the chain after the tile before it (R336, R358). -/
  arrived : Bool := false
deriving DecidableEq, Repr

/-- The halyard member of a core (R356). -/
structure Hal where
  cfg : W64 := 0x03E8030000000000
  tile : BitVec 32 := 0
  st : HalSt := .off
  stall : BitVec 32 := 0
  forwarded : BitVec 32 := 0
  slots : Tab RelaySlot := []
  /-- Next tile to forward; the forward in flight; AON cycle since which a forward waits. -/
  nextFwd : Nat := 1
  inFlight : Bool := false
  since : Option Nat := none
  /-- NCLK cycle from which the wait of a forward, and that of a head fill, is still to be counted in `stall` (R361). -/
  fwdFrom : Option Nat := none
  fillFrom : Option Nat := none
  /-- Number among the core's packets of the latest forward's first one (R370). -/
  fwdNo : Nat := 0
  /-- Releases asked for and not applied: context and its push count at the release. -/
  pendingRel : List (Nat × Nat) := []
  head : Nat := 1
deriving DecidableEq, Repr

/-- A read burst of a stopped descriptor whose data has not arrived (R353): it keeps its tracker entry (R337, R338). -/
structure Late where
  ctx : Nat
  seq : Nat
  queue : Nat
  small : Bool
  cls : Nat
  burst : Burst
deriving DecidableEq, Repr

/-- The DMA engine of a core (12). -/
structure Dma where
  limit : Tab (BitVec 8) := []
  cancel : Option Cancel := none
  fenceDone : Bool := false
  fenceTag : BitVec 16 := 0
  discarded : BitVec 32 := 0
  cancelBusy : BitVec 16 := 0
  late : List Late := []
  /-- A function-level reset of the core's partition has come: its writes reach host memory no more (R511). -/
  hostMute : Bool := false
  hal : Hal := {}
deriving DecidableEq, Repr

/-- A message in a mailbox (R373). -/
abbrev Mail := List Byte

/-- A slot ring (R377). -/
structure Ring where
  opened : Bool := false
  owner : Nat := 0
  /-- Scratchpad byte address of slot 0. -/
  base : Nat := 0
  size : Nat := 0
  slots : Nat := 0
  producer : Nat := 0
  any : Bool := false
  head : Nat := 0
  st : Tab SlotSt := []
  /-- Releases accepted and not yet applied: context and its push count at the release. -/
  pendingRel : List (Nat × Nat) := []
  closing : Bool := false
deriving DecidableEq, Repr

/-- States of an execution of a send, or of a firmware message, at its source (R374, R381). -/
inductive SendSt where
  /-- Not yet sent. -/
  | ready
  /-- On its way, or held at the destination. -/
  | sent
  /-- Refused; to be sent again. -/
  | refused
  /-- A credit was granted; data moves. -/
  | granted
  /-- An answer waits at the source: 0 GRANT, 1 DISCARD, 2 REJECT. -/
  | answered (ans : Nat)
  /-- Discarded on its way (R45): no answer comes. -/
  | dropped
  | done
deriving DecidableEq, Repr

/-- One execution of a send at its source. -/
structure SendEx where
  /-- Number of the execution among all that this source has sent. -/
  id : Nat := 0
  ctx : Nat
  seq : Nat
  exec : Nat
  dst : Nat
  /-- 0 mailbox, 1 slot ring or fold channel. -/
  kind : Nat
  target : Nat := 0
  slotSeq : Nat := 0
  msg : Mail := []
  data : List Byte := []
  cls : Nat := 0
  st : SendSt := .ready
  /-- AON and NCLK cycle of the latest change, and AON cycle of the first request (R386). -/
  since : Nat := 0
  nclk : Nat := 0
  asked : Nat := 0
  /-- Number of its latest packet among those of its source, and of its answer among those that have come to the source (R370). -/
  no : Nat := 0
  ansNo : Nat := 0
deriving DecidableEq, Repr

/-- A credit request held at its destination (R382). -/
structure Held where
  src : Nat
  idx : Nat
  target : Nat
  slotSeq : Nat
  len : Nat
  part : Nat
deriving DecidableEq, Repr

/-- Mesh part of a core (13) and its C0 registers (17). -/
structure Mesh where
  mailbox : List Mail := []
  rings : Tab Ring := []
  held : List Held := []
  sends : List SendEx := []
  sendNo : Nat := 0
  /-- Packets that the core has sent, and credit answers that have come to it (R370). -/
  packetNo : Nat := 0
  answerNo : Nat := 0
  respTimeout : BitVec 16 := 0x64
  creditWait : BitVec 16 := 0x3E8
  slotWait : BitVec 16 := 0x3E8
  xpartDrop : BitVec 16 := 0
  /-- DMA accesses refused for their HBM range (R46): no register shows the count (assumption 151). -/
  regionFaults : Nat := 0
  /-- NCLK cycle of the latest gain of the core's pacer (R517). -/
  c0Last : Nat := 0
  slotDiscard : BitVec 16 := 0
  creditNack : BitVec 16 := 0
  mboxNack : BitVec 16 := 0
  c0Token : Bool := true
  c0En : Bool := false
deriving DecidableEq, Repr

/-- A KCLAIM request on its way to the work-counter unit (R133); `dead` once its context was killed (R124). -/
structure ClaimReq where
  ctx : Nat
  rs1 : W64
  rs2 : W64
  dead : Bool := false
deriving DecidableEq, Repr

/-- A core (04). -/
structure Core where
  imem : Mem := []
  lastServed : Nat := 7
  /-- SCLK count at which CSR cycle read zero. -/
  cycle0 : Nat := 0
  ctxs : Tab Ctx := []
  krecvOrder : List Nat := []
  claims : List ClaimReq := []
  pushes : Nat := 0
  dispatches : Nat := 0
  sb : List SbEntry := []
  runs : List Run := []
  spad : Spad := {}
  acc : Acc := {}
  dma : Dma := {}
  mesh : Mesh := {}
deriving DecidableEq, Repr

end Sys2Proof.Machine
end

