-- ==== Sys2Proof/Machine/Tensor.lean ====
section
/-! DEFINITION. Machine/Tensor.lean: tensor headers, their validity, the arrays of the six formats and the decoding of their
metadata with its faults (03 R81 to R113). A reader is a function from a byte address to the byte there. -/

namespace Sys2Proof.Machine

open Sys2Proof

/-- `n` bits of `w` from bit `lo` upward. -/
def bf (w lo n : Nat) : Nat := w / 2 ^ lo % 2 ^ n

/-- Little-endian value of `n` bytes at address `a` (R8). -/
def leAt (rd : Nat → Nat) (a : Nat) : Nat → Nat
  | 0 => 0
  | n + 1 => rd a + 256 * leAt rd (a + 1) n

/-- `w` bits from bit position `p`, counted from bit 0 of address 0 (R53). -/
def bitsAt (rd : Nat → Nat) (p w : Nat) : Nat :=
  bf (leAt rd (p / 8) ((p % 8 + w + 7) / 8)) (p % 8) w

def ceilDiv (a b : Nat) : Nat := (a + b - 1) / b
def align64 (a : Nat) : Nat := ceilDiv a 64 * 64

/-- A tensor header (R82). -/
structure Hdr where
  magic : Nat
  fmt : Nat
  ety : Nat
  rank : Nat
  flags : Nat
  p0 : Nat
  p1 : Nat
  ext : List Nat
  payOff : Nat
  metaOff : Nat
  scaleOff : Nat
  nnz : Nat
  total : Nat
  version : Nat
  valid : Nat
deriving DecidableEq, Repr

/-- The header whose 64 bytes are the little-endian number `w`. -/
def hdrOf (w : Nat) : Hdr :=
  let b (o n : Nat) : Nat := bf w (8 * o) (8 * n)
  { magic := b 0 2, fmt := b 2 1, ety := b 3 1, rank := b 4 1, flags := b 5 1, p0 := b 6 1, p1 := b 7 1
    ext := [b 8 4, b 12 4, b 16 4, b 20 4, b 24 4, b 28 4]
    payOff := b 32 6, metaOff := b 38 6, scaleOff := b 44 6, nnz := b 50 6, total := b 56 6
    version := b 62 1, valid := b 63 1 }

/-- The 64 bytes of a header, as a little-endian number. -/
def hdrWord (h : Hdr) : Nat :=
  let e (i : Nat) : Nat := h.ext.getD i 0 % 2 ^ 32 * 2 ^ (64 + 32 * i)
  h.magic % 2 ^ 16 + h.fmt % 256 * 2 ^ 16 + h.ety % 256 * 2 ^ 24 + h.rank % 256 * 2 ^ 32 + h.flags % 256 * 2 ^ 40
    + h.p0 % 256 * 2 ^ 48 + h.p1 % 256 * 2 ^ 56 + e 0 + e 1 + e 2 + e 3 + e 4 + e 5
    + h.payOff % 2 ^ 48 * 2 ^ 256 + h.metaOff % 2 ^ 48 * 2 ^ 304 + h.scaleOff % 2 ^ 48 * 2 ^ 352
    + h.nnz % 2 ^ 48 * 2 ^ 400 + h.total % 2 ^ 48 * 2 ^ 448 + h.version % 256 * 2 ^ 496 + h.valid % 256 * 2 ^ 504

/-- `n` bytes of a number, lowest first. -/
def leBytes : Nat → Nat → List Byte
  | 0, _ => []
  | n + 1, w => BitVec.ofNat 8 w :: leBytes n (w / 256)

def hExt (h : Hdr) (d : Nat) : Nat := h.ext.getD d 0
/-- C: the extent of dimension 0 (R85). -/
def hC (h : Hdr) : Nat := hExt h 0
def prodList : List Nat → Nat
  | [] => 1
  | a :: t => a * prodList t
/-- Rows (R85). -/
def hRows (h : Hdr) : Nat := prodList ((h.ext.take h.rank).drop 1)
/-- Matrices (R85). -/
def hMats (h : Hdr) : Nat := prodList ((h.ext.take h.rank).drop 2)
/-- EXTENT1, read as 1 for a rank-1 tensor (R85). -/
def hE1 (h : Hdr) : Nat := if h.rank ≤ 1 then 1 else hExt h 1
def hElBits (h : Hdr) : Nat := match elTypeOf h.ety with | some t => elBits t | none => 8
def hIsMx (h : Hdr) : Bool := match elTypeOf h.ety with | some t => isMx t | none => false
/-- Block size of a BLOCK tensor (R84). -/
def hB (h : Hdr) : Nat := 8 * 2 ^ h.p0
/-- N:M groups of a row, bitmap runs of a row (R92). -/
def hG (h : Hdr) : Nat := ceilDiv (hC h) h.p1
def hU (h : Hdr) : Nat := ceilDiv (hC h) 64
def hIdx32 (h : Hdr) : Bool := h.flags.testBit 2
def hSpill (h : Hdr) : Bool := h.flags.testBit 3
def hXpose (h : Hdr) : Bool := h.flags.testBit 0
def hBlockList (h : Hdr) : Bool := h.flags.testBit 1
def hColBytes (h : Hdr) : Nat := if hIdx32 h then 4 else 2
/-- Spill values S (R92). -/
def hS (h : Hdr) : Nat := h.nnz - hRows h * hG h * h.p0
/-- Bytes of one row of NM fixed slots. -/
def hSlotRow (h : Hdr) : Nat := ceilDiv (hG h * h.p0 * hElBits h) 8
/-- Block rows of the whole tensor. -/
def hBlockRows (h : Hdr) : Nat := hMats h * ceilDiv (hE1 h) (hB h)
/-- 64-bit words of BBITMAP for one block row. -/
def hBWords (h : Hdr) : Nat := ceilDiv (hC h) (64 * hB h)

/-- Sizes of the metadata arrays in order (R92). -/
def metaSizes (h : Hdr) : List Nat :=
  match h.fmt with
  | 1 => (hRows h * ceilDiv (hG h * h.p1) 8) :: (if hSpill h then [(hRows h + 1) * 4] else [])
  | 2 => [(hRows h + 1) * 4, hRows h * hU h * 8, hRows h * hU h]
  | 3 => if hBlockList h then [(hBlockRows h + 1) * 4, h.nnz / (hB h * hB h) * 4]
         else [hBlockRows h * hBWords h * 8]
  | 4 => [(hRows h + 1) * 4, h.nnz * hColBytes h]
  | 5 => [h.nnz * 4, h.nnz * hColBytes h]
  | _ => []

/-- Offsets of arrays of the given sizes, each after the first at a 64-byte boundary (R91). -/
def arrayOffs (o : Nat) : List Nat → List Nat
  | [] => []
  | s :: t => o :: arrayOffs (align64 (o + s)) t

/-- Offset of metadata array `i`. -/
def metaOffs (h : Hdr) (i : Nat) : Nat := (arrayOffs h.metaOff (metaSizes h)).getD i h.metaOff

/-- First offset of the spill values: the first 64-byte boundary after the fixed slots (R92). -/
def spillOff (h : Hdr) : Nat := align64 (h.payOff + hRows h * hSlotRow h)

/-- Payload size (R92). -/
def payloadSize (h : Hdr) : Nat :=
  match h.fmt with
  | 0 => hRows h * ceilDiv (hC h * hElBits h) 8
  | 1 => if hSpill h ∧ hS h ≠ 0 then spillOff h - h.payOff + ceilDiv (hS h * hElBits h) 8 else hRows h * hSlotRow h
  | 3 => h.nnz * hElBits h / 8
  | _ => ceilDiv (h.nnz * hElBits h) 8

/-- Scale array size (R94). -/
def scaleSize (h : Hdr) : Nat := if hIsMx h then hRows h * ceilDiv (hC h) 32 else 0

/-- Ranges (offset, size) of every array with bytes. -/
def hRanges (h : Hdr) : List (Nat × Nat) :=
  (((arrayOffs h.metaOff (metaSizes h)).zip (metaSizes h)) ++ [(h.payOff, payloadSize h), (h.scaleOff, scaleSize h)]).filter
    (fun r => r.2 ≠ 0)

def disjoint (a b : Nat × Nat) : Bool := decide (a.1 + a.2 ≤ b.1) || decide (b.1 + b.2 ≤ a.1)
def allDisjoint : List (Nat × Nat) → Bool
  | [] => true
  | a :: t => t.all (disjoint a) && allDisjoint t

/-- FLAGS, PARAM0 and PARAM1 obey R83 and R84. -/
def flagsParamsOk (fmt flags p0 p1 : Nat) : Bool :=
  match fmt with
  | 1 => decide (flags &&& 0xF6 = 0) && ((p0, p1) == (1, 4) || (p0, p1) == (2, 4) || (p0, p1) == (2, 8) || (p0, p1) == (4, 8))
  | 3 => decide (flags &&& 0xFD = 0) && decide (p0 ≤ 2) && p1 == 0
  | 4 | 5 => decide (flags &&& 0xFB = 0) && p0 == 0 && p1 == 0
  | _ => flags == 0 && p0 == 0 && p1 == 0

/-- NNZ obeys the rule of R92 for the format. -/
def nnzOk (h : Hdr) : Bool :=
  match h.fmt with
  | 0 => h.nnz == prodList (h.ext.take h.rank)
  | 1 => if hSpill h then decide (h.nnz ≥ hRows h * hG h * h.p0) else h.nnz == hRows h * hG h * h.p0
  | 3 => h.nnz % (hB h * hB h) == 0 && (!hBlockList h || decide (h.nnz / (hB h * hB h) < 2 ^ 32))
  | _ => decide (h.nnz < 2 ^ 32)

/-- A header at address `a` is valid (R86). -/
def hdrValid (h : Hdr) (a : Nat) : Bool :=
  h.valid == 0xA5 && h.magic == 0x4E4B && h.version == 1
    && a % 64 == 0 && h.payOff % 64 == 0 && h.metaOff % 64 == 0 && h.scaleOff % 64 == 0
    && decide (h.fmt ≤ 5)
    && (match elTypeOf h.ety with | none => false | some .int32 => h.fmt == 0 | some _ => true)
    && decide (1 ≤ h.rank) && decide (h.rank ≤ 6) && (h.ext.drop h.rank).all (· == 0)
    && flagsParamsOk h.fmt h.flags h.p0 h.p1
    && ((h.scaleOff != 0) == hIsMx h) && ((h.metaOff == 0) == (h.fmt == 0))
    && (!(h.fmt == 4 || h.fmt == 5) || hIdx32 h || decide (hC h ≤ 65536))
    && (!(h.fmt == 1 && hXpose h) || ((h.p0, h.p1) == (2, 4) && hExt h 0 % 4 == 0 && hExt h 1 % 4 == 0))
    && nnzOk h
    && (hRanges h).all (fun r => decide (64 ≤ r.1) && decide (r.1 + r.2 ≤ h.total))
    && decide (64 ≤ h.total) && allDisjoint (hRanges h)

/-! ### Decoding with metadata faults (R106 to R111) -/

/-- An item of a decoded row, in stored order: an accepted entry (`fault = none`) with its position and value bits, or a
fault of the kind numbered as in the completion record (0 IDX_RANGE … 6 XPOSE_FALLBACK) with the positions it touches. -/
structure Item where
  fault : Option Nat := none
  pos : Nat
  /-- One past the last position that a fault touches. -/
  hi : Nat := 0
  val : Nat := 0
  /-- Number of the entry, or of the block, in the arrays that list entries. -/
  idx : Nat := 0
deriving DecidableEq, Repr

def faultItem (k lo hi : Nat) (idx : Nat := 0) : Item := { fault := some k, pos := lo, hi := hi, idx := idx }

/-- u32 entry `i` of the array at address `a`. -/
def u32At (rd : Nat → Nat) (a i : Nat) : Nat := leAt rd (a + 4 * i) 4

/-- Payload entry `k` of a run-packed payload (R93). -/
def packedEntry (rd : Nat → Nat) (hb : Nat) (h : Hdr) (k : Nat) : Nat :=
  bitsAt rd (8 * (hb + h.payOff) + k * hElBits h) (hElBits h)

def colIdxAt (rd : Nat → Nat) (hb : Nat) (h : Hdr) (k : Nat) : Nat :=
  leAt rd (hb + metaOffs h 1 + hColBytes h * k) (hColBytes h)

/-- Items of entries `k`, `k + 1`, … of a CROW row, `n` of them, after the last accepted index (R107, R108). -/
def crowItems (rd : Nat → Nat) (hb : Nat) (h : Hdr) : Nat → Nat → Option Nat → List Item
  | 0, _, _ => []
  | n + 1, k, last =>
    let c := colIdxAt rd hb h k
    if c ≥ hC h then faultItem 0 c (c + 1) k :: crowItems rd hb h n (k + 1) last
    else if (match last with | some l => decide (c ≤ l) | none => false) then
      faultItem 1 c (c + 1) k :: crowItems rd hb h n (k + 1) last
    else { pos := c, val := packedEntry rd hb h k, idx := k } :: crowItems rd hb h n (k + 1) (some c)

def crowRow (rd : Nat → Nat) (hb : Nat) (h : Hdr) (r : Nat) : List Item :=
  let o := u32At rd (hb + metaOffs h 0) r
  let o1 := u32At rd (hb + metaOffs h 0) (r + 1)
  if o1 < o ∨ o1 > h.nnz then [faultItem 2 0 (hC h)] else crowItems rd hb h (o1 - o) o none

/-- Number of set bits of the low `n` bits. -/
def popBits (w : Nat) : Nat → Nat
  | 0 => 0
  | n + 1 => popBits w n + (if w.testBit n then 1 else 0)

/-- Items of one BMAP run: bits `j`, `j + 1`, … (`n` of them) of word `w`, the first at position `p`; `k` is the next
payload entry. -/
def runItems (rd : Nat → Nat) (hb : Nat) (h : Hdr) (w : Nat) : Nat → Nat → Nat → Nat → List Item
  | 0, _, _, _ => []
  | n + 1, j, p, k =>
    if w.testBit j then
      (if p ≥ hC h then faultItem 0 p (p + 1) k else { pos := p, val := packedEntry rd hb h k, idx := k })
        :: runItems rd hb h w n (j + 1) (p + 1) (k + 1)
    else runItems rd hb h w n (j + 1) (p + 1) k

def bmapWord (rd : Nat → Nat) (hb : Nat) (h : Hdr) (r u : Nat) : Nat := leAt rd (hb + metaOffs h 1 + 8 * (r * hU h + u)) 8
def bmapCount (rd : Nat → Nat) (hb : Nat) (h : Hdr) (r u : Nat) : Nat := rd (hb + metaOffs h 2 + (r * hU h + u))

/-- Items of runs `u`, `u + 1`, … (`n` of them) of BMAP row `r` from payload entry `k` (R109). -/
def bmapRuns (rd : Nat → Nat) (hb : Nat) (h : Hdr) (r : Nat) : Nat → Nat → Nat → List Item
  | 0, _, _ => []
  | n + 1, u, k =>
    let w := bmapWord rd hb h r u
    let c := popBits w 64
    (if bmapCount rd hb h r u ≠ c then [faultItem 5 (64 * u) (64 * u + 64)] else [])
      ++ runItems rd hb h w 64 0 (64 * u) k ++ bmapRuns rd hb h r n (u + 1) (k + c)

/-- Set bits of a whole BMAP row as stored. -/
def bmapRowPop (rd : Nat → Nat) (hb : Nat) (h : Hdr) (r : Nat) : Nat → Nat
  | 0 => 0
  | n + 1 => bmapRowPop rd hb h r n + popBits (bmapWord rd hb h r n) 64

/-- Runs `u`, `u + 1`, … (`n` of them) of row `r` whose COUNT byte differs from their word. -/
def bmapMiscounts (rd : Nat → Nat) (hb : Nat) (h : Hdr) (r : Nat) : Nat → Nat → List Item
  | 0, _ => []
  | n + 1, u =>
    (if bmapCount rd hb h r u ≠ popBits (bmapWord rd hb h r u) 64 then [faultItem 5 (64 * u) (64 * u + 64)] else [])
      ++ bmapMiscounts rd hb h r n (u + 1)

/-- Items of BMAP row `r`. A row that fails ROW_OFFSET holds no entry; its COUNT bytes are compared all the same (R106). -/
def bmapRow (rd : Nat → Nat) (hb : Nat) (h : Hdr) (r : Nat) : List Item :=
  let o := u32At rd (hb + metaOffs h 0) r
  let o1 := u32At rd (hb + metaOffs h 0) (r + 1)
  if o1 < o ∨ o + bmapRowPop rd hb h r (hU h) > h.nnz then faultItem 2 0 (hC h) :: bmapMiscounts rd hb h r (hU h) 0
  else bmapRuns rd hb h r (hU h) 0 o

/-- Items of COORD entries `k`, `k + 1`, … with their rows; a row at or beyond the extent is reported as row `hRows h`. -/
def coordItems (rd : Nat → Nat) (hb : Nat) (h : Hdr) : Nat → Nat → Option (Nat × Nat) → List (Nat × Item)
  | 0, _, _ => []
  | n + 1, k, last =>
    let r := u32At rd (hb + metaOffs h 0) k
    let c := colIdxAt rd hb h k
    if r ≥ hRows h ∨ c ≥ hC h then (min r (hRows h), faultItem 0 c (c + 1) k) :: coordItems rd hb h n (k + 1) last
    else if (match last with | some (lr, lc) => decide (r < lr ∨ (r = lr ∧ c ≤ lc)) | none => false) then
      (r, faultItem 1 c (c + 1) k) :: coordItems rd hb h n (k + 1) last
    else (r, { pos := c, val := packedEntry rd hb h k, idx := k }) :: coordItems rd hb h n (k + 1) (some (r, c))

/-- Entries of COORD row `r`; row `hRows h` holds the entries whose row index is out of range. -/
def coordRow (rd : Nat → Nat) (hb : Nat) (h : Hdr) (r : Nat) : List Item :=
  ((coordItems rd hb h h.nnz 0 none).filter (·.1 == r)).map (·.2)

/-- Stored blocks of the block rows before block row `q` in the bitmap form, counted as stored (R108). -/
def blocksBefore (rd : Nat → Nat) (hb : Nat) (h : Hdr) : Nat → Nat
  | 0 => 0
  | n + 1 => blocksBefore rd hb h n + popBits (leAt rd (hb + h.metaOff + 8 * n) 8) 64

/-- Block items of the bitmap form: block column as position, block index as value. -/
def bbitItems (h : Hdr) (w : Nat) : Nat → Nat → Nat → Nat → List Item
  | 0, _, _, _ => []
  | n + 1, j, p, k =>
    if w.testBit j then
      (if p ≥ ceilDiv (hC h) (hB h) then faultItem 0 (p * hB h) (p * hB h + hB h) k else { pos := p, val := k, idx := k })
        :: bbitItems h w n (j + 1) (p + 1) (k + 1)
    else bbitItems h w n (j + 1) (p + 1) k

def bbitWords (rd : Nat → Nat) (hb : Nat) (h : Hdr) (q : Nat) : Nat → Nat → Nat → List Item
  | 0, _, _ => []
  | n + 1, u, k =>
    let w := leAt rd (hb + h.metaOff + 8 * (q * hBWords h + u)) 8
    bbitItems h w 64 0 (64 * u) k ++ bbitWords rd hb h q n (u + 1) (k + popBits w 64)

/-- Block items of the list form. -/
def blistItems (rd : Nat → Nat) (hb : Nat) (h : Hdr) : Nat → Nat → Option Nat → List Item
  | 0, _, _ => []
  | n + 1, k, last =>
    let p := u32At rd (hb + metaOffs h 1) k
    if p ≥ ceilDiv (hC h) (hB h) then faultItem 0 (p * hB h) (p * hB h + hB h) k :: blistItems rd hb h n (k + 1) last
    else if (match last with | some l => decide (p ≤ l) | none => false) then
      faultItem 1 (p * hB h) (p * hB h + hB h) k :: blistItems rd hb h n (k + 1) last
    else { pos := p, val := k, idx := k } :: blistItems rd hb h n (k + 1) (some p)

/-- Items of block row `q` (R101, R102). -/
def blockRow (rd : Nat → Nat) (hb : Nat) (h : Hdr) (q : Nat) : List Item :=
  if hBlockList h then
    let o := u32At rd (hb + metaOffs h 0) q
    let o1 := u32At rd (hb + metaOffs h 0) (q + 1)
    if o1 < o ∨ o1 > h.nnz / (hB h * hB h) then [faultItem 2 0 (hC h)] else blistItems rd hb h (o1 - o) o none
  else bbitWords rd hb h q (hBWords h) 0 (blocksBefore rd hb h (q * hBWords h))

/-- Entries of matrix row `i` of a block row, from its block items. -/
def blockEntries (rd : Nat → Nat) (hb : Nat) (h : Hdr) (i : Nat) (its : List Item) : List Item :=
  its.flatMap fun it =>
    match it.fault with
    | some _ => [it]
    | none => ((List.range (hB h)).map fun j =>
        ({ pos := it.pos * hB h + j, val := packedEntry rd hb h (it.val * hB h * hB h + i * hB h + j), idx := it.idx } : Item)).filter
        (fun e => decide (e.pos < hC h))

/-- Mask bit of position `p` of NM row `r`, as stored. -/
def nmBit (rd : Nat → Nat) (hb : Nat) (h : Hdr) (r p : Nat) : Bool :=
  (rd (hb + h.metaOff + r * ceilDiv (hG h * h.p1) 8 + p / 8)).testBit (p % 8)

/-- Set positions of group `g` within the extent, and how many set bits lie at C and beyond (R109): those of the last group include the
padding bits of the row's last mask byte (R96). -/
def nmGroup (rd : Nat → Nat) (hb : Nat) (h : Hdr) (r g : Nat) : List Nat × Nat :=
  let n := if g + 1 = hG h then 8 * ceilDiv (hG h * h.p1) 8 - g * h.p1 else h.p1
  let ps := ((List.range n).map (g * h.p1 + ·)).filter (nmBit rd hb h r)
  (ps.filter (· < hC h), (ps.filter (· ≥ hC h)).length)

/-- Value in slot `i` of group `g`. -/
def nmSlot (rd : Nat → Nat) (hb : Nat) (h : Hdr) (r g i : Nat) : Nat :=
  bitsAt rd (8 * (hb + h.payOff + r * hSlotRow h) + (g * h.p0 + i) * hElBits h) (hElBits h)

def nmSpillVal (rd : Nat → Nat) (hb : Nat) (h : Hdr) (k : Nat) : Nat :=
  bitsAt rd (8 * (hb + spillOff h) + k * hElBits h) (hElBits h)

/-- Range of spill values of row `r`, or none when it fails ROW_OFFSET. -/
def nmSpillRange (rd : Nat → Nat) (hb : Nat) (h : Hdr) (r : Nat) : Option (Nat × Nat) :=
  let o := u32At rd (hb + metaOffs h 1) r
  let o1 := u32At rd (hb + metaOffs h 1) (r + 1)
  if o1 < o ∨ o1 > hS h then none else some (o, o1)

/-- Entries of the positions `ps` with values from the slots, then from spill value `k` on. -/
def nmEntries (rd : Nat → Nat) (hb : Nat) (h : Hdr) (r g : Nat) : List Nat → Nat → Nat → List Item
  | [], _, _ => []
  | p :: t, i, k =>
    if i < h.p0 then { pos := p, val := nmSlot rd hb h r g i, idx := g * h.p0 + i } :: nmEntries rd hb h r g t (i + 1) k
    else { pos := p, val := nmSpillVal rd hb h k, idx := hG h * h.p0 + k } :: nmEntries rd hb h r g t (i + 1) (k + 1)

/-- Items of groups `g`, `g + 1`, … (`n` of them) of NM row `r`. `sp` is the row's spill range once it has been read:
`none` not yet read, `some (k, hi)` the values left (R110, R111). -/
def nmGroups (rd : Nat → Nat) (hb : Nat) (h : Hdr) (spill : Bool) (r : Nat) :
    Nat → Nat → Option (Nat × Nat) → List Item
  | 0, _, _ => []
  | n + 1, g, sp =>
    let (ps, beyond) := nmGroup rd hb h r g
    let lo := g * h.p1
    let rng := (List.replicate beyond (faultItem 0 lo (lo + h.p1)))
    if ps.length ≤ h.p0 then rng ++ nmEntries rd hb h r g ps 0 0 ++ nmGroups rd hb h spill r n (g + 1) sp
    else
      let (rowFault, range) :=
        if spill && hSpill h then
          match sp with
          | some x => (false, x)
          | none => match nmSpillRange rd hb h r with
            | some x => (false, x)
            | none => (true, (0, 0))
        else (false, (0, 0))
      let need := ps.length - h.p0
      let rf := if rowFault then [faultItem 2 0 (hC h)] else []
      if spill && hSpill h && decide (range.1 + need ≤ range.2) then
        rng ++ rf ++ faultItem 4 lo (lo + h.p1) :: nmEntries rd hb h r g ps 0 range.1
          ++ nmGroups rd hb h spill r n (g + 1) (some (range.1 + need, range.2))
      else
        rng ++ rf ++ faultItem 3 lo (lo + h.p1) :: nmEntries rd hb h r g (ps.take h.p0) 0 0
          ++ nmGroups rd hb h spill r n (g + 1) (if spill && hSpill h then some range else sp)

/-- Key under which the metadata of row `r` is read and counted: the block row for BLOCK, the row otherwise. -/
def rowKey (h : Hdr) (r : Nat) : Nat :=
  if h.fmt = 3 then r / hE1 h * ceilDiv (hE1 h) (hB h) + r % hE1 h / hB h else r

/-- Items of the metadata read under key `q`. -/
def keyItems (rd : Nat → Nat) (hb : Nat) (h : Hdr) (spill : Bool) (q : Nat) : List Item :=
  match h.fmt with
  | 1 => nmGroups rd hb h spill q (hG h) 0 none
  | 2 => bmapRow rd hb h q
  | 3 => blockRow rd hb h q
  | 4 => crowRow rd hb h q
  | 5 => coordRow rd hb h q
  | _ => []

/-- Items of row `r`: faults and accepted entries in increasing position. -/
def rowItems (rd : Nat → Nat) (hb : Nat) (h : Hdr) (spill : Bool) (r : Nat) : List Item :=
  if h.fmt = 3 then blockEntries rd hb h (r % hE1 h % hB h) (keyItems rd hb h spill (rowKey h r))
  else keyItems rd hb h spill r

def isEntry (it : Item) : Bool := it.fault.isNone

/-- Bits of the DENSE element at row `r`, position `c`. -/
def denseBits (rd : Nat → Nat) (hb : Nat) (h : Hdr) (r c : Nat) : Nat :=
  bitsAt rd (8 * (hb + h.payOff + r * ceilDiv (hC h * hElBits h) 8) + c * hElBits h) (hElBits h)

/-- Value bits stored at row `r`, position `c`, if the position is stored. -/
def storedBits (rd : Nat → Nat) (hb : Nat) (h : Hdr) (spill : Bool) (r c : Nat) : Option Nat :=
  if h.fmt = 0 then some (denseBits rd hb h r c)
  else ((rowItems rd hb h spill r).find? (fun it => isEntry it && it.pos == c)).map (·.val)

/-- Scale byte of the MX block at row `r`, position `c` (R94). -/
def scaleAt (rd : Nat → Nat) (hb : Nat) (h : Hdr) (r c : Nat) : Nat :=
  if hIsMx h then rd (hb + h.scaleOff + r * ceilDiv (hC h) 32 + c / 32) else 127

/-- Row index of coordinates c1, c2, … over dimensions 1 to RANK − 1 (R85). -/
def rowOfCoords (h : Hdr) (cs : List Nat) : Nat :=
  let rec go : List Nat → List Nat → Nat → Nat
    | c :: ct, e :: et, m => c * m + go ct et (m * e)
    | _, _, _ => 0
  go (cs.drop 1) ((h.ext.take h.rank).drop 1) 1

/-- Bits of a mask tensor (BMAP) at row `r`, position `c`: the bitmap governs (R209). -/
def maskBit (rd : Nat → Nat) (hb : Nat) (h : Hdr) (r c : Nat) : Bool :=
  (bmapWord rd hb h r (c / 64)).testBit (c % 64)

/-- Positions whose stored bit is set in more than two rows of the aligned group `q` of four rows at position `p` (R240):
whether the pair falls back. Stored is counted after the reader's repairs under DROP. -/
def xposeRows (rd : Nat → Nat) (hb : Nat) (h : Hdr) (q p : Nat) : Nat :=
  (((List.range 4).map (4 * q + ·)).filter fun r =>
    decide (r < hRows h) && ((nmGroup rd hb h r (p / h.p1)).1.take h.p0).contains p).length

/-! ### Canonical layout (R332) -/

/-- The header of the canonical layout with the given fields kept. -/
def canonical (h : Hdr) : Hdr :=
  let h1 := { h with metaOff := if h.fmt = 0 then 0 else 64 }
  let mEnd := (((arrayOffs h1.metaOff (metaSizes h1)).zip (metaSizes h1)).map (fun r => r.1 + r.2)).getLast?.getD 64
  let h2 := { h1 with payOff := if h.fmt = 0 then 64 else align64 mEnd }
  let pEnd := h2.payOff + payloadSize h2
  let sOff := if hIsMx h then align64 pEnd else 0
  let h3 := { h2 with scaleOff := sOff }
  { h3 with total := if hIsMx h then sOff + scaleSize h3 else pEnd }

end Sys2Proof.Machine
end

