-- ==== Sys2Proof/Machine/LoopNest.lean ====
section
/-! DEFINITION. Machine/LoopNest.lean: the fields of operation descriptors (R134 to R137) and loop-nest descriptors (R177,
R178), the points of the iteration space in visiting order (R185 to R189), and how levels move operands (R183, R184). -/

namespace Sys2Proof.Machine

open Sys2Proof

/-! ### Operation descriptors -/

/-- An operand slot (R136). -/
structure Slot where
  hdr : Bool
  fmt : Nat
  ty : Nat
  module : Nat
  len : Nat
  loc : Nat
  addr : Nat
  /-- The 128 bits as a number. -/
  raw : Nat
deriving DecidableEq, Repr

def slotOf (w : Nat) : Slot :=
  { hdr := bf w 123 1 == 1, fmt := bf w 120 3, ty := bf w 112 8, module := bf w 96 15, len := bf w 64 32, loc := bf w 62 2
    addr := bf w 0 52, raw := w }

/-- Reserved bits of a slot. -/
def slotReserved (s : Slot) : Bool := bf s.raw 124 4 != 0 || bf s.raw 111 1 != 0 || bf s.raw 52 10 != 0

/-- The fields of an operation descriptor (R134, R135). -/
structure Desc where
  op : Nat
  cls : Nat
  agroup : Nat
  open_ : Bool
  close : Bool
  woe : Bool
  spill : Bool
  round : Nat
  stat : Nat
  pack : Nat
  transA : Bool
  transB : Bool
  skipZero : Bool
  queue : Nat
  outType : Nat
  outFmt : Nat
  outShift : Nat
  tokenAddr : Nat
  srSeed : Nat
  outScale : Nat
  loopAddr : Nat
  flagsAddr : Nat
  flagsLen : Nat
  a : Slot
  b : Slot
  d : Slot
  x : Slot
  /-- OP_ARGS, bytes 96 to 127. -/
  args : Nat
  raw : Nat
deriving DecidableEq, Repr

def descOf (v : BitVec 1024) : Desc :=
  let w := v.toNat
  { op := bf w 0 8, cls := bf w 8 2, agroup := bf w 10 2, open_ := w.testBit 12, close := w.testBit 13
    woe := w.testBit 14, spill := w.testBit 15, round := bf w 16 2, stat := bf w 18 2, pack := bf w 20 4
    transA := w.testBit 24, transB := w.testBit 25, skipZero := w.testBit 26, queue := bf w 28 4
    outType := bf w 32 8, outFmt := bf w 40 3, outShift := bf w 48 5
    tokenAddr := bf w 64 32, srSeed := bf w 96 32, outScale := bf w 128 32, loopAddr := bf w 160 32
    flagsAddr := bf w 192 32, flagsLen := bf w 224 32
    a := slotOf (bf w 256 128), b := slotOf (bf w 384 128), d := slotOf (bf w 512 128), x := slotOf (bf w 640 128)
    args := bf w 768 256, raw := w }

def opMatmul : Nat := 1
def opMatvec : Nat := 2
def opMerge : Nat := 3
def opIntersect : Nat := 4
def opFill : Nat := 5
def opCopy : Nat := 6
def opTranspose : Nat := 7
def opCompact : Nat := 8
def opLoad : Nat := 9
def opPredict : Nat := 10
def opTopk : Nat := 11
def opSend : Nat := 12

/-- Reserved bits of word 0 (R134). -/
def word0Reserved (d : Desc) : Bool := bf d.raw 53 11 != 0 || bf d.raw 43 5 != 0 || bf d.raw 27 1 != 0

/-- OP_ARGS fields of R137. -/
def argFill (d : Desc) : Nat := bf d.args 0 64
def argOutCap (d : Desc) : Nat := bf d.args 0 32
def argTopk (d : Desc) : Nat := bf d.args 0 8
def argThreshold (d : Desc) : Nat := bf d.args 32 32
def argZeroThresh (d : Desc) : Nat := bf d.args 0 32
def argTgtFmt (d : Desc) : Nat := bf d.args 32 8
def argTgtP0 (d : Desc) : Nat := bf d.args 40 8
def argTgtP1 (d : Desc) : Nat := bf d.args 48 8
def argTgtFlags (d : Desc) : Nat := bf d.args 56 8
def argDstCore (d : Desc) : Nat := bf d.args 0 16
def argDstKind (d : Desc) : Nat := bf d.args 16 8

/-- Bytes of OP_ARGS that no field of the operation names (R137). -/
def argsReserved (d : Desc) : Bool :=
  match d.op with
  | 3 | 4 => bf d.args 32 224 != 0
  | 5 => bf d.args 64 192 != 0
  | 8 => bf d.args 64 192 != 0
  | 10 | 11 => bf d.args 8 24 != 0 || bf d.args 64 192 != 0
  | 12 => bf d.args 24 232 != 0
  | _ => d.args != 0

/-- Slot A, B, D, X used by an operation (R137). -/
def usesA (op : Nat) : Bool := op != opFill
def usesB (op : Nat) : Bool := op == opMatmul || op == opMatvec || op == opMerge || op == opIntersect || op == opPredict
def usesX (op : Nat) : Bool := op == opMatmul

/-- Operations with output and reduction roles (R181). -/
def isTileOp (op : Nat) : Bool := op == opMatmul || op == opMatvec || op == opPredict

/-! ### Loop nests -/

inductive Role where
  | unused | outRow | outCol | reduce | batch | repeat_ | reserved
deriving DecidableEq, Repr

def roleOf : Nat → Role
  | 0 => .unused | 1 => .outRow | 2 => .outCol | 3 => .reduce | 4 => .batch | 5 => .repeat_ | _ => .reserved

/-- A level record (R178). -/
structure Level where
  role : Role
  boundSrc : Bool
  startSrc : Bool
  boundReg : Nat
  startReg : Nat
  tile : Nat
  boundImm : Nat
  startImm : Nat
  planned : Nat
  strA : Nat
  strB : Nat
  strD : Nat
  strX : Nat
  raw : Nat
deriving DecidableEq, Repr

def levelOf (w : Nat) : Level :=
  { role := roleOf (bf w 29 3), boundSrc := w.testBit 28, startSrc := w.testBit 27, boundReg := bf w 22 5
    startReg := bf w 17 5, tile := bf w 0 7, boundImm := bf w 32 32, startImm := bf w 64 32, planned := bf w 96 32
    strA := bf w 128 32, strB := bf w 160 32, strD := bf w 192 32, strX := bf w 224 32, raw := w }

/-- A loop-nest descriptor (R177). -/
structure Nest where
  levels : Nat
  version : Nat
  order : Nat
  lenOf : Nat
  lv : List Level
  raw : Nat
deriving DecidableEq, Repr

def nestOf (v : BitVec 1792) : Nest :=
  let w := v.toNat
  { levels := bf w 0 8, version := bf w 8 8, order := bf w 32 32, lenOf := bf w 64 32
    lv := (List.range 6).map fun i => levelOf (bf w (256 + 256 * i) 256), raw := w }

/-- The used levels. -/
def usedLevels (n : Nest) : List Level := n.lv.take n.levels

/-- A captured register (R129, R179); x0 gives 0. -/
def captured (caps : List (Nat × W64)) (r : Nat) : Nat := if r = 0 then 0 else (Tab.get 0#64 caps r).toNat

/-- A level at run time: slot number, role, first index, bound, step. -/
structure LevRun where
  slot : Nat
  role : Role
  start : Nat
  bound : Nat
  step : Nat
  lev : Level
deriving DecidableEq, Repr

def stepOf (l : Level) : Nat :=
  match l.role with
  | .outRow | .outCol => if l.tile = 0 then 64 else l.tile
  | _ => 1

def levRun (caps : List (Nat × W64)) (i : Nat) (l : Level) : LevRun :=
  { slot := i, role := l.role
    start := if l.startSrc then captured caps l.startReg else l.startImm
    bound := if l.boundSrc then captured caps l.boundReg else l.boundImm
    step := stepOf l, lev := l }

/-- Used levels at run time, by slot number. -/
def levRuns (n : Nest) (caps : List (Nat × W64)) : List LevRun :=
  (List.range n.levels).filterMap fun i => (n.lv[i]?).map (levRun caps i)

/-- Rank of a role in the default order (R186). -/
def roleRank : Role → Nat
  | .reduce => 0 | .outRow | .outCol => 1 | .batch => 2 | _ => 3

/-- Level slots, innermost first (R187). -/
def nesting (n : Nest) : List Nat :=
  if n.order = 0 then
    let us := (List.range n.levels).filterMap fun i => (n.lv[i]?).map (fun l => (i, roleRank l.role))
    ((List.range 4).flatMap fun r => (us.filter (·.2 == r)).map (·.1))
  else (List.range n.levels).map fun d => bf n.order (3 * d) 3

/-- Used levels at run time in nesting order, innermost first. -/
def orderedRuns (n : Nest) (caps : List (Nat × W64)) : List LevRun :=
  let rs := levRuns n caps
  (nesting n).filterMap fun i => rs.find? (·.slot == i)

/-- A point: the index of each level, by level slot. -/
abbrev Point := List (Nat × Nat)

def pointIdx (p : Point) (slot : Nat) : Nat := Tab.get 0 p slot

/-- Indices that a level visits. -/
def levIndices (l : LevRun) : List Nat := (List.range (ceilDiv l.bound l.step)).map fun i => l.start + i * l.step

/-- Points of the levels given innermost first: the innermost changes fastest (R187). -/
def points : List LevRun → List Point
  | [] => [[]]
  | l :: rest => (points rest).flatMap fun p => (levIndices l).map fun i => (l.slot, i) :: p

def isRed (l : LevRun) : Bool := l.role == .reduce

/-- Output tiles of a nest in order (R187): each is a point of the output levels. -/
def tilePoints (n : Nest) (caps : List (Nat × W64)) : List Point := points ((orderedRuns n caps).filter (!isRed ·))

/-- Reduction points in order. -/
def redPoints (n : Nest) (caps : List (Nat × W64)) : List Point := points ((orderedRuns n caps).filter isRed)

def findRole (n : Nest) (caps : List (Nat × W64)) (r : Role) : Option LevRun := (levRuns n caps).find? (·.role == r)

/-- Live extent of a tile on the axis of role `r` (R188): the first index and how many positions. -/
def tileExtent (n : Nest) (caps : List (Nat × W64)) (r : Role) (t : Point) : Nat × Nat :=
  match findRole n caps r with
  | none => (0, 1)
  | some l =>
    let i := pointIdx t l.slot
    (i, min (i + l.step) (l.start + l.bound) - i)

/-- The point of output position (i, j) of tile `t` at reduction point `p`. -/
def posPoint (n : Nest) (t : Point) (i j : Nat) (p : Point) : Point :=
  p ++ t.map fun (sk : Nat × Nat) =>
    match (n.lv[sk.1]?).map Level.role with
    | some Role.outRow => (sk.1, sk.2 + i)
    | some Role.outCol => (sk.1, sk.2 + j)
    | _ => sk

/-! ### How levels move operands -/

/-- Which slot's stride. -/
inductive Which where
  | a | b | d | x
deriving DecidableEq, Repr

def strideOf (w : Which) (l : Level) : Nat :=
  match w with
  | .a => l.strA | .b => l.strB | .d => l.strD | .x => l.strX

def slotOfDesc (d : Desc) : Which → Slot
  | .a => d.a | .b => d.b | .d => d.d | .x => d.x

/-- Element width of a raw slot for R183: 8 bits for a fill (R161). -/
def slotBits (d : Desc) (w : Which) : Nat :=
  if d.op = opFill then 8 else match elTypeOf (slotOfDesc d w).ty with | some t => elBits t | none => 8

def rawPeriod (d : Desc) (w : Which) : Nat := 8 * (slotOfDesc d w).len / slotBits d w

def sumInt : List Int → Int
  | [] => 0
  | a :: t => a + sumInt t

/-- Element offset of a raw operand at a point (R183). With a period of 0, which the rule gives no value from 0 to P - 1, the REPEAT sum
stands unwrapped (DESIGN CHOICE, assumption 127). -/
def rawOffset (d : Desc) (n : Nest) (w : Which) (p : Point) : Int :=
  let term (s : Nat) (l : Level) : Int := (pointIdx p s : Int) * intOf 32 (strideOf w l)
  let ls := (List.range n.levels).filterMap fun i => (n.lv[i]?).map (fun l => (i, l))
  let plain := sumInt ((ls.filter (fun x => x.2.role != .repeat_)).map fun x => term x.1 x.2)
  let rep := sumInt ((ls.filter (fun x => x.2.role == .repeat_)).map fun x => term x.1 x.2)
  plain + rep % (rawPeriod d w : Int)

/-- DIM and STEP of a header operand's stride (R184). -/
def strideDim (s : Nat) : Nat := bf s 29 3
def strideStep (s : Nat) : Nat := bf s 0 16

/-- Coordinate of a header operand along dimension `dim` at a point (R184). -/
def coord (n : Nest) (w : Which) (p : Point) (dim : Nat) : Nat :=
  ((List.range n.levels).map fun i =>
    match n.lv[i]? with
    | some l => if strideDim (strideOf w l) = dim then pointIdx p i * strideStep (strideOf w l) else 0
    | none => 0).foldl (· + ·) 0

def coords (n : Nest) (w : Which) (p : Point) : List Nat := (List.range 6).map (coord n w p)

/-- Length of one execution range of a raw slot (R181). -/
def lenOf (d : Desc) (n : Nest) (w : Which) : Nat := if n.lenOf = 0 then (slotOfDesc d w).len else n.lenOf

/-- Points of an operation without output roles: one execution each (R181, R195). -/
def pointsOf (n : Nest) (caps : List (Nat × W64)) : List Point := points (orderedRuns n caps)

/-- Context-relative byte at which an execution range of a raw slot begins (R181). -/
def startOf (d : Desc) (n : Nest) (w : Which) (p : Point) : Nat :=
  (slotOfDesc d w).addr + (rawOffset d n w p * slotBits d w / 8).toNat

end Sys2Proof.Machine
end

