-- ==== Sys2Proof/Machine/StateMast.lean ====
section
/-! DEFINITION. Machine/StateMast.lean: the state of the mast die, the HBM, the fabric, the host interface, the firmware, the
security core, the power control and the module pins as plain data (10, 13 to 23). Field defaults are the reset values. -/

namespace Sys2Proof.Machine

open Sys2Proof

/-! ### Events and event queues (21) -/

/-- An event (R611); SEVERITY 0 INFO to 4 MODULE. -/
structure Event where
  code : Nat
  sev : Nat
  part : Nat := 0xFF
  kind : Nat := 0
  unit : Nat := 0
  flags : Nat := 0
  time : Nat := 0
  detail : Nat := 0
  count : Nat := 1
  logSeq : Nat := 0
deriving DecidableEq, Repr

/-- The event queue of a function (R614, R615, R632). -/
structure Evq where
  base : W64 := 0
  modTime : BitVec 10 := 0
  modCount : BitVec 8 := 1
  vector : BitVec 11 := 0
  log2 : BitVec 4 := 6
  enable : Bool := false
  written : BitVec 32 := 0
  lost : BitVec 16 := 0
  head : BitVec 32 := 0
  pending : List Event := []
  /-- Events merged or lost since the queue was last full (EVQ_OVERFLOW). -/
  overflow : Nat := 0
  unsig : Nat := 0
  unsigSince : Nat := 0
deriving DecidableEq, Repr

/-! ### Hub (01, 17, 21, 22) -/

/-- HUB_COLMAP of one mesh row (R33). -/
structure ColMap where
  rowLost : Bool := false
  lost : Bool := false
  lostCol : BitVec 5 := 0x1F
  skipCol : BitVec 5 := 16
deriving DecidableEq, Repr

/-- A core at its physical position (R171, R613, R623). -/
structure PhysCore where
  expected : BitVec 16 := 0
  epoch : BitVec 16 := 0
  /-- CORE_OUT and its cause (R613). -/
  out : Option Nat := none
  retired : Bool := false
  /-- Fuse entries of its row maps, as bank and row of the bank, and the entries that the map in force was made of (R172, R175). -/
  fuse : List (Nat × Nat) := []
  applied : List (Nat × Nat) := []
  /-- AON cycle at which it left service (R616). -/
  outSince : Nat := 0
deriving DecidableEq, Repr

/-- A unit with a commission epoch: control core, stack, port (R623). -/
structure Epochs where
  expected : BitVec 16 := 0
  epoch : BitVec 16 := 0
deriving DecidableEq, Repr

/-- A cause and scope of R526: whether it suspends bounds now, when it was last met, when it last raised an event, and the
occurrences that no event has covered. -/
structure Susp where
  cause : Nat
  kind : Nat
  unit : Nat
  bounds : Nat
  active : Bool := false
  since : Nat := 0
  lastEvent : Option Nat := none
  uncovered : Nat := 0
  /-- BEGIN (1) and END (2) of an event that waits for its millisecond to pass, and the partition that it goes to. -/
  held : Nat := 0
  part : Option Nat := none
deriving DecidableEq, Repr

/-- The hub registers (R641, R642) and the C0 registers (R528). -/
structure Hub where
  moduleFault : Bool := false
  sparLost : BitVec 2 := 0
  /-- Clusters withdrawn for a lost control core (R620); withdrawals of R29 follow from the column maps. -/
  withdrawnCtl : BitVec 16 := 0
  colmap : Tab ColMap := []
  ignoredWr : BitVec 16 := 0
  badAccess : BitVec 16 := 0
  cdcLost : BitVec 16 := 0
  cdcResets : BitVec 8 := 0
  cdcLast : BitVec 8 := 0
  mshCdc : Tab (BitVec 16 × BitVec 8 × BitVec 8) := []
  /-- Bit per arbiter set: its latest commit was found bound-compatible (R515). -/
  compatible : BitVec 5 := 0
  susp : List Susp := [{ cause := 1, kind := 8, unit := 0, bounds := 7, active := true }, { cause := 1, kind := 8, unit := 1, bounds := 7, active := true },
    { cause := 1, kind := 8, unit := 2, bounds := 7, active := true }, { cause := 1, kind := 8, unit := 3, bounds := 4, active := true },
    { cause := 1, kind := 8, unit := 4, bounds := 8, active := true }]
  /-- Messages that the host ring engine, the control cores and the scheduler core have sent or must send again (R374). -/
  sends : List SendEx := []
  sendNo : Nat := 0
  /-- Number of the next message of the mast die among those that have left it (R370). -/
  packetNo : Nat := 0
  /-- NCLK cycle of the latest gain of each pacer of the mast die (R517). -/
  pacerLast : Tab Nat := []
  monExceed : Tab (BitVec 32) := []
  monMax : Tab (BitVec 32) := []
  /-- Tokens of the pacers of the sources that are not cores (R517). -/
  pacer : Tab Bool := []
  ctl : Tab Epochs := []
deriving DecidableEq, Repr

/-! ### Partitions (01, 19) and the log (18) -/

/-- State of a partition (R642): NONE, SET_UP, TEARDOWN with its step. -/
inductive PartSt where
  | none | setUp | teardown (step : Nat)
deriving DecidableEq, Repr

/-- A partition (R38 to R43, R577, R578). -/
structure Part where
  st : PartSt := .none
  placement : Bool := false
  clusters : BitVec 16 := 0
  regions : List Nat := []
  counters : List Nat := []
  /-- HUB_C0_BUDGETn: CORES, the cores whose CORE_C0.EN is set, RINGS (R516, R528). -/
  c0Budget : Nat := 0
  c0Cores : List Nat := []
  c0Rings : BitVec 8 := 0
  setupSeq : Nat := 0
  /-- Peers: module id and partition. -/
  peers : List (Nat × Nat) := []
deriving DecidableEq, Repr

/-- A record of the log ring (R544). -/
structure LogRec where
  seq : Nat
  time : Nat
  source : Nat
  sev : Nat
  code : Nat
  part : Nat := 0xFF
  session : Nat := 0
  /-- DATA, 32 bytes little-endian. -/
  data : Nat := 0
deriving DecidableEq, Repr

/-- The log (R543 to R547): the ring by index, the processors' queues by SOURCE, FWC_LOG and FWC_TRACE_EN. -/
structure Log where
  ring : Tab LogRec := []
  queues : Tab (List LogRec) := []
  next : Nat := 0
  dropped : BitVec 32 := 0
  traceEn : W64 := 0
deriving DecidableEq, Repr

/-! ### Work counters (10) -/

inductive CtrSt where
  | disabled | running | frozen
deriving DecidableEq, Repr

/-- A work counter (R313). -/
structure Ctr where
  cls : BitVec 2 := 3
  gen : BitVec 8 := 1
  assigned : Bool := false
  part : BitVec 4 := 0
  st : CtrSt := .disabled
  value : W32 := 0
  limit : W32 := 0
  ledger : BitVec 46 := 0
  /-- Device address of the job's current table, once a job has run on the counter (R300). -/
  table : Option Nat := none
  /-- Owner contexts, by core and number, to which the fold channels of the latest job on the counter were bound (R293, R311). -/
  owners : List (Nat × Nat) := []
  /-- Stale commits of the placed job (R303). -/
  dup : Nat := 0
  /-- Uncorrectable ledger entries of the placed job (R310). -/
  ue : Nat := 0
deriving DecidableEq, Repr

structure Wct where
  ctrs : Tab Ctr := []
  claims : BitVec 32 := 0
  dupCommit : BitVec 16 := 0
  ledgerUe : BitVec 16 := 0
deriving DecidableEq, Repr

/-! ### HBM (14) -/

inductive RegSt where
  | free | assigned | quarantined | scrubbing | withdrawn
deriving DecidableEq, Repr

/-- A region of 1 GiB (R409, R625). -/
structure Region where
  st : RegSt := .quarantined
  part : BitVec 4 := 0
  /-- Content epochs of the stacks that hold it, recorded at assignment. -/
  recorded : List (Nat × BitVec 16) := []
  /-- AON cycle at which its scrub started. -/
  since : Nat := 0
deriving DecidableEq, Repr

structure HbmEcc where
  ueAddr : BitVec 40 := 0
  ce : BitVec 32 := 0
  ue : BitVec 16 := 0
  odecc : BitVec 16 := 0
deriving DecidableEq, Repr

/-- An HBM channel (R405, R414, R415). -/
structure Chan where
  retraining : Bool := false
  since : Nat := 0
  last : Nat := 0
  failed : Bool := false
  spareBanks : Nat := 0
  refreshes : Nat := 0
  /-- Bank refreshed latest. -/
  lastBank : Nat := 0
deriving DecidableEq, Repr

/-- An HBM stack (R417, R623, R625). -/
structure Stack where
  selfRefresh : Bool := false
  trained : Bool := false
  expected : BitVec 16 := 0
  epoch : BitVec 16 := 0
  content : BitVec 16 := 0
deriving DecidableEq, Repr

/-- A request that waits in the queue of an HBM channel (R415 to R418): an access of HBM_ACCESS or BAR2, or a frame that has passed its
checks, at a receiver of a tree with the number of its entry, with the C0 tokens that its packets have taken (R517). -/
inductive HbmReq where
  | access (addr : Nat) (data : Option (List Byte)) (len : Nat) (ecc : EccHits)
  | bar2Read (addr len : Nat) (ecc : EccHits)
  | frame (f : Frame) (tree : Option Nat) (ecc : EccHits) (tokens : Nat)
deriving DecidableEq, Repr

structure Hbm where
  bytes : Mem := []
  bandmap : BitVec 96 := 0
  regions : Tab Region := []
  ecc : Tab HbmEcc := []
  interval : BitVec 16 := 0x64
  retrains : BitVec 32 := 0
  pauseMax : BitVec 16 := 0
  bandmapBusy : BitVec 16 := 0
  chans : Tab Chan := []
  stk : Tab Stack := []
  /-- Corrected errors of a row in this commission epoch (R413), by row key. -/
  rowCe : Tab Nat := []
  /-- Rows that the soft repair of a commission has re-mapped to spare rows (R413), by row key, rising. -/
  remapped : List Nat := []
  /-- Requests that wait for their channel, oldest first. -/
  waiting : List HbmReq := []
deriving DecidableEq, Repr

/-! ### Arbiters and clock-crossing queues (13) -/

/-- Parameters of an arbiter set (R404): BOOST and LIMIT of the classes C0 to C3, WINDOW and QUOTA. -/
structure ArbPar where
  boost : List (BitVec 12)
  limit : List (BitVec 7)
  window : BitVec 16
  quota : BitVec 8
deriving DecidableEq, Repr

/-- A set: the shadow values and those that the latest COMMIT applied. -/
structure ArbSet where
  shadow : ArbPar
  live : ArbPar
  /-- COMMITs since reset. -/
  commits : Nat := 0
deriving DecidableEq, Repr

/-- An arbitration point (R393 to R395): its parameters with the number of the COMMIT that gave them, the requester that owns it
(class, input, and whether it is the virtual channel of responses, R370, R392) and its beats, the C0 grants since `window`. -/
structure ArbPoint where
  par : ArbPar
  taken : Nat := 0
  owner : Option (Nat × Nat × Bool) := none
  beats : Nat := 0
  c0Grants : Nat := 0
  window : Nat := 0
deriving DecidableEq, Repr

/-- A clock-crossing queue (R396, R397, R401): write and read pointers, each in two copies, the Gray code of each as it stands behind the
flip-flops of the other side, whether the queue asserts backpressure, and whether it is being reset. -/
structure Cdc where
  wr : Nat := 0
  wr2 : Nat := 0
  rd : Nat := 0
  rd2 : Nat := 0
  wrSync : Nat := 0
  rdSync : Nat := 0
  press : Bool := false
  clearing : Bool := false
deriving DecidableEq, Repr

/-- The arbiters (R391, R395), and the clock-crossing queues by queue number (R396, R651). -/
structure Arb where
  sets : Tab ArbSet := []
  points : Tab ArbPoint := []
  queues : Tab Cdc := []
deriving DecidableEq, Repr

/-! ### Module pins (23) -/

/-- Steps of start-up reached (R668): 0 none, 1 always-on (Off), 2 mast-die rails, 3 module reset released; the boot stages after it
are in `Fwc.stage`. -/
structure Pins where
  modEn : Bool := true
  modRstN : Bool := true
  perstN : Bool := false
  /-- HOLD_IN of rings A and B, when it was asserted, and whether it counts as stuck (R450). -/
  holdIn : Tab Bool := []
  holdInSince : Tab Nat := []
  holdStuck : Tab Bool := []
  holdOut : Tab Bool := []
  /-- THERMTRIP_N, latched by the always-on logic. -/
  thermtripN : Bool := true
  /-- A recorded shutdown that MOD_EN has not yet cleared (R659). -/
  shutHold : Bool := false
  step : Nat := 3
  /-- The PCIe controller is in reset (R667, R670). -/
  pcieInReset : Bool := true
  /-- GA2 to GA0, and the I3C dynamic address that a controller has assigned (R657, R658). -/
  ga : BitVec 3 := 0
  i3cDynamic : Option (BitVec 7) := none
deriving DecidableEq, Repr

end Sys2Proof.Machine
end

