-- ==== Sys2Proof/Machine/StateFab.lean ====
section
/-! DEFINITION. Machine/StateFab.lean: the state of the fabric switch, its ports and trees, and of the group (15) as plain data. -/

namespace Sys2Proof.Machine

open Sys2Proof

/-- States of a port (R423, R467). -/
inductive PortSt where
  | down | training | keying | up | degraded
deriving DecidableEq, Repr

/-- The handshake of a link session (R573): what this side sent, what the peer sent, and the two shared secrets. -/
structure Keying where
  /-- The HELLO body that this side sent, and the index of its ephemeral key pair. -/
  hello : List Byte := []
  eph : Nat := 0
  peerHello : List Byte := []
  /-- The ENCAP body that this side sent, with its shared secret, and that of the peer. -/
  encap : List Byte := []
  secret : List Byte := []
  peerEncap : List Byte := []
  peerSecret : List Byte := []
  signed : Bool := false
  /-- AON cycle at which the handshake failed. -/
  failed : Option Nat := none
deriving DecidableEq, Repr

/-- An optical port (R422 to R435, R573, R574). -/
structure Port where
  cfg : W64 := 0x0000100040404040
  st : PortSt := .down
  /-- AON cycle at which the port entered its state. -/
  since : Nat := 0
  /-- It receives light from a peer. -/
  light : Bool := false
  peer : BitVec 15 := 0
  /-- Peer of the latest UP, if there was one (R428, R449). -/
  lastPeer : Option Nat := none
  /-- OPT_PORTn_STATUS.SPARE_LANE. -/
  spare : BitVec 4 := 0xF
  /-- Wavelengths found failing: lanes 0 to 7, and 8 for the spare. -/
  bad : List Nat := []
  /-- Lane whose replacement is under way, and the codeword of the switch once it is named (R426). -/
  swapping : Option Nat := none
  swapAt : Option Nat := none
  /-- The same of what the port transmits: the lane on its spare, the lane copied onto it, and the codeword that it has named. -/
  txSpare : BitVec 4 := 0xF
  txSwapping : Option Nat := none
  txSwapAt : Option Nat := none
  retries : BitVec 16 := 0
  fecUe : BitVec 16 := 0
  stomped : BitVec 16 := 0
  framesLost : BitVec 16 := 0
  /-- Division of the receive queue in effect since the latest KEYING (R434). -/
  division : List Nat := [0x40, 0x40, 0x40, 0x40]
  /-- Next data LSEQ to send, next expected, and the LCTL counter (R433). -/
  txSeq : Nat := 0
  rxSeq : Nat := 0
  lctlSeq : Nat := 0
  /-- Egress queues by class, and the retry buffer (R432), oldest first. -/
  queues : Tab (List Frame) := []
  kept : List Frame := []
  /-- XCLK cycle at which each frame of a queue came to it (R392), and the kept frames that are to be sent again (R432, R449). -/
  stamps : Tab (List Nat) := []
  resend : List Frame := []
  /-- Cumulative credits of each class: taken, returned by the peer, returned to the peer. -/
  spent : List Nat := [0, 0, 0, 0]
  granted : List Nat := [0, 0, 0, 0]
  returned : List Nat := [0, 0, 0, 0]
  /-- A NAK is due. -/
  nakDue : Bool := false
  /-- LSEQ of the latest NAK received and how many came in a row (R432). -/
  naks : Nat × Nat := (0, 0)
  retuning : Bool := false
  /-- AON cycle of the latest LCTL frame sent. -/
  lastLctl : Nat := 0
  keying : Keying := {}
  /-- Keying bytes that wait for LCTL frames, and those that have come and are not taken yet (R574). -/
  keyBytes : List Byte := []
  keyIn : List Byte := []
  /-- Link secret L, and the key and salt of each direction. -/
  linkSecret : List Byte := []
  txKey : List Byte := []
  rxKey : List Byte := []
  /-- LSEQ at which a direction changes to its new key. -/
  txSwitch : Option Nat := none
  rxSwitch : Option Nat := none
  /-- A key change has been started since KEYING for the data counter, and for that of LCTL frames (R430); the peer's answer to a change that
  this side started is still to come (R574). -/
  rekeyed : Bool := false
  rekeyedCtl : Bool := false
  keyAsked : Bool := false
  /-- The next LCTL frame names this lane and switch. -/
  askLane : Option Nat := none
  sayLaneSwitch : Option Nat := none
  sayKeySwitch : Option Nat := none
  expected : BitVec 16 := 0
  epoch : BitVec 16 := 0
  /-- Bytes on the link of the latest data frame and of the latest LCTL frame that the port sent (R429, R433). -/
  line : List Byte := []
  lctlLine : List Byte := []
deriving DecidableEq, Repr

/-- A receiver that a root has attached (R454, R455). -/
structure Attached where
  module : Nat
  part : Nat
  /-- TSEQ from which it is attached, and its highest MACK. -/
  from_ : Nat
  mack : Nat
deriving DecidableEq, Repr

/-- A TREE_DATA frame that a root has cut (R452). -/
structure TreeFrame where
  tseq : Nat
  off : Nat
  td : Bool
  last : Bool
  /-- The TD bytes, if any, and the payload. -/
  head : List Byte
  data : List Byte
deriving DecidableEq, Repr

/-- A tree entry OPT_TREEn (R451), its raw 32 bytes, and its run-time state (R452 to R457, OPT_TREEn_STATUS). -/
structure Tree where
  raw : BitVec 256 := 0
  /-- STATE: 0 IDLE, 1 ATTACHED or RUNNING, 2 DETACHED, 3 REPAIRING, 4 FAILED. -/
  st : BitVec 3 := 0
  /-- Root: next TSEQ to send. Receiver: highest TSEQ applied. -/
  tseq : Nat := 0
  /-- Root: next TSEQ to cut, stream offset of the next byte, frames that wait to be sent, frames sent and kept in the window. -/
  cut : Nat := 1
  off : Nat := 0
  waiting : List TreeFrame := []
  sent : List TreeFrame := []
  attached : List Attached := []
  /-- AON cycle since which the root is held (R455). -/
  heldSince : Option Nat := none
  /-- Receiver: frames applied since the latest MACK, TSEQ of REJOIN, and the address of the open tensor's VALID byte. -/
  sinceMack : Nat := 0
  rejoin : Option Nat := none
  openHdr : Option Nat := none
deriving DecidableEq, Repr

/-- Who waits for the answer of a fabric request (R429, R436). -/
inductive Client where
  | burst (core ctx seq idx : Nat)
  /-- A command of a host ring (R501), by its function, ring and SQ index. -/
  | command (fn ring idx : Nat)
  | none
deriving DecidableEq, Repr

/-- An outstanding request of this module. -/
structure Txn where
  xtag : Nat
  module : Nat
  srcPart : Nat
  client : Client
  since : Nat := 0
deriving DecidableEq, Repr

/-- A tensor transfer that this module receives (R443): the header's address, the next byte expected, and whether every frame so
far was performed. -/
structure Transfer where
  src : Nat
  xtag : Nat
  addr : Nat
  next : Nat
  whole : Bool := true
deriving DecidableEq, Repr

/-- Epoch state of a partition (R458). -/
inductive EpochSt where
  | none
  | opened (e : Nat) (members : List Nat)
  | aborted (e : Nat)
deriving DecidableEq, Repr

/-- State of an entry of the masthead's membership table (R461, R462). -/
inductive MemSt where
  | member | suspect | removed
deriving DecidableEq, Repr

/-- An entry of the membership table, with the latest telemetry record (R464). -/
structure Member where
  module : Nat
  cores : Nat
  st : MemSt := .member
  heard : Nat := 0
  telemetry : List Byte := []
deriving DecidableEq, Repr

/-- OPT_ROLE (R460): the fields in force and the shadow that COMMIT applies. -/
structure RoleReg where
  live : W64 := 0
  shadow : W64 := 0
  /-- MODULE_ID has been written (R467). -/
  known : Bool := false
deriving DecidableEq, Repr

/-- A group launch that this masthead distributes (R463): launch id, host command, members still silent, worst status. -/
structure GroupLaunch where
  id : Nat
  fn : Nat
  ring : Nat
  idx : Nat
  since : Nat
  waiting : List Nat
  statuses : List (Nat × Nat) := []
deriving DecidableEq, Repr

/-- A group recovery that waits for killed owners: launch id, the source of each LAUNCH frame that named it, partition and record (R311,
R463). -/
structure Recovering where
  id : Nat
  from_ : List Nat
  part : Nat
  record : List Byte
deriving DecidableEq, Repr

/-- A report without an event or message of its own in the spec. -/
inductive Said where
  /-- To the host of a masthead: a member has become SUSPECT (R462), or did not answer a group launch in time (R463). -/
  | suspect (index : Nat)
  | silent (launch module : Nat)
  /-- To the masthead: a rejoin has failed, with the tree entry and its first missing TSEQ (R456); or an epoch of a member's partition has
  ended (R459). -/
  | rejoinFailed (tree tseq : Nat)
  | epochEnded (module part epoch : Nat)
deriving DecidableEq, Repr

/-- The group session of this module (R460 to R465). -/
structure Group_ where
  /-- GSTATE: 0 IDLE, 1 JOINING, 2 MEMBER, 3 ORPHANED. -/
  gstate : BitVec 2 := 0
  index : Nat := 0
  /-- AON cycles: masthead last heard, HEARTBEAT and TELEMETRY last sent. -/
  heard : Nat := 0
  beat : Nat := 0
  telem : Nat := 0
  /-- Group launches placed here: partition, launch id and the status answered. -/
  launches : List (Nat × Nat × Nat) := []
  /-- Recoveries placed here by a LAUNCH frame that wait for killed owners (R311, R463). -/
  recovering : List Recovering := []
  /-- Latest SCHEDULE payload received. -/
  schedule : List Byte := []
  members : Tab Member := []
  out : List GroupLaunch := []
  /-- Domain manager: latest summary of the masthead of each group, with the AON cycle at which it came. -/
  domain : Tab (Nat × List Byte × Nat) := []
  /-- What has been reported to the host or to the masthead where the spec names no event or message, the oldest first (assumption 153). -/
  said : List Said := []
deriving DecidableEq, Repr

/-- Position of a stay switch (R446 to R448). -/
inductive StaySt where
  | closed | opened
  | moving (toOpen : Bool) (since : Nat)
deriving DecidableEq, Repr

/-- A stay switch with a command held until its move ends (R647). -/
structure Stay where
  st : StaySt := .closed
  held : Option Bool := none
deriving DecidableEq, Repr

structure Fab where
  /-- Route table (R437). -/
  route : Tab (BitVec 16) := []
  trees : Tab Tree := []
  role : RoleReg := {}
  ports : Tab Port := []
  txns : List Txn := []
  nextXtag : Nat := 4096
  /-- Frames that this module has sent to its own MODULE_ID, the oldest first (R437). -/
  loop : List Frame := []
  transfers : List Transfer := []
  epochs : Tab EpochSt := []
  group : Group_ := {}
  stay : Tab Stay := []
  unroutable : BitVec 16 := 0
  xpartDrop : BitVec 16 := 0
  epochDrop : BitVec 16 := 0
  dupResp : BitVec 8 := 0
  holdStuck : BitVec 4 := 0
  detached : BitVec 4 := 0
deriving DecidableEq, Repr

end Sys2Proof.Machine
end

