-- ==== Sys2Proof/Machine/StateHost.lean ====
section
/-! DEFINITION. Machine/StateHost.lean: the state of the host interface (16), of the placed jobs and of a self-test as plain data. -/

namespace Sys2Proof.Machine

open Sys2Proof

/-- States of a ring (R512). -/
inductive RingSt where
  | off | running | draining | error
deriving DecidableEq, Repr

/-- How far a fetched command has come. -/
inductive CmdSt where
  /-- Fetched and not started. -/
  | waiting
  /-- Started by its row, and not complete. -/
  | started
  /-- POST: its messages, by their number at the source (R499). -/
  | posting (ids : List Nat)
  /-- SCRUB: the regions in work, and the count of skipped ones (R505). -/
  | scrubbing (regions : List Nat) (skipped : Nat)
  /-- CANCEL: launches that it cancels, and its number (R503). -/
  | cancelling (launches : List Nat) (serial : Nat)
  /-- RECOVER: the owner contexts of uncommitted folds, killed, are not yet IDLE (R311). -/
  | recovering
  /-- PLACE or RECOVER: the job runs (R498); a group launch awaits its members (R463). -/
  | placed
deriving DecidableEq, Repr

/-- A fetched command: its number in the SQ and its 64 bytes. -/
structure HCmd where
  idx : Nat
  /-- Its number among all that the function has fetched, and AON cycle of the doorbell read that found it. -/
  serial : Nat := 0
  polled : Nat := 0
  bytes : List Byte
  /-- Its read failed (R473). -/
  failed : Bool := false
  /-- C0 tokens that a data command has taken, and that its wait for the next one has been reported (R517, R526). -/
  tokens : Nat := 0
  paced : Bool := false
  st : CmdSt := .waiting
deriving DecidableEq, Repr

/-- A completion record that waits for its CQ slot (R483). -/
structure Done where
  serial : Nat := 0
  cmdId : Nat
  status : Nat
  op : Nat
  irq : Bool
  /-- The 15 bytes of RESULT. -/
  result : List Byte := []
  /-- LAUNCH_ID, for a LAUNCH (R503). -/
  launch : Option Nat := none
deriving DecidableEq, Repr

/-- A ring of a function (R478 to R484, R512). -/
structure HRing where
  sq : W64 := 0
  cq : W64 := 0
  cfg : W64 := 0x0000400200000006
  st : RingSt := .off
  cause : Nat := 0
  /-- SQ_HEAD, the latest SQ_TAIL and CQ_HEAD read, records written: counts since ENABLE. -/
  fetched : Nat := 0
  tail : Nat := 0
  cqHead : Nat := 0
  written : Nat := 0
  /-- Poll interval in microseconds, and AON cycle of the latest poll. -/
  interval : Nat := 1
  lastPoll : Nat := 0
  cmds : List HCmd := []
  done : List Done := []
  unsig : Nat := 0
  unsigSince : Nat := 0
deriving DecidableEq, Repr

/-- An MSI-X table entry (R508). -/
structure Vector_ where
  addr : W64 := 0
  data : W32 := 0
  ctrl : W32 := 1
deriving DecidableEq, Repr

/-- A PCIe function: 0 the PF, k VF k (R474, R508). -/
structure Fn where
  dbBase : W64 := 0
  rings : Tab HRing := []
  fetchNo : Nat := 0
  vectors : Tab Vector_ := []
  /-- Vectors whose pending bit is set, rising. -/
  pend : List Nat := []
  /-- MSI-X Enable and Function Mask of the configuration space. -/
  msixEn : Bool := false
  msixMask : Bool := false
  /-- The rest of the configuration space of R470: Max Payload Size and Max Read Request Size in bytes, Relaxed Ordering, D3hot, and the
  completion timeout range of Device Control 2. -/
  maxPayload : Nat := 128
  maxRead : Nat := 512
  relaxed : Bool := true
  d3hot : Bool := false
  timeoutRange : BitVec 4 := 0
deriving DecidableEq, Repr

/-- PCI_LINK (R512), and link attempts below the limits of R469. -/
structure Link where
  state : BitVec 3 := 0
  speed : BitVec 4 := 0
  width : BitVec 4 := 0
  flit : Bool := false
  retrains : BitVec 8 := 0
  attempts : Nat := 0
deriving DecidableEq, Repr

/-- Where a job's LAUNCH came from: a host command, or a LAUNCH frame of the masthead (R463). -/
inductive Origin where
  | command (fn ring idx : Nat)
  | frame (launch : Nat)
deriving DecidableEq, Repr

/-- A cancel of a job under way (R355): its number, the cores still to accept it, and those whose fence is awaited. -/
structure JobCancel where
  serial : Nat
  todo : List Nat
  fences : List Nat
deriving DecidableEq, Repr

/-- A placed job (R497, R498): its launch id, partition, contexts by core and number, and counter. -/
structure Job where
  launch : Nat
  part : Nat
  origin : Origin
  ctxs : List (Nat × Nat)
  counter : Option Nat := none
  cancel : Option JobCancel := none
  /-- STATUS of its record where a cancel ends it. -/
  endStatus : Nat := 0x10
  /-- Contexts of cores that left service (R616). -/
  lost : Nat := 0
  firstUe : Nat := 0xFFFFFFFF
deriving DecidableEq, Repr

/-- A self-test under way (R628, R629): its command, KIND, start, and the case of R629 that made it void. -/
structure SelfTest where
  fn : Nat
  ring : Nat
  idx : Nat
  kind : Nat
  start : Nat
  units : List UnitRef
  void : Nat := 0
deriving DecidableEq, Repr

structure HostIf where
  fns : Tab Fn := []
  link : Link := {}
  /-- VF Enable and NumVFs of the SR-IOV capability. -/
  vfEnable : Bool := false
  numVfs : Nat := 0
  jobs : List Job := []
  /-- The most recent LAUNCH_IDs of each partition, latest first (R495). -/
  launchIds : Tab (List Nat) := []
  /-- Number of the next cancel, whose TAG is `Config.cancelTag` of it. -/
  nextTag : Nat := 1
  selftest : Option SelfTest := none
  /-- Partitions whose function-level reset waits for the fences of its jobs (R511). -/
  flrs : List Nat := []
  /-- Non-fatal errors logged under AER (R473, R476). -/
  aer : Nat := 0
  /-- Data of the latest register read; none after an Unsupported Request (R633, R637). -/
  readBack : Option W64 := none
  /-- Bytes of the latest read of BAR2 (R476). -/
  bar2Back : List Byte := []
deriving DecidableEq, Repr

end Sys2Proof.Machine
end

