-- ==== Sys2Proof/Machine/StateSec.lean ====
section
/-! DEFINITION. Machine/StateSec.lean: the state of the firmware (18), the boot flash, and sessions, credentials and attestation (19)
as plain data. -/

namespace Sys2Proof.Machine

open Sys2Proof

/-- The image that runs: its slot, FW_VERSION, SVN, and for each component of R533 (1 SEC, 2 PMC, 3 SCH, 4 CTL) STATE_MAJOR and
DIGEST. -/
structure FwImage where
  slot : Nat := 0
  version : W64 := 0
  svn : Nat := 0
  comps : Tab (Nat × List Byte) := []
deriving DecidableEq, Repr

/-- A Smitum request that waits on its channel (R537). -/
structure Request where
  ch : Channel
  msg : List Byte
deriving DecidableEq, Repr

/-- Where the answer of a request goes once it comes: the request as it arrived and its session id (R551, R552). -/
structure ReplyTo where
  via : Via
  msg : List Byte
  session : Nat
deriving DecidableEq, Repr

/-- A slot of the credential store (R567). -/
structure Cred where
  kind : BitVec 8 := 0
  flags : BitVec 8 := 0
  log2Iter : BitVec 8 := 0
  salt : List Byte := []
  hash : List Byte := []
  data : List Byte := []
deriving DecidableEq, Repr

/-- A two-copy item of the boot flash (R532): COUNT and body of each copy, or none where the copy is not valid, since its MAGIC, CRC-32C or,
in the credential store, MAC does not match. The bytes of a valid copy follow from these (`copyBytes`). -/
structure TwoCopy (α : Type) where
  copy0 : Option (W32 × α) := none
  copy1 : Option (W32 × α) := none
deriving DecidableEq, Repr

/-- The boot flash (R531): the two-copy items, and the image slots by byte (an erased byte reads 0xFF). -/
structure Flash where
  /-- The boot record: ACTIVE. -/
  boot : TwoCopy Nat := { copy0 := some (0, 0) }
  /-- The field row-map table: its 32-bit entries in order (R173). -/
  fieldMap : TwoCopy (List W32) := { copy0 := some (0, []) }
  /-- The HBM row-repair list: its 64-bit entries in order (R413, R532). -/
  repair : TwoCopy (List W64) := { copy0 := some (0, []) }
  /-- The credential store: slots 0 to 19 that are not empty (R567). -/
  creds : TwoCopy (Tab Cred) := { copy0 := some (0, []) }
  slots : Tab Mem := []
deriving DecidableEq, Repr

/-- The firmware (R529 to R556). -/
structure Fwc where
  /-- FWC_STATE fields. -/
  st : BitVec 3 := 1
  update : BitVec 4 := 0
  fallback : Bool := false
  slot : Bool := false
  version : W64 := 0
  /-- Boot stages of R535 done since the module reset. -/
  stage : Nat := 0
  mboxVector : BitVec 11 := 0
  busy : Bool := false
  done : Bool := false
  ignored : BitVec 16 := 0
  /-- The Smitum buffers of PF BAR0, by offset. -/
  req : Mem := []
  rsp : Mem := []
  /-- Requests that wait, in order of arrival. -/
  requests : List Request := []
  flash : Flash := {}
  running : FwImage := {}
  minSvn : Nat := 0
  /-- Staging (R548): owner session, bytes staged, sectors erased. -/
  owner : Option Nat := none
  staged : Nat := 0
  erased : List Nat := []
  staging : Bool := false
  /-- Activation (R551 to R554): AON cycle of its deadline, and of the swap under way with the swaps done (0 none, 1 scheduler, 2 to
  17 control cores, 18 security, 19 power management). -/
  deadline : Nat := 0
  act : Option ReplyTo := none
  swaps : Nat := 0
  /-- AON cycle since which no emergency has been present (R552). -/
  calmSince : Nat := 0
  /-- Watchdog expiries by SOURCE, and lockstep mismatches, as AON cycles (R619 to R621). -/
  expiries : Tab (List Nat) := []
  mismatches : List Nat := []
  /-- Processors that are not loaded again (R620), by SOURCE. -/
  dead : List Nat := []
deriving DecidableEq, Repr

/-- SEC_SESSk (R589) with the session's secret and its channel's counters (R561, R565, R563). -/
structure Sess where
  id : Nat := 0
  opened : Bool := false
  must : Bool := false
  ide : Bool := false
  /-- The session is to end once its record finds room (R545, R584). -/
  closing : Bool := false
  secret : List Byte := []
  /-- Management port: the last SEQ accepted, and AON cycle of the latest authenticated message (R559, R565). -/
  seq : Option Nat := none
  last : Nat := 0
  fails : Nat := 0
  /-- AON cycle at which the lock ends, and the length of the latest lock in seconds (R563). -/
  locked : Option Nat := none
  lockLen : Nat := 0
deriving DecidableEq, Repr

/-- A pending handshake (R562). -/
structure Handshake where
  handle : Nat
  target : Nat
  kind : Nat
  start : Nat
  transcript : List Byte
  secret : List Byte
  /-- Bytes of the sealed proof so far, and fragments taken. -/
  proof : List Byte := []
  frags : Nat := 0
deriving DecidableEq, Repr

/-- What SPDM has negotiated on one transport (R588): 0 none, 1 version, 2 capabilities, 3 algorithms. -/
structure Spdm where
  phase : Nat := 0
  /-- Responses sent, newest first: code and body (R588). -/
  out : List (Nat × List Byte) := []
deriving DecidableEq, Repr

/-- The security core (R557 to R589). -/
structure Sec where
  sess : Tab Sess := []
  nextSession : Nat := 1
  handshakes : List Handshake := []
  nextHandle : Nat := 1
  /-- Index of the next on-chip random value. -/
  random : Nat := 0
  /-- DER bytes of slots 20 to 23. -/
  chain : List Byte := []
  /-- IDE streams in the Secure state, by function, with key and IV seed of each sub-stream: posted, non-posted and completion, of
  transmission and then of reception (R572). -/
  ide : Tab (List (List Byte × List Byte)) := []
  debug : Bool := false
  debugSince : Bool := false
  /-- Attestation log (R585): entries stored, entries in all, LOG_ACCUM. -/
  attest : List (List Byte) := []
  attestNo : Nat := 0
  accum : List Byte := List.replicate 64 0
  /-- SPDM over DOE (0) and over MCTP (1). -/
  spdm : Tab Spdm := []
  /-- Responses to the management port, newest first, as bytes. -/
  mgmtOut : List (List Byte) := []
deriving DecidableEq, Repr

end Sys2Proof.Machine
end

