-- ==== Sys2Proof/Machine/StatePwr.lean ====
section
/-! DEFINITION. Machine/StatePwr.lean: the state of power and thermal control (20) as plain data. -/

namespace Sys2Proof.Machine

open Sys2Proof

/-- Power and thermal control (R590 to R608). -/
structure Pwr where
  reefLimit : BitVec 2 := 0
  capHost : BitVec 12 := 0x708
  capMgmt : BitVec 12 := 0x708
  lastShutdown : BitVec 8 := 0
  capUnmet : Bool := false
  /-- PWR_STATUS.STATE and TARGET: 0 Full, 1 to 3 reef 1 to 3, 4 bare-pole, 5 standby. -/
  state : BitVec 3 := 0
  target : BitVec 3 := 0
  /-- Bare-pole entry has begun, and every job is being cancelled (R598). -/
  entering : Bool := false
  /-- Requests of the cap loop and of the thermal loop (R601, R602). -/
  capReq : Nat := 0
  capLow : Nat := 0
  capDeepSince : Option Nat := none
  thermReq : Nat := 0
  thermLast : Option Nat := none
  coolSince : Option Nat := none
  tJunction : Nat := 95
  tHbm : Nat := 85
  /-- Hardware forces: current (R592), input below 36 V (R592), junction at 105 °C (R604). -/
  forceCurrent : Bool := false
  forceInput : Bool := false
  forceJunction : Bool := false
  /-- Parts of the emergencies of R605: input out of range, rails out of regulation, hot sensors at the latest sample. -/
  inputBad : Bool := false
  railsBad : List Nat := []
  hot : Bool := false
  /-- AON cycle since which some junction reads 110 °C or above in forced reef 3 (R598). -/
  hotSince : Option Nat := none
  /-- Emergencies of the latest PWR_STATUS. -/
  thermalEmerg : Bool := false
  powerEmerg : Bool := false
  /-- The latest sample: every junction sensor in half degrees. -/
  junctions : List Nat := []
  hbmTemps : List Nat := []
  vin : BitVec 16 := 0
  iin : BitVec 16 := 0
  pin : BitVec 16 := 0
  pinMax : BitVec 16 := 0
  hbmMax : BitVec 16 := 0
  mastMax : BitVec 16 := 0
  spar1Max : BitVec 16 := 0
  spar0Max : BitVec 16 := 0
  energy : W64 := 0
  /-- A thermal shutdown holds the module Off until every junction reads below 90 °C (R593). -/
  thermHold : Bool := false
deriving DecidableEq, Repr

end Sys2Proof.Machine
end

