-- ==== Sys2Proof/Machine/State.lean ====
section
/-! DEFINITION. Machine/State.lean: the whole state of the KM-9480, how a command can stop, and the state after reset. -/

namespace Sys2Proof.Machine

open Sys2Proof

/-- How a command can stop the machine. -/
inductive Fault where
  /-- HBM_ACCESS names an address outside the HBM (R10: no such storage). Safe: the command names nothing that exists. -/
  | noSuchAddress (addr : Nat)
deriving DecidableEq, Repr

/-- Why a command has no meaning. -/
inductive Refusal where
  /-- The command is not modelled yet. Safe. -/
  | notModelled (mnemonic : String)
  /-- The command names a unit that the module does not have (a core id above 255, a port above 15, ...). Raised by every
  command with such an operand. Safe: the spec gives such a command no effect. -/
  | noSuchUnit
deriving DecidableEq, Repr

/-- The machine. -/
structure State where
  /-- Commands that wait, first in, first out. -/
  pending : List Instr := []
  /-- AON cycles, and the ACLK and NCLK cycles of each spar die (assumption 1). -/
  aon : Nat := 0
  aclks : Tab Nat := []
  nclks : Tab Nat := []
  /-- XCLK cycles of the mast die's fabric switch. -/
  xclk : Nat := 0
  /-- The model's own field: the index of the next free value (assumption 6). -/
  fresh : Nat := 0
  cores : Tab Core := []
  phys : Tab PhysCore := []
  hub : Hub := {}
  parts : Tab Part := []
  evqs : Tab Evq := []
  log : Log := {}
  wct : Wct := {}
  hbm : Hbm := {}
  /-- The host's memory behind the host window, by device address, as the module sees it (assumption 13). -/
  host : Mem := []
  arb : Arb := {}
  fab : Fab := {}
  hif : HostIf := {}
  fwc : Fwc := {}
  sec : Sec := {}
  pwr : Pwr := {}
  pins : Pins := {}
deriving DecidableEq, Repr

/-- The machine right after the module reset is released (start-up step 3 of R668; assumption 8). -/
def State.reset : State := {}

end Sys2Proof.Machine
end

