-- ==== Sys2Proof/Machine/Ops.lean ====
section
/-! DEFINITION. Machine/Ops.lean: the named operations over memory, contexts, partitions, events and the log that every
family shares. -/

namespace Sys2Proof.Machine

open Sys2Proof

/-- Outcome of a command. -/
abbrev Out := Host.Outcome State Fault Refusal

/-! ### Saturating counters and small helpers -/

/-- A counter that saturates at its maximum. -/
def satAdd {w : Nat} (c : BitVec w) (n : Nat) : BitVec w := BitVec.ofNat w (min (2 ^ w - 1) (c.toNat + n))

/-- A count as a field of `bits` bits, saturated. -/
def satField (bits n : Nat) : Nat := min (2 ^ bits - 1) n

/-- Insert a number into a rising list. -/
def insertNat (n : Nat) : List Nat → List Nat
  | [] => [n]
  | a :: t => if n < a then n :: a :: t else if n = a then a :: t else a :: insertNat n t

/-- Drop repeats, keeping first occurrences. -/
def dedup {α : Type} [DecidableEq α] (l : List α) : List α :=
  (l.foldl (fun (acc : List α) a => if acc.contains a then acc else a :: acc) []).reverse

/-- AON cycles of one microsecond (50 MHz). -/
def usAon : Nat := 50
def msAon : Nat := 50000
def secAon : Nat := 50000000
/-- ACLK cycles of a spar die, each with a clock of its own, and its SCLK cycles: half as many (R49). -/
def aclk (s : State) (spar : Nat) : Nat := Tab.get 0 s.aclks spar
def sclk (s : State) (spar : Nat) : Nat := aclk s spar / 2
/-- The ACLK and SCLK cycles of the die that holds core `c` (R16). -/
def coreAclk (s : State) (c : Nat) : Nat := aclk s (c / 128)
def coreSclk (s : State) (c : Nat) : Nat := sclk s (c / 128)
/-- NCLK cycles of the die that holds core `c`: a clock of its own (R49). -/
def nclk (s : State) (spar : Nat) : Nat := Tab.get 0 s.nclks spar
def coreNclk (s : State) (c : Nat) : Nat := nclk s (c / 128)

/-! ### Byte memories: rising lists of cells without default entries -/

/-- Read one byte; `d` is what an unlisted address reads as. -/
def memRead (d : Byte) (m : Mem) (a : Nat) : Byte := Tab.get d m a
/-- Write one byte, keeping the canonical form. -/
def memWrite (d : Byte) (m : Mem) (a : Nat) (b : Byte) : Mem := if b = d then Tab.erase m a else Tab.set m a b
/-- Write consecutive bytes from address `a`. -/
def memWriteN (d : Byte) (m : Mem) (a : Nat) : List Byte → Mem
  | [] => m
  | b :: t => memWriteN d (memWrite d m a b) (a + 1) t
/-- Read `n` consecutive bytes. -/
def memReadN (d : Byte) (m : Mem) (a n : Nat) : List Byte := (List.range n).map fun i => memRead d m (a + i)
/-- Every byte of `lo` to `hi - 1` back to the default. -/
def memClear (m : Mem) (lo hi : Nat) : Mem := m.filter fun c => decide (c.1 < lo) || decide (hi ≤ c.1)
/-- Keys strictly rising. -/
def keysRising {α : Type} : Tab α → Bool
  | [] => true
  | [_] => true
  | a :: b :: t => decide (a.1 < b.1) && keysRising (b :: t)
/-- The canonical form: addresses strictly rising, no entry equal to what an unlisted address reads as. -/
def Mem.wf (d : Byte) (m : Mem) : Bool := keysRising m && m.all (fun c => c.2 != d)

/-- Little-endian number of a list of bytes. -/
def leNum : List Byte → Nat
  | [] => 0
  | b :: t => b.toNat + 256 * leNum t

/-! ### Access to the parts of the state -/

def getCore (s : State) (c : Nat) : Core := Tab.get {} s.cores c
def setCore (s : State) (c : Nat) (k : Core) : State := { s with cores := Tab.set s.cores c k }
def getCtx (k : Core) (n : Nat) : Ctx := Tab.get {} k.ctxs n
def putCtx (k : Core) (n : Nat) (x : Ctx) : Core := { k with ctxs := Tab.set k.ctxs n x }
def ctxAt (s : State) (c n : Nat) : Ctx := getCtx (getCore s c) n
def setCtx (s : State) (c n : Nat) (x : Ctx) : State := setCore s c (putCtx (getCore s c) n x)
def getPhys (s : State) (p : Nat) : PhysCore := Tab.get {} s.phys p
def setPhys (s : State) (p : Nat) (x : PhysCore) : State := { s with phys := Tab.set s.phys p x }
def getPart (s : State) (p : Nat) : Part := Tab.get {} s.parts p
def setPart (s : State) (p : Nat) (x : Part) : State := { s with parts := Tab.set s.parts p x }
def getRegion (s : State) (r : Nat) : Region := Tab.get {} s.hbm.regions r
def setRegion (s : State) (r : Nat) (x : Region) : State :=
  { s with hbm := { s.hbm with regions := Tab.set s.hbm.regions r x } }
def getCtr (s : State) (n : Nat) : Ctr := Tab.get {} s.wct.ctrs n
def setCtr (s : State) (n : Nat) (x : Ctr) : State := { s with wct := { s.wct with ctrs := Tab.set s.wct.ctrs n x } }
def getEvq (s : State) (f : Nat) : Evq := Tab.get {} s.evqs f
def setEvq (s : State) (f : Nat) (x : Evq) : State := { s with evqs := Tab.set s.evqs f x }

/-- Run `k` on a core that the module has (R15), else refuse by name. -/
def onCore (c : Nat) (k : Out) : Out := if c < 256 then k else .refused .noSuchUnit
/-- Run `k` on a context of a core. -/
def onCtx (c n : Nat) (k : Out) : Out := if c < 256 ∧ n < 8 then k else .refused .noSuchUnit

/-! ### Sessions by interface: 0 the PF, k VF k, 17 the management port (R557, R589) -/

def getSess (s : State) (k : Nat) : Sess := Tab.get {} s.sec.sess k
def setSess (s : State) (k : Nat) (x : Sess) : State := { s with sec := { s.sec with sess := Tab.set s.sec.sess k x } }

/-- The session open on an interface, or 0. -/
def openId (s : State) (k : Nat) : Nat := if (getSess s k).opened then (getSess s k).id else 0

/-- The next free value, and the state after it is drawn (assumption 6). -/
def drawFree (s : State) : Nat × State := (Config.freeValue s.fresh, { s with fresh := s.fresh + 1 })

/-! ### Logical and physical positions (R15, R16, R28 to R31) -/

def sparOf (c : Nat) : Nat := c / 128
def rowOf (c : Nat) : Nat := c / 16 % 8
def colOf (c : Nat) : Nat := c % 16
def coreId (spar row col : Nat) : Nat := spar * 128 + row * 16 + col
def clusterOf (c : Nat) : Nat := sparOf c * 8 + rowOf c / 4 * 4 + colOf c / 4
def physId (spar row pcol : Nat) : Nat := spar * 136 + row * 17 + pcol

def colMap (s : State) (spar row : Nat) : ColMap := Tab.get {} s.hub.colmap (spar * 8 + row)

/-- Physical column of logical column `c` (R28). -/
def physicalColumn (m : ColMap) (c : Nat) : Option Nat :=
  let skip := m.skipCol.toNat
  let sk : List Nat := if skip < 16 then (if m.lost then (if m.lostCol.toNat < skip then [m.lostCol.toNat, skip]
    else [skip, m.lostCol.toNat]) else [skip]) else []
  let p := sk.foldl (fun p t => if p ≥ t then p + 1 else p) c
  if m.rowLost ∨ p > 16 then none else some p

/-- Physical position id of a logical core, if its position holds a core. -/
def physOf (s : State) (c : Nat) : Option Nat :=
  (physicalColumn (colMap s (sparOf c) (rowOf c)) (colOf c)).map (physId (sparOf c) (rowOf c))

/-- Core ids of a cluster. -/
def coresOfCluster (cl : Nat) : List Nat :=
  let spar := cl / 8
  let r0 := cl % 8 / 4 * 4
  let c0 := cl % 4 * 4
  (List.range 16).map fun i => coreId spar (r0 + i / 4) (c0 + i % 4)

/-- A cluster is withdrawn (R29, R30, R620). -/
def withdrawn (s : State) (cl : Nat) : Bool :=
  s.hub.withdrawnCtl.getLsbD cl || (coresOfCluster cl).any fun c => (physOf s c).isNone

def sparLost (s : State) (spar : Nat) : Bool := s.hub.sparLost.getLsbD spar

/-- The core id names a core in service (R30, R372, R613). -/
def coreLive (s : State) (c : Nat) : Bool :=
  decide (c < 256) && !sparLost s (sparOf c) && !withdrawn s (clusterOf c) &&
    match physOf s c with
    | none => false
    | some p => (getPhys s p).out.isNone

/-- A unit whose epoch is stale takes no work (R623). -/
def coreStale (s : State) (c : Nat) : Bool := match physOf s c with
  | some p => (getPhys s p).epoch != (getPhys s p).expected
  | none => true

/-- Work reaches the core: its id names a core in service (R30), which is not stale (R623). -/
def coreServes (s : State) (c : Nat) : Bool := coreLive s c && !coreStale s c

/-! ### Partitions (R38 to R46) -/

def partLive (p : Part) : Bool := match p.st with | .none => false | _ => true

/-- Partition of a cluster. -/
def partOfCluster (s : State) (cl : Nat) : Option Nat :=
  (List.range 16).find? fun n => partLive (getPart s n) && (getPart s n).clusters.getLsbD cl

def partOfCore (s : State) (c : Nat) : Option Nat := partOfCluster s (clusterOf c)

/-- Partition number in a record: 0xFF for none. -/
def partField : Option Nat → Nat
  | some p => p
  | none => 0xFF

def hbmEnd : Nat := 0xC000000000
def hostBase : Nat := 0x8000000000000
def devEnd : Nat := 0x10000000000000
def gib : Nat := 2 ^ 30

/-- Where a device range lies (R10, R48): a range of length 0 is never unmapped. -/
inductive Space where
  | hbm | host | unmapped
deriving DecidableEq, Repr

def spaceOf (a len : Nat) : Space :=
  if a + len ≤ hbmEnd then .hbm
  else if hostBase ≤ a ∧ a + len ≤ devEnd then .host
  else .unmapped

/-- Every region of the HBM range is ASSIGNED to partition `p` (R46). -/
def regionsOk (s : State) (p : Option Nat) (a len : Nat) : Bool :=
  len == 0 || ((List.range ((a + len - 1) / gib - a / gib + 1)).map (a / gib + ·)).all fun r =>
    match p with
    | none => false
    | some n => (getRegion s r).st == .assigned && (getRegion s r).part.toNat == n

/-! ### Log and events (R544, R545, R610 to R615) -/

def logQueue (s : State) (src : Nat) : List LogRec := Tab.get [] s.log.queues src

/-- Queue a log record of source `src` for the writer; a trace record that finds the queue full is dropped and counted. -/
def logRecord (s : State) (src sev code part session data : Nat) : State :=
  if sev = 0 ∧ (logQueue s src).length ≥ 64 then { s with log := { s.log with dropped := satAdd s.log.dropped 1 } }
  else
    let r : LogRec := { seq := s.log.next, time := s.aon, source := src, sev := sev, code := code, part := part
                        session := session, data := data }
    { s with log := { s.log with queues := Tab.set s.log.queues src (logQueue s src ++ [r]), next := s.log.next + 1 } }

/-- A record of the processor waits for room in its queue, and the processor waits with it (R545). -/
def procWaits (s : State) (src : Nat) : Bool := decide ((logQueue s src).length > 64)

/-- A record of trace point `n` by processor `src`, if the point is enabled (R547; when a point is passed is assumption 146). -/
def trace (s : State) (src n : Nat) : State :=
  if s.log.traceEn.getLsbD n then logRecord s src 0 (0x100 + n) 0xFF 0 (Config.traceData s.log.next) else s
def traceAll (s : State) (l : List (Nat × Nat)) : State := l.foldl (fun s x => trace s x.1 x.2) s

/-- Trace points that a SECURITY record passes: SESSION_OPEN, SESSION_CLOSE, FLASH_WRITE, PART_CHANGE, DEBUG_STATE, SVN_CHANGE (R547, R584). -/
def recordPoints (code : Nat) : List (Nat × Nat) := match code with
  | 0x0400 => [(0, 8)]
  | 0x0401 => [(0, 9)]
  | 0x0404 => [(0, 4)]
  | 0x0405 => [(0, 11)]
  | 0x0406 => [(0, 11)]
  | 0x0407 => [(0, 11)]
  | 0x0408 => [(0, 15)]
  | 0x040B => [(0, 54)]
  | _ => []

/-- The security core's record of a change, and the trace points that it passes (R544, R584). -/
def securityRecord (s : State) (code part session data : Nat) : State :=
  traceAll (logRecord s 0 4 code part session data) (recordPoints code)

/-- Entries of an event queue: 2^LOG2_ENTRIES, 6 to 12 (R632). -/
def evqEntries (q : Evq) : Nat := 2 ^ max 6 (min 12 q.log2.toNat)
def evqFull (q : Evq) : Bool := decide ((q.written - q.head).toNat ≥ evqEntries q)
/-- Records that the queue has room for. -/
def evqRoom (q : Evq) : Nat := evqEntries q - (q.written - q.head).toNat

/-- Merge into the pending event of the same CODE and unit that satisfies `ok`, if there is one. -/
def mergeEvent (ok : Event → Bool) (e : Event) : List Event → Option (List Event)
  | [] => none
  | p :: t =>
    if p.code = e.code ∧ p.kind = e.kind ∧ p.unit = e.unit ∧ ok p then some ({ p with count := p.count + e.count } :: t)
    else (mergeEvent ok e t).map (p :: ·)

/-- Give an event to a function's queue (R610, R614, R615): a repeat within 1 ms merges while it is pending; while the queue
is full a repeat merges; an event beyond those that the queue has room for and 64 held ones is lost. A disabled queue takes nothing. -/
def giveEvent (s : State) (f : Nat) (e : Event) : State :=
  let q := getEvq s f
  if !q.enable then s
  else
    let ok (p : Event) : Bool := evqFull q || decide (e.time ≤ p.time + msAon)
    match mergeEvent ok e q.pending with
    | some l => setEvq s f { q with pending := l, overflow := if evqFull q then q.overflow + 1 else q.overflow }
    | none =>
      if q.pending.length ≥ evqRoom q + 64 then
        setEvq s f { q with lost := satAdd q.lost 1, overflow := q.overflow + 1 }
      else setEvq s f { q with pending := q.pending ++ [e] }

/-- Log severity of an event's severity (R611). -/
def logSevOf (sev : Nat) : Nat := if sev ≥ 3 then 3 else if sev = 2 then 2 else 1

/-- Unit kinds of R611. -/
def ukNone : Nat := 0
def ukCore : Nat := 1
def ukCluster : Nat := 2
def ukSpar : Nat := 3
def ukChannel : Nat := 4
def ukStack : Nat := 5
def ukPort : Nat := 6
def ukFirmware : Nat := 7
def ukArb : Nat := 8
def ukQueue : Nat := 9
def ukTree : Nat := 10
def ukFunction : Nat := 11

/-- SOURCE of the control core whose cluster a position lies in: 0x10 and the cluster of the core at the position, or, where it holds none, of
its column (R544). -/
def ctlSource (s : State) (p : Nat) : Nat :=
  let row := p % 136 / 17
  let col := ((List.range 16).find? fun c => physOf s (coreId (p / 136) row c) == some p).getD (p % 17)
  0x10 + p / 136 * 8 + row / 4 * 4 + min 3 (col / 4)

/-- SOURCE of an event's record: a core's events are recorded for its control core while that runs, those of HBM and power for the
power-management processor, those of jobs and groups for the scheduler, the rest by the security core (R544; DESIGN CHOICE, assumption 155). -/
def eventSource (s : State) (code kind unit : Nat) : Nat :=
  if kind = ukCore then (if s.fwc.dead.contains (ctlSource s unit) then 0 else ctlSource s unit)
  else if kind = ukChannel ∨ kind = ukStack ∨ code = 0x0618 ∨ code = 0x0619 then 1
  else if code = 0x0604 ∨ code = 0x0613 ∨ code = 0x0614 then 2
  else 0

/-- Trace points that an event passes (R547, R612): EVENT_RAISE, and with its code CTX_EVENT, DECOMMISSION, CORE_RETIRE, PORT_STATE, LANE_SPARE,
BOUND_EVENT, WATCHDOG, LOCKSTEP, CDC_RESET, ECC_EVENT, EMERGENCY, SELFTEST_STEP or COMMISSION, in the event's processor. -/
def eventPoints (src code : Nat) : List (Nat × Nat) :=
  (src, 57) :: match code with
    | 0x0601 => [(src, 61)]
    | 0x0602 => [(src, 61)]
    | 0x0603 => [(src, 61)]
    | 0x0604 => [(src, 61)]
    | 0x0605 => [(src, 60)]
    | 0x0607 => [(src, 36)]
    | 0x060A => [(src, 33)]
    | 0x060B => [(src, 39)]
    | 0x0610 => [(src, 40)]
    | 0x0611 => [(src, 41)]
    | 0x0615 => [(src, 58)]
    | 0x0616 => [(src, 62)]
    | 0x0617 => [(src, 59)]
    | 0x0618 => [(src, 16)]
    | 0x0619 => [(src, 20)]
    | 0x061A => [(src, 56)]
    | 0x061B => [(src, 32)]
    | _ => []

/-- Raise an event that covers `count` occurrences (R611, R612): it is logged, and goes to the PF and, with a partition, to that
partition's VF. -/
def raiseN (s : State) (code sev : Nat) (part : Option Nat) (kind unit detail flags count : Nat) : State :=
  let e : Event := { code := code, sev := sev, part := partField part, kind := kind, unit := unit, flags := flags
                     time := s.aon, detail := detail, count := count, logSeq := s.log.next % 2 ^ 24 }
  let src := eventSource s code kind unit
  let s1 := traceAll (logRecord s src (logSevOf sev) code (partField part) 0 (unit + detail * 2 ^ 64)) (eventPoints src code)
  let s2 := giveEvent s1 0 e
  match part with
  | some p => giveEvent s2 (p + 1) e
  | none => s2

/-! ### Suspension of C0 bounds (R526, R527) -/

def bndHost : Nat := 1
def bndCore : Nat := 2
def bndHbm : Nat := 4
def bndFabric : Nat := 8

def suspAt (s : State) (cause kind unit : Nat) : Susp :=
  (s.hub.susp.find? fun x => x.cause == cause && x.kind == kind && x.unit == unit).getD { cause := cause, kind := kind, unit := unit, bounds := 0 }

def putSusp (s : State) (x : Susp) : State :=
  let rest := s.hub.susp.filter fun y => !(y.cause == x.cause && y.kind == x.kind && y.unit == x.unit)
  { s with hub := { s.hub with susp := rest ++ [x] } }

/-- An event of the cause and scope came less than 1 ms ago. -/
def boundSoon (s : State) (x : Susp) : Bool := match x.lastEvent with | some t => decide (s.aon < t + msAon) | none => false

/-- Raise the BOUND_SUSPENDED event of a cause and scope with `flags`, for `count` occurrences. -/
def raiseBound (s : State) (x : Susp) (part : Option Nat) (flags count : Nat) : State :=
  raiseN (putSusp s { x with lastEvent := some s.aon, uncovered := 0, held := 0, part := part }) 0x0615 0 part x.kind x.unit (x.cause + 256 * x.bounds)
    flags count

/-- A BOUND_SUSPENDED event of a cause and scope, at most one in any 1 ms: one that comes too early is held until the millisecond has passed,
and covers those that join it (R526). -/
def boundEvent (s : State) (x : Susp) (part : Option Nat) (flags : Nat) : State :=
  if boundSoon s x then putSusp s { x with uncovered := x.uncovered + 1, held := x.held ||| flags, part := part }
  else raiseBound s x part (x.held ||| flags) (x.uncovered + 1)

/-- The events that were held and may now be raised. -/
def flushBounds (s : State) : State :=
  (s.hub.susp.filter fun x => x.held != 0 && !boundSoon s x).foldl (fun s x => raiseBound s x x.part x.held x.uncovered) s

/-- A cause of one occurrence: codes 4 to 8. -/
def boundOccur (s : State) (cause kind unit bounds : Nat) (part : Option Nat) : State :=
  boundEvent s { suspAt s cause kind unit with bounds := bounds } part 3

/-- A cause that lasts begins, or is met again: codes 1 to 3. -/
def boundBegin (s : State) (cause kind unit bounds : Nat) (part : Option Nat) : State :=
  let x := suspAt s cause kind unit
  let y := { x with bounds := bounds, active := true, since := s.aon }
  if x.active then putSusp s { y with uncovered := y.uncovered + 1 } else boundEvent s y part 1

/-- A lasting cause ends. -/
def boundEnd (s : State) (cause kind unit : Nat) (part : Option Nat) : State :=
  let x := suspAt s cause kind unit
  if x.active then boundEvent s { x with active := false } part 2 else s

/-- Bounds whose paths include a unit of the kind (R519, R526). -/
def unitBounds (kind : Nat) : Nat :=
  if kind = ukPort then bndFabric else if kind = ukChannel ∨ kind = ukStack then bndHbm
  else if kind = ukQueue then 15 else bndHost + bndCore + bndHbm

/-- Events that report a fault of cause 3: uncorrectable errors, queue resets, response timeouts, failed channels and lane
replacements (R526). -/
def isHwFault (code : Nat) : Bool := (decide (0x0601 ≤ code) && decide (code ≤ 0x0606)) || code == 0x060E || code == 0x0611

/-- Raise an event; one that reports a hardware fault suspends the bounds of its unit. -/
def raise (s : State) (code sev : Nat) (part : Option Nat) (kind unit detail flags : Nat) : State :=
  let s1 := raiseN s code sev part kind unit detail flags 1
  if isHwFault code then boundBegin s1 3 kind unit (unitBounds kind) part else s1

/-- A measured C0 transaction of path `k` (0 host, 1 core to core, 2 HBM) against its limit (R527). -/
def monitorPath (s : State) (k ns limit : Nat) (part : Option Nat) : State :=
  let mx := Tab.get 0#32 s.hub.monMax k
  let s1 := { s with hub := { s.hub with monMax := Tab.set s.hub.monMax k (BitVec.ofNat 32 (max mx.toNat (satField 32 ns))) } }
  if ns > limit then
    let s2 := { s1 with hub := { s1.hub with monExceed := Tab.set s1.hub.monExceed k (satAdd (Tab.get 0#32 s1.hub.monExceed k) 1) } }
    boundOccur s2 8 ukNone k (2 ^ k) part
  else s1

/-- UNIT_ID of a logical core: its physical position id (R611). -/
def coreUnit (s : State) (c : Nat) : Nat := (physOf s c).getD 0xFFFF

/-- An event of a core, to its partition or the PF. -/
def raiseCore (s : State) (c code sev detail : Nat) : State :=
  raise s code sev (partOfCore s c) ukCore (coreUnit s c) detail 0

/-! ### Scratchpad bytes (05) -/

def spadSize : Nat := 0x200000

/-- Rows (of 32 bytes) that `n` bytes from `a` touch. -/
def rowsOf (a n : Nat) : List Nat := if n = 0 then [] else (List.range ((a + n - 1) / 32 - a / 32 + 1)).map (a / 32 + ·)

/-- The majority of the three copies of a row's written-since-commission bit (R169). -/
def rowWritten (sp : Spad) (r : Nat) : Bool :=
  let a := sp.written.contains r
  let b := sp.written1.contains r
  let c := sp.written2.contains r
  (a && b) || (a && c) || (b && c)

/-- The copies of a row's bit are not all equal. -/
def copiesDiffer (sp : Spad) (r : Nat) : Bool :=
  sp.written.contains r != sp.written1.contains r || sp.written.contains r != sp.written2.contains r

/-- One copy of a row's bit with a value. -/
def setBit (on : Bool) (r : Nat) (l : List Nat) : List Nat := if on then insertNat r l else l.filter (· != r)

/-- Copy `k` of a row's bit changes of itself (R169). -/
def upsetCopy (sp : Spad) (r k : Nat) : Spad :=
  let flip (l : List Nat) : List Nat := setBit (!l.contains r) r l
  match k with
  | 0 => { sp with written := flip sp.written }
  | 1 => { sp with written1 := flip sp.written1 }
  | 2 => { sp with written2 := flip sp.written2 }
  | _ => sp

/-- A read of a row's bit corrects its copies in place and counts the correction (R169). Where the majority has become clear the row reads
zero from then on (R167; assumption 121). -/
def readCopies (sp : Spad) (r : Nat) : Spad :=
  if copiesDiffer sp r then
    let w := rowWritten sp r
    { sp with bytes := if w then sp.bytes else memClear sp.bytes (32 * r) (32 * r + 32)
              written := setBit w r sp.written, written1 := setBit w r sp.written1, written2 := setBit w r sp.written2
              ceCount := satAdd sp.ceCount 1 }
  else sp

/-- The written-since-commission bit of the row of address `a` (R166). -/
def isWritten (sp : Spad) (a : Nat) : Bool := rowWritten sp (a / 32)

/-- Write bytes: every row that takes a byte gets its written bit; the other bytes of a row that was unwritten are zero, as
its unlisted bytes read (R166). -/
def spadWrite (sp : Spad) (a : Nat) (bs : List Byte) : Spad :=
  let set (l : List Nat) : List Nat := (rowsOf a bs.length).foldl (fun l r => insertNat r l) l
  { sp with bytes := memWriteN 0 sp.bytes a bs, written := set sp.written, written1 := set sp.written1, written2 := set sp.written2 }

/-- The byte at `a` (R167: an unwritten row reads zero). -/
def spadByte (sp : Spad) (a : Nat) : Byte := memRead 0 sp.bytes a
def spadReader (sp : Spad) (a : Nat) : Nat := (spadByte sp a).toNat
def spadBytes (sp : Spad) (a n : Nat) : List Byte := memReadN 0 sp.bytes a n

/-- Rows among those given that were never written. -/
def unwrittenRows (sp : Spad) (rs : List Nat) : List Nat := rs.filter fun r => !rowWritten sp r

/-- Write the low `w` bits of `v` at bit position `p` from bit 0 of byte `base`, keeping the other bits. -/
def spadWriteBits (sp : Spad) (base p w v : Nat) : Spad :=
  let a := base + p / 8
  let n := (p % 8 + w + 7) / 8
  let old := leNum (spadBytes sp a n)
  let m := 2 ^ (p % 8)
  let keepLow := old % m
  let keepHigh := old / (m * 2 ^ w) * (m * 2 ^ w)
  spadWrite sp a (leBytes n (keepLow + v % 2 ^ w * m + keepHigh))

/-! #### Banks and row maps (R149, R152, R171 to R175) -/

/-- Bank of a scratchpad address, and its row in the bank before sparing (R152). -/
def bankOf (p : Nat) : Nat := (p / 64 % 32) ^^^ ((p / 512 ^^^ p / 2 ^ 14 ^^^ p / 2 ^ 19) % 32)
def bankRowOf (p : Nat) : Nat := p / 2048 % 1024 * 2 + p / 32 % 2

/-- Failing main rows of a bank, rising, and its spare rows that have not failed. -/
def mainFails (l : List (Nat × Nat)) (b : Nat) : List Nat :=
  (l.filter fun e => e.1 == b && decide (e.2 < 2048)).foldl (fun a e => insertNat e.2 a) []
def goodSpares (l : List (Nat × Nat)) (b : Nat) : List Nat := ((List.range 16).map (2048 + ·)).filter fun r => !l.contains (b, r)
/-- The row of the bank that serves row `r` under a map (R171). -/
def mappedRow (l : List (Nat × Nat)) (b r : Nat) : Nat :=
  if (mainFails l b).contains r then (goodSpares l b).getD ((mainFails l b).idxOf r) r else r
/-- Spare rows left in a bank, and the exhaustion of R174. -/
def sparesLeft (l : List (Nat × Nat)) (b : Nat) : Nat := (goodSpares l b).length - (mainFails l b).length
def bankExhausted (l : List (Nat × Nat)) (b : Nat) : Bool := decide ((mainFails l b).length > (goodSpares l b).length)

/-! #### Two-copy items of the boot flash (R532) -/

/-- Copy 1 is the one in use: it is valid, and copy 0 is not or has the smaller COUNT. -/
def secondInUse {α : Type} (x : TwoCopy α) : Bool := match x.copy0, x.copy1 with
  | _, none => false
  | none, some _ => true
  | some a, some b => a.1.ult b.1
def copyInUse {α : Type} (x : TwoCopy α) : Option (W32 × α) := if secondInUse x then x.copy1 else x.copy0
/-- The body of an item; without a valid copy it is read as empty. -/
def itemBody {α : Type} (x : TwoCopy α) (empty : α) : α := match copyInUse x with | some c => c.2 | none => empty
def itemCount {α : Type} (x : TwoCopy α) : W32 := match copyInUse x with | some c => c.1 | none => 0
/-- Rewrite the copy that is not in use, with COUNT one larger. -/
def itemWrite {α : Type} (x : TwoCopy α) (v : α) : TwoCopy α :=
  if secondInUse x then { x with copy0 := some (itemCount x + 1, v) } else { x with copy1 := some (itemCount x + 1, v) }

def setFlash (s : State) (f : Flash) : State := { s with fwc := { s.fwc with flash := f } }
/-- ACTIVE of the boot record: 0 slot A, 1 slot B; the entries of the row-map table and of the repair list; the credential slots. -/
def activeSlot (s : State) : Nat := itemBody s.fwc.flash.boot 0
def fieldMap (s : State) : List W32 := itemBody s.fwc.flash.fieldMap []
def repairList (s : State) : List W64 := itemBody s.fwc.flash.repair []
def credTable (s : State) : Tab Cred := itemBody s.fwc.flash.creds []

/-! #### The field row-map table (R171 to R175) -/

/-- An entry of the field row-map table: position, bank and row of the bank; none where VALID is 0 (R173). -/
def fieldEntry (w : W32) : Option (Nat × Nat × Nat) :=
  if w.getLsbD 31 then some (physId (bf w.toNat 28 1) (bf w.toNat 25 3) (bf w.toNat 20 5), bf w.toNat 15 5, bf w.toNat 3 12) else none
def fieldWord (p : Nat) (e : Nat × Nat) : W32 :=
  BitVec.ofNat 32 (2 ^ 31 + p / 136 * 2 ^ 28 + p % 136 / 17 * 2 ^ 25 + p % 17 * 2 ^ 20 + e.1 * 2 ^ 15 + e.2 * 8)

/-- Failing rows of a position, as bank and row of the bank: its fuse entries merged with those of the field table, each once (R172). -/
def failingOf (s : State) (p : Nat) : List (Nat × Nat) :=
  dedup ((getPhys s p).fuse ++ (fieldMap s).filterMap fun w => match fieldEntry w with
    | some (q, e) => if q = p then some e else none
    | none => none)

/-- A failing row enters the field table, which holds 4,096 entries (R173, R175; what finds the table full is dropped, assumption 126). -/
def addFailing (s : State) (p : Nat) (e : Nat × Nat) : State :=
  let m := fieldMap s
  if m.contains (fieldWord p e) || decide (m.length ≥ 4096) then s
  else setFlash (trace s 0 4) { s.fwc.flash with fieldMap := itemWrite s.fwc.flash.fieldMap (m ++ [fieldWord p e]) }

/-- The row of a core that shows an uncorrectable error at scratchpad address `a` (R175). -/
def rowFails (s : State) (c a : Nat) : State := match physOf s c with
  | some p => addFailing s p (bankOf a, mappedRow (getPhys s p).applied (bankOf a) (bankRowOf a))
  | none => s

/-- One finding in a scratchpad word: a corrected word is counted and queued for write-back, an uncorrectable one counted, recorded and
reported (R170); a row that was never written reports none (R167). A copy of a written bit changes. -/
def spadFinding (c : Nat) (s : State) (h : Nat × Ecc) : State :=
  let k := getCore s c
  let sp := k.spad
  if h.1 ≥ spadSize then s
  else match h.2 with
    | .bitCopy n => setCore s c { k with spad := upsetCopy sp (h.1 / 32) n }
    | .corrected =>
      if !isWritten sp h.1 then s
      else setCore s c { k with spad := { sp with ceCount := satAdd sp.ceCount 1, toWriteBack := insertNat (h.1 / 8 * 8) sp.toWriteBack } }
    | .uncorrectable =>
      if !isWritten sp h.1 then s
      else raiseCore (rowFails (setCore s c { k with spad := { sp with ueCount := satAdd sp.ueCount 1, ueWord := BitVec.ofNat 21 (h.1 / 8) } })
        c h.1) c 0x0601 2 (h.1 / 8 * 8)

/-- The findings of an access of scratchpad words in work of a core: the copies of written bits first, which the access corrects as it
reads them (R169), then the words (R170). -/
def spadEcc (s : State) (c : Nat) (hits : EccHits) : State :=
  let bits := hits.filter fun h => match h.2 with | .bitCopy _ => true | _ => false
  let words := hits.filter fun h => match h.2 with | .bitCopy _ => false | _ => true
  let s1 := bits.foldl (spadFinding c) s
  let s2 := if bits.isEmpty then s1 else
    let k := getCore s1 c
    setCore s1 c { k with spad := (bits.map (·.1 / 32)).foldl readCopies k.spad }
  words.foldl (spadFinding c) s2

/-- Whether the findings that count hold an uncorrectable word. -/
def hitsUe (sp : Spad) (hits : EccHits) : Bool :=
  hits.any fun h => decide (h.1 < spadSize) && isWritten sp h.1 && h.2 == .uncorrectable

/-! ### Completion records, token window, waking (R130, R131, R144, R145) -/

def stOk : Nat := 0
def stShape : Nat := 1
def stAbsent : Nat := 2
def stFormat : Nat := 3
def stType : Nat := 4
def stOp : Nat := 5
def stReserved : Nat := 6
def stOverlap : Nat := 7
def stClass : Nat := 8
def stCancelled : Nat := 0x10
def stCtxFaulted : Nat := 0x11
def stBound : Nat := 0x20
def stUnmapped : Nat := 0x21
def stRegion : Nat := 0x22
def stUncorr : Nat := 0x30
def stSlotTo : Nat := 0x31
def stRelayTo : Nat := 0x32

/-- The fields of a completion record that vary. -/
structure RecFields where
  status : Nat
  op : Nat
  summary : Nat := 0
  seq : Nat
  counts : MetaCounts := {}
  skipped : Nat := 0
  unwritten : Nat := 0
  satTiles : Nat := 0
  nonfinTiles : Nat := 0
  tiles : Nat := 0
  waitSclk : Nat := 0
  runAclk : Nat := 0

/-- The 64 bytes of a completion record (R145). -/
def recordBytes (r : RecFields) : List Byte :=
  let f (bytes n : Nat) : List Byte := leBytes bytes (satField (8 * bytes) n)
  f 2 r.status ++ f 1 r.op ++ f 1 r.summary ++ leBytes 4 r.seq
    ++ f 4 r.counts.idxRange ++ f 4 r.counts.idxOrder ++ f 4 r.counts.rowOffset ++ f 4 r.counts.overfull
    ++ f 4 r.counts.spill ++ f 4 r.counts.bmapCount ++ f 4 r.counts.xpose
    ++ f 4 r.skipped ++ f 4 r.unwritten ++ f 2 r.satTiles ++ f 2 r.nonfinTiles ++ f 4 r.tiles
    ++ f 4 r.waitSclk ++ f 4 r.runAclk ++ [0, 0, 0, 0x5A]

/-- Descriptors pushed and not complete (R129). -/
def outstanding (k : Core) (n : Nat) : Nat :=
  (getCtx k n).queue.length + (k.runs.filter (·.ctx == n)).length

/-- Whether a waiting context may run on: its wait condition has cleared (R122, R160). -/
def waitClear (k : Core) (n : Nat) : Bool :=
  let x := getCtx k n
  match x.wait with
  | some .kpush => decide (x.queue.length < 8) && decide (outstanding k n < 32)
  | some (.kwait _ q) => !(x.window.any fun t => t.seq == q && !t.done)
  | some (.kdrain _) => outstanding k n == 0
  | some .fence => !(k.spad.queue.any (·.ctx == n))
  | _ => false

/-- Return the contexts whose condition has cleared to RUNNING; each re-executes its instruction (R122). -/
def wake (k : Core) : Core :=
  (List.range 8).foldl (fun k n =>
    let x := getCtx k n
    if x.st = .waiting ∧ waitClear k n then putCtx k n { x with st := .running, wait := none } else k) k

/-- Set the result of SEQ in a context's token window and drain accumulators (R130, R131). -/
def setToken (x : Ctx) (seq status summary : Nat) : Ctx :=
  { x with
    window := x.window.map fun t => if t.seq = seq then { t with done := true, status := BitVec.ofNat 16 status
                                                                 summary := BitVec.ofNat 8 summary } else t
    drainSum := x.drainSum ||| BitVec.ofNat 8 summary
    drainBad := x.drainBad || status != stOk }

/-- Write the record of a descriptor of context `n` at scratchpad address `addr` and set its token-window result (R144). -/
def writeRecord (k : Core) (n addr : Nat) (r : RecFields) : Core :=
  let x := getCtx k n
  let k1 := { k with spad := spadWrite k.spad addr (recordBytes r) }
  wake (putCtx k1 n (setToken x r.seq r.status r.summary))

/-- SCLK cycles that a queue head has waited. -/
def headWait (now : Nat) (q : QDesc) : Nat := match q.headSince with | some t => now - t | none => 0

/-- Complete a descriptor that was never dispatched with `status`: its record is written (R138, R145); `un` unwritten rows were read
of its headers (R167). -/
def refuseDesc (now : Nat) (k : Core) (n : Nat) (q : QDesc) (status : Nat) (un : Nat := 0) : Core :=
  let d := descOf q.desc
  writeRecord k n (q.base + d.tokenAddr)
    { status := status, op := d.op, summary := if un = 0 then 0 else 16, seq := q.seq, unwritten := un, waitSclk := headWait now q }

/-- RELAY_STALL with the waits that go on counted up to now: NCLK cycles (R361). -/
def halStall (now : Nat) (h : Hal) : BitVec 32 :=
  let cycles (t : Option Nat) : Nat := t.elim 0 (now - ·)
  satAdd h.stall (cycles h.fwdFrom + cycles h.fillFrom)

/-- The waits of a member are counted up to now. -/
def countStall (now : Nat) (h : Hal) : Hal :=
  { h with stall := halStall now h, fwdFrom := h.fwdFrom.map fun _ => now, fillFrom := h.fillFrom.map fun _ => now }

/-- The wait of a head fill ends (R361). -/
def endFill (now : Nat) (k : Core) : Core := { k with dma := { k.dma with hal := { countStall now k.dma.hal with fillFrom := none } } }

/-! ### Scoreboard (R141, R142) -/

/-- Add one range of a descriptor to the scoreboard entries, each beside whether the descriptor has taken it: a read may join an equal read entry
that the descriptor has not taken yet. -/
def sbTake (l : List (SbEntry × Bool)) (r : SbRange) : List (SbEntry × Bool) :=
  if r.wr then l ++ [({ lo := r.lo, hi := r.hi, readers := 0, writer := true }, true)]
  else
    let rec go : List (SbEntry × Bool) → Option (List (SbEntry × Bool))
      | [] => none
      | e :: t =>
        if e.1.lo = r.lo ∧ e.1.hi = r.hi ∧ !e.1.writer ∧ e.1.readers < 255 ∧ !e.2 then some (({ e.1 with readers := e.1.readers + 1 }, true) :: t)
        else (go t).map (e :: ·)
    match go l with
    | some l' => l'
    | none => l ++ [({ lo := r.lo, hi := r.hi, readers := 1, writer := false }, true)]

/-- Release a range: one reader leaves, or the writer entry goes. -/
def sbDrop : List SbEntry → SbRange → List SbEntry
  | [], _ => []
  | e :: t, r =>
    if e.lo = r.lo ∧ e.hi = r.hi ∧ e.writer = r.wr then
      (if r.wr ∨ e.readers ≤ 1 then t else { e with readers := e.readers - 1 } :: t)
    else e :: sbDrop t r

def sbRelease (k : Core) (rs : List SbRange) : Core := { k with sb := rs.foldl sbDrop k.sb }

/-! ### Context faults (R126, R127) -/

def causeIllegal : Nat := 1
def causeMisaligned : Nat := 2
def causeBound : Nat := 3
def causeFetch : Nat := 4
def causeUnmapped : Nat := 5
def causeRegion : Nat := 6
def causeClaim : Nat := 7
def causeEcall : Nat := 8
def causeEbreak : Nat := 9
def causeBoundCfg : Nat := 10

/-- Discard every queued descriptor of context `n` with `status`, releasing what a passed head holds (R127, R124). -/
def discardQueue (s : State) (c : Nat) (k : Core) (n status : Nat) : Core :=
  let q := (getCtx k n).queue
  let k0 := if q.any (·.fillSince.isSome) then endFill (coreNclk s c) k else k
  let k1 := putCtx k0 n { getCtx k0 n with queue := [] }
  q.foldl (fun k d => refuseDesc (coreSclk s c) (sbRelease k d.holds) n d status) k1

/-- Context `n` of core `c` enters FAULTED with `cause` at `pc`: its queued descriptors are discarded with CTX_FAULTED and a
CONTEXT_FAULT event goes to the host (R126, R127, R612). -/
def faultCtx (s : State) (c n cause pc : Nat) : State :=
  let k := getCore s c
  let x := getCtx k n
  let k1 := putCtx k n { x with st := .faulted, cause := BitVec.ofNat 8 cause, faultPc := BitVec.ofNat 32 pc, wait := none
                                haltPending := false }
  let s1 := setCore s c (discardQueue s c { k1 with krecvOrder := k1.krecvOrder.filter (· != n) } n stCtxFaulted)
  raiseCore s1 c 0x0607 0 (cause + 256 * n + pc * 2 ^ 32)

/-- Context `n` halts with `cause` and raises no host event (R126). -/
def haltCtx (k : Core) (n cause pc : Nat) : Core :=
  let x := getCtx k n
  putCtx k n { x with st := .halted, cause := BitVec.ofNat 8 cause, faultPc := BitVec.ofNat 32 pc, wait := none
                      haltPending := false }

/-! ### Registers of a context -/

/-- Integer register `r`; x0 reads zero. -/
def readX (x : Ctx) (r : Nat) : W64 := if r = 0 then 0 else Tab.get 0 x.x r
/-- Write integer register `r`; a write of x0 is discarded. -/
def writeX (x : Ctx) (r : Nat) (v : W64) : Ctx := if r = 0 then x else { x with x := Tab.set x.x r v }
def readF (x : Ctx) (r : Nat) : W64 := Tab.get 0 x.f r
def writeF (x : Ctx) (r : Nat) (v : W64) : Ctx := { x with f := Tab.set x.f r v }

/-- Scratchpad byte address of window address `a` (R117). -/
def winAddr (x : Ctx) (a : Nat) : Nat := x.base.toNat * 64 + a
def winBound (x : Ctx) : Nat := x.bound.toNat * 64

/-- The range lies within the window (R164). -/
def inWindow (x : Ctx) (a len : Nat) : Bool := decide (a + len ≤ winBound x)

/-! ### Route table, own id, tree entries (R437, R441, R451, R460) -/

/-- The module's own id: MODULE_ID of OPT_ROLE. -/
def ownModule (s : State) : Nat := bf s.fab.role.live.toNat 0 15
/-- The route entry is valid: VALID, and KIND 1 to 4, or 5 with a nonzero SPRAY (R437, R438). -/
def routeValid (s : State) (m : Nat) : Bool :=
  let e := (Tab.get 0#16 s.fab.route m).toNat
  e.testBit 15 && (let k := bf e 12 3; (decide (1 ≤ k) && decide (k ≤ 4)) || (k == 5 && bf e 0 12 != 0))
def getTree (s : State) (n : Nat) : Tree := Tab.get {} s.fab.trees n
def treeField (t : Tree) (off bytes : Nat) : Nat := bf t.raw.toNat (8 * off) (8 * bytes)
def treeId (t : Tree) : Nat := treeField t 0 2 % 4096
def treeRole (t : Tree) : Nat := treeField t 2 1
def treePart (t : Tree) : Nat := treeField t 3 1 % 16
def treeClass (t : Tree) : Nat := max 1 (treeField t 3 1 / 16 % 4)
def treeSlack (t : Tree) : Nat := if treeField t 4 1 = 0 then 64 else treeField t 4 1
def treePorts (t : Tree) : Nat := treeField t 6 2
def treeBase (t : Tree) : Nat := treeField t 8 8
def treeLen (t : Tree) : Nat := treeField t 16 8
def treeRoot (t : Tree) : Nat := treeField t 24 2 % 32768
def treeWait (t : Tree) : Nat := if treeField t 26 2 = 0 then 20 else treeField t 26 2

/-! ### HBM and host bytes -/

/-- A finding that cannot be corrected. -/
def hitsBad (hits : EccHits) : Bool := hits.any fun h => h.2 == .uncorrectable

/-- Bytes of device space: HBM, or the host memory behind the window (R10). -/
def devRead (s : State) (a n : Nat) : List Byte :=
  if a ≥ hostBase then memReadN 0 s.host a n else memReadN 0 s.hbm.bytes a n
def devWrite (s : State) (a : Nat) (bs : List Byte) : State :=
  if a ≥ hostBase then { s with host := memWriteN 0 s.host a bs }
  else { s with hbm := { s.hbm with bytes := memWriteN 0 s.hbm.bytes a bs } }

def hbmByte (s : State) (a : Nat) : Byte := memRead 0 s.hbm.bytes a
def hbmRead (s : State) (a n : Nat) : List Byte := memReadN 0 s.hbm.bytes a n
def hbmWrite (s : State) (a : Nat) (bs : List Byte) : State :=
  { s with hbm := { s.hbm with bytes := memWriteN 0 s.hbm.bytes a bs } }

end Sys2Proof.Machine
end

