-- ==== Sys2Proof/Machine/Hbm.lean ====
section
/-! DEFINITION. Machine/Hbm.lean: the HBM (14): its address map, ECC, retraining, region states and the scrub engine. -/

namespace Sys2Proof.Machine

open Sys2Proof

/-! ### Address map (R407, R408) -/

/-- Mode of a band: 1 is stack-local. -/
def bandMode (s : State) (b : Nat) : Bool := s.hbm.bandmap.getLsbD b

/-- Stack, channel and channel offset of a device address (R408). -/
def hbmMap (s : State) (a : Nat) : Nat × Nat × Nat :=
  let b := a / 2 ^ 33
  if bandMode s b then
    let u := a % 2 ^ 30 / 4096
    (a / gib % 8, (u ^^^ (u >>> 5) ^^^ (u >>> 10) ^^^ (u >>> 15)) % 32, b * 0x2000000 + (u / 32) * 4096 + a % 4096)
  else
    let u := a % 2 ^ 33 / 4096
    let g := (u ^^^ (u >>> 8) ^^^ (u >>> 16)) % 256
    (g / 32, g % 32, b * 0x2000000 + (u / 256) * 4096 + a % 4096)

def getChan (s : State) (n : Nat) : Chan := Tab.get {} s.hbm.chans n
def setChan (s : State) (n : Nat) (x : Chan) : State := { s with hbm := { s.hbm with chans := Tab.set s.hbm.chans n x } }
def getStack (s : State) (n : Nat) : Stack := Tab.get {} s.hbm.stk n
def setStack (s : State) (n : Nat) (x : Stack) : State := { s with hbm := { s.hbm with stk := Tab.set s.hbm.stk n x } }
/-- Channel of the module that serves a device address: stack × 32 + channel. -/
def chanOf (s : State) (a : Nat) : Nat := (hbmMap s a).1 * 32 + (hbmMap s a).2.1

/-- The partition that owns the region of a device address (R612). -/
def regionOwner (s : State) (a : Nat) : Option Nat :=
  let r := getRegion s (a / gib)
  if r.st = .assigned then some r.part.toNat else none

/-- The stack serves no request: it is in self-refresh, not trained, or due for recommission (R416 to R418). -/
def stackWaits (s : State) (st : Nat) : Bool :=
  let k := getStack s st
  k.selfRefresh || !k.trained || k.epoch != k.expected

/-- The AON cycle lies between two steps of the channel's retraining: a step takes 19 cycles, 380 ns, and in the next cycle the channel serves
what waits (R523; assumption 156). -/
def betweenSteps (s : State) (c : Chan) : Bool := (s.aon - c.since) % 20 == 19

/-- The channel serves no request: a step of its retraining is under way, or its stack serves none (R415 to R418, R523). -/
def chanWaits (s : State) (a : Nat) : Bool :=
  let c := getChan s (chanOf s a)
  (c.retraining && !betweenSteps s c) || stackWaits s (hbmMap s a).1

/-- A channel that serves the range has property `p`; each 4 KiB unit lies in one channel (R408). -/
def rangeAny (p : Nat → Bool) (a n : Nat) : Bool :=
  n != 0 && spaceOf a n == .hbm && (List.range ((a % 4096 + n + 4095) / 4096)).any fun i => p ((a / 4096 + i) * 4096)

/-- The range waits for a channel. -/
def rangeWaits (s : State) (a n : Nat) : Bool := rangeAny (chanWaits s) a n
/-- A part of the range lies in a failed channel, which answers nothing (R414, R616). -/
def rangeFailed (s : State) (a n : Nat) : Bool := rangeAny (fun x => (getChan s (chanOf s x)).failed) a n

/-! ### The storage of a band (R407, R408) -/

/-- The device address that band `b` in mode `m` gives to a place of its storage: the inverse of `hbmMap`. -/
def hbmUnmap (m : Bool) (b : Nat) (p : Nat × Nat × Nat) : Nat :=
  let o := p.2.2 - b * 0x2000000
  let row := o / 4096
  if m then (8 * b + p.1) * gib + (row * 32 + (p.2.1 ^^^ row ^^^ (row >>> 5) ^^^ (row >>> 10)) % 32) * 4096 + o % 4096
  else b * 2 ^ 33 + (row * 256 + ((p.1 * 32 + p.2.1) ^^^ row ^^^ (row >>> 8)) % 256) * 4096 + o % 4096

/-- The bytes of band `b` as its addresses in mode `m` find them. -/
def rebandBytes (s : State) (m : Bool) (b : Nat) : List Host.Cell :=
  if bandMode s b = m then s.hbm.bytes
  else (s.hbm.bytes.filter fun c => c.1 / 2 ^ 33 == b).foldl (fun l c => memWriteN 0 l (hbmUnmap m b (hbmMap s c.1)) [c.2])
    (memClear s.hbm.bytes (b * 2 ^ 33) ((b + 1) * 2 ^ 33))

/-! ### Error correction (R411 to R413) -/

/-- Key of the row that holds an address: its channel, and its row and bank within the channel, 18 and 6 bits (R413, R532). -/
def rowKeyOf (s : State) (a : Nat) : Nat := chanOf s a + 256 * (Config.hbmRow (hbmMap s a).2.2 % 2 ^ 24)

/-- An entry of the row-repair list: its row's key; none where VALID is 0 (R532). -/
def repairEntry (w : W64) : Option Nat :=
  if w.getLsbD 63 then some (bf w.toNat 48 3 * 32 + bf w.toNat 40 5 + 256 * (bf w.toNat 0 18 + bf w.toNat 32 6 * 2 ^ 18)) else none
def repairWord (k : Nat) : W64 :=
  BitVec.ofNat 64 (2 ^ 63 + k % 256 / 32 * 2 ^ 48 + k % 32 * 2 ^ 40 + k / 256 / 2 ^ 18 % 64 * 2 ^ 32 + k / 256 % 2 ^ 18)

/-- A row enters the repair list, which holds 8,184 entries (R413, R532; what finds the list full is dropped, assumption 143). -/
def repairAdd (s : State) (row : Nat) : State :=
  let l := repairList s
  if l.contains (repairWord row) || decide (l.length ≥ 8184) then s
  else setFlash (traceAll s [(1, 23), (0, 4)]) { s.fwc.flash with repair := itemWrite s.fwc.flash.repair (l ++ [repairWord row]) }

def getEcc (s : State) (st : Nat) : HbmEcc := Tab.get {} s.hbm.ecc st
def setEcc (s : State) (st : Nat) (x : HbmEcc) : State := { s with hbm := { s.hbm with ecc := Tab.set s.hbm.ecc st x } }

/-- One finding of the controller's ECC (R411). -/
def hbmHit (s : State) (h : Nat × Ecc) : State :=
  let st := (hbmMap s h.1).1
  let e := getEcc s st
  let row := rowKeyOf s h.1
  match h.2 with
  | .corrected =>
    let n := Tab.get 0 s.hbm.rowCe row + 1
    let s1 := setEcc s st { e with ce := satAdd e.ce 1 }
    let s2 := { s1 with hbm := { s1.hbm with rowCe := Tab.set s1.hbm.rowCe row n } }
    if n ≥ 16 then repairAdd s2 row else s2
  | .uncorrectable =>
    let s1 := setEcc s st { e with ue := satAdd e.ue 1, ueAddr := BitVec.ofNat 40 (h.1 / 8) }
    raise (repairAdd s1 row) 0x0603 2 (regionOwner s h.1) ukChannel (chanOf s h.1) (h.1 / 8 * 8) 0
  | .bitCopy _ => s

/-- Findings that an access of `len` bytes from `a` meets: every word it reads; of a write, the words it writes in part (R412). -/
def accessHits (a len : Nat) (wr : Bool) (hits : EccHits) : EccHits :=
  hits.filter fun h =>
    let w := h.1 / 8 * 8
    decide (w < a + len) && decide (a < w + 8) && decide (a + len ≤ hbmEnd)
      && (!wr || decide (w < a) || decide (a + len < w + 8))

def hbmEcc (s : State) (hits : EccHits) : State := hits.foldl hbmHit s

/-- An access of `n` bytes reads words with an error that cannot be corrected, or a channel that does not answer. -/
def accessBad (s : State) (a n : Nat) (wr : Bool) (hits : EccHits) : Bool := hitsBad (accessHits a n wr hits) || rangeFailed s a n

/-- Firmware's access to a range: what the check of the words finds is a free value of its own (assumption 136). -/
def touch (s : State) (a n : Nat) (wr : Bool) : State :=
  if n = 0 ∨ spaceOf a n ≠ .hbm then s
  else
    let d := drawFree s
    let words := (List.range ((a % 8 + n + 7) / 8)).map fun i => (a / 8 + i) * 8
    hbmEcc d.2 (accessHits a n wr (words.filterMap fun w => (Config.hbmFinding d.1 w).map fun e => (w, e)))

/-- A request to HBM waits while its channel does (R415); otherwise it is performed. -/
def whenServed (s : State) (a n : Nat) (r : HbmReq) (k : State) : State :=
  if rangeWaits s a n then { s with hbm := { s.hbm with waiting := s.hbm.waiting ++ [r] } } else k

/-- A read of BAR2 returns the bytes, once the channel serves it (R415, R476). -/
def bar2Read (s : State) (a n : Nat) (ecc : EccHits) : State :=
  whenServed s a n (.bar2Read a n ecc) <|
    if rangeFailed s a n then s
    else
      let s1 := hbmEcc s (accessHits a n false ecc)
      { s1 with hif := { s1.hif with bar2Back := (List.range n).map fun i => hbmByte s (a + i) } }

/-- A channel performs a read, or a write of `data`, or keeps the request waiting (R411, R412, R415). A failed channel performs nothing
(R616). -/
def hbmAccess (s : State) (a : Nat) (data : Option (List Byte)) (len : Nat) (ecc : EccHits) : State :=
  let n := match data with | some d => d.length | none => len
  whenServed s a n (.access a data len ecc) <|
    if rangeFailed s a n then s
    else
      let s1 := hbmEcc s (accessHits a n data.isSome ecc)
      match data with
      | some d => hbmWrite s1 a d
      | none => s1

/-- HBM_ACCESS (R411, R415). -/
def execHbmAccess (a : DevAddr) (data : Option (List Byte)) (len : Nat) (ecc : EccHits) (s : State) : Out :=
  let n := match data with | some d => d.length | none => len
  if a + n > hbmEnd then .fault (.noSuchAddress a) else .next (hbmAccess s a data len ecc)

/-! ### Refresh and retraining (R405, R415, R523) -/

/-- Run `k` on a channel that the module has. -/
def onChan (st ch : Nat) (k : Out) : Out := if st < 8 ∧ ch < 32 then k else .refused .noSuchUnit

/-- Bank of a device address in its channel: BANK of its place, whose ROW has 18 bits (R413, R532). -/
def hbmBank (s : State) (a : Nat) : Nat := Config.hbmRow (hbmMap s a).2.2 / 2 ^ 18

/-- A C0 access waits for the bank: a burst under way or a received frame (R523). -/
def c0AtBank (s : State) (ch bank : Nat) : Bool :=
  let at_ (a : Nat) : Bool := decide (a < hbmEnd) && chanOf s a == ch && hbmBank s a == bank
  let far (l : Loc) : Bool := match l with | .device a => at_ a | _ => false
  let hit (b : Burst) : Bool := b.issued && !b.done && (far b.dst || b.src.any far)
  (s.cores.any fun x => x.2.runs.any fun r => bf r.desc.toNat 8 2 == 0 && r.bursts.any hit)
    || s.hbm.waiting.any fun q => match q with
      | .frame f _ _ _ => f.cls == 0 && at_ f.addr
      | _ => false

/-- HBM_REFRESH: a bank is refreshed, and the stack reports `scrubbed` errors that its on-die error check and scrub has corrected since
its latest report, all that the controller counts of on-die ECC (R405; assumption 137). -/
def execHbmRefresh (st ch bank scrubbed : Nat) (s : State) : Out :=
  onChan st ch <|
    let c := getChan s (st * 32 + ch)
    if c.retraining ∨ c.failed ∨ (getStack s st).selfRefresh ∨ c0AtBank s (st * 32 + ch) bank then .next s
    else
      let e := getEcc s st
      .next (setEcc (setChan s (st * 32 + ch) { c with refreshes := c.refreshes + 1, lastBank := bank }) st { e with odecc := satAdd e.odecc scrubbed })

/-- INTERVAL of HBM_TRAIN_CFG in milliseconds, kept within 10 to 1,000. -/
def trainInterval (s : State) : Nat := max 10 (min 1000 s.hbm.interval.toNat)

/-- A channel of the stack is being retrained. -/
def stackRetrains (s : State) (st : Nat) : Bool := (List.range 32).any fun ch => (getChan s (st * 32 + ch)).retraining

def execHbmRetrain (st ch : Nat) (s : State) : Out :=
  onChan st ch <|
    let c := getChan s (st * 32 + ch)
    if c.failed ∨ !(getStack s st).trained ∨ stackRetrains s st ∨ s.aon < c.last + trainInterval s * msAon then .next s
    else .next (setChan (trace s 1 22) (st * 32 + ch) { c with retraining := true, since := s.aon, last := s.aon })

/-! ### Bands and regions (R407, R409, R414, R420) -/

/-- Stacks that hold region `r` in a mode of its band (R407). -/
def stacksIn (m : Bool) (r : Nat) : List Nat := if m then [r % 8] else List.range 8
def regionStacks (s : State) (r : Nat) : List Nat := stacksIn (bandMode s (r / 8)) r

/-- The storage of region `r` in mode `m` includes a failed channel (R414). -/
def failedIn (s : State) (m : Bool) (r : Nat) : Bool :=
  (stacksIn m r).any fun k => (List.range 32).any fun ch => (getChan s (k * 32 + ch)).failed
def regionFailed (s : State) (r : Nat) : Bool := failedIn s (bandMode s (r / 8)) r

/-- A region of no partition is WITHDRAWN while its storage includes a failed channel, and QUARANTINED once that is over (R409, R414). -/
def rederive (s : State) (r : Nat) : State :=
  let x := getRegion s r
  if x.st = .assigned then s
  else if regionFailed s r then (if x.st = .withdrawn then s else setRegion s r { st := .withdrawn })
  else if x.st = .withdrawn then setRegion s r { st := .quarantined } else s

/-- Band `b` takes a mode: its storage, and with it the bytes, go to the addresses of that mode, and its regions are WITHDRAWN or not by it
(R407, R409, R414). -/
def setBand (s : State) (mode : Bool) (b : Nat) : State :=
  let bit : BitVec 96 := BitVec.ofNat 96 (2 ^ b)
  let s1 := { s with hbm := { s.hbm with
    bytes := rebandBytes s mode b
    bandmap := if mode then s.hbm.bandmap ||| bit else s.hbm.bandmap &&& ~~~bit } }
  ((List.range 8).map (8 * b + ·)).foldl rederive s1

def execBandmapWrite (band : Nat) (mode : Bool) (s : State) : Out :=
  if band ≥ 96 then .refused .noSuchUnit
  else if (List.range 8).any fun k => let r := (getRegion s (8 * band + k)).st; r == .assigned || r == .scrubbing then
    .next { s with hbm := { s.hbm with bandmapBusy := satAdd s.hbm.bandmapBusy 1 } }
  else
    .next (setBand s mode band)

/-- A partition releases a region: QUARANTINED, or WITHDRAWN where its storage includes a failed channel (R409, R414). -/
def releaseRegion (s : State) (r : Nat) : State :=
  let x := getRegion s r
  setRegion (trace s 0 12) r { x with st := if regionFailed s r then .withdrawn else .quarantined, part := 0, recorded := [] }

/-- The security core starts the scrub of a quarantined region (R420). -/
def scrubBegin (s : State) (r : Nat) : State :=
  let x := getRegion s r
  if x.st = .quarantined then setRegion (trace s 0 12) r { x with st := .scrubbing, since := s.aon } else s

/-- SCRUB_START: until stage 4 of the start-up no region is scrubbed on its own (R410, R420). -/
def execScrubStart (r : Nat) (s : State) : Out :=
  if r ≥ 768 then .refused .noSuchUnit else .next (if s.fwc.stage < 5 then s else scrubBegin s r)

/-- Every channel range has been zero-filled: the region is FREE and reads zero (R409, R419, R420). -/
def scrubEnd (s : State) (r : Nat) : State :=
  let x := getRegion s r
  if x.st = .scrubbing then
    let s1 := setRegion (trace s 0 12) r { x with st := .free, part := 0 }
    { s1 with hbm := { s1.hbm with bytes := memClear s1.hbm.bytes (r * gib) ((r + 1) * gib) } }
  else s

/-- SCRUB_COMPLETE: the zero-fill writes of a channel that serves nothing wait (R415, R420). -/
def execScrubComplete (r : Nat) (s : State) : Out :=
  if r ≥ 768 then .refused .noSuchUnit
  else if (regionStacks s r).any fun k => stackWaits s k || stackRetrains s k then .next s
  else .next (scrubEnd s r)

/-- SCRUB_INTERRUPT: a scrubbing region of which `p` holds is QUARANTINED again (R420). -/
def interruptScrubs (s : State) (p : Nat → Bool) : State :=
  { s with hbm := { s.hbm with regions := s.hbm.regions.map fun x =>
      if x.2.st = .scrubbing ∧ p x.1 then (x.1, { x.2 with st := .quarantined }) else x } }

end Sys2Proof.Machine
end

