-- ==== Sys2Proof/Machine/Frames.lean ====
section
/-! DEFINITION. Machine/Frames.lean: fabric frames (R429, R436): building, routing and queueing them, and the answers to the
requests of this module. -/

namespace Sys2Proof.Machine

open Sys2Proof

/-! ### Access -/

def getPort (s : State) (p : Nat) : Port := Tab.get {} s.fab.ports p
def setPort (s : State) (p : Nat) (x : Port) : State := { s with fab := { s.fab with ports := Tab.set s.fab.ports p x } }
def setTree (s : State) (n : Nat) (x : Tree) : State := { s with fab := { s.fab with trees := Tab.set s.fab.trees n x } }
/-- Run `k` on a port that the module has. -/
def onPort (p : Nat) (k : Out) : Out := if p < 16 then k else .refused .noSuchUnit

/-- The port moves data frames (R423). -/
def portOpen (p : Port) : Bool := p.st == .up || p.st == .degraded

/-! ### Frame types (R436) -/

def ftWrite : Nat := 1
def ftWack : Nat := 2
def ftRead : Nat := 3
def ftRdata : Nat := 4
def ftNresp : Nat := 5
def ftTreeData : Nat := 6
def ftTreeCtl : Nat := 7
def ftEpochCtl : Nat := 8
def ftGroupCtl : Nat := 9

/-- Bytes of a frame on the link (R429). -/
def frameLen (f : Frame) : Nat := 64 + (if f.flags.td then 64 else 0) + ceilDiv f.payload.length 32 * 32
/-- Credits that a frame takes (R434). -/
def frameCredits (f : Frame) : Nat := ceilDiv (frameLen f) 64

/-- One byte into a CRC-32C, reflected, polynomial 0x82F63B78. -/
def crcByte (c : BitVec 32) (b : Byte) : BitVec 32 :=
  (List.range 8).foldl (fun c _ => if c.getLsbD 0 then (c >>> 1) ^^^ 0x82F63B78#32 else c >>> 1) (c ^^^ b.setWidth 32)

def crc32c (bs : List Byte) : Nat := (~~~ (bs.foldl crcByte 0xFFFFFFFF#32)).toNat

/-- FLAGS of a frame header (R429). -/
def flagsByte (g : FrameFlags) : Nat := g.td.toNat + 2 * g.last.toNat + 4 * g.mcast.toNat + 8 * g.resent.toNat

/-- The 32-byte header of a frame, with its LSEQ given apart: an LCTL frame sets bit 47 of it (R429, R433). -/
def frameHeader (f : Frame) (lseq : Nat) : List Byte :=
  leBytes 1 f.type.toNat ++ leBytes 1 (flagsByte f.flags) ++ leBytes 1 (f.cls * 64 + f.hops % 64)
    ++ leBytes 1 (f.srcPart % 16 + f.dstPart % 16 * 16) ++ leBytes 2 f.srcModule ++ leBytes 2 f.dstModule
    ++ leBytes 8 (f.addr % 2 ^ 52 + f.readLen % 1024 * 2 ^ 52) ++ leBytes 6 lseq ++ leBytes 2 f.payload.length
    ++ leBytes 4 f.epoch ++ leBytes 4 f.xtag

/-- The TD and the payload, padded to a multiple of 32 bytes: the plaintext of a frame (R429, R430). -/
def framePlain (f : Frame) : List Byte :=
  f.td ++ f.payload ++ List.replicate (ceilDiv f.payload.length 32 * 32 - f.payload.length) 0

/-- The trailer behind the bytes `b`, which end with the tag: their CRC-32C, STOMP and zeros (R429). -/
def frameTrailer (b : List Byte) (stomp : Bool) : List Byte :=
  b ++ leBytes 4 (crc32c b) ++ [if stomp then 0xE7 else 0] ++ List.replicate 11 0

/-- The bytes of a frame on the link: AES-256-GCM under the key and salt `k`, the nonce LSEQ followed by the salt, the header authenticated, the
TD and the padded payload encrypted, and the trailer (R429, R430). -/
def frameBytes (k : List Byte) (f : Frame) (lseq : Nat) : List Byte :=
  let h := frameHeader f lseq
  frameTrailer (h ++ Config.gcmSeal (k.take 32) (leBytes 6 lseq ++ (k.drop 32).take 6) h (framePlain f)) f.stomp

/-- Epoch state of a partition (R458). -/
def epochOf (s : State) (p : Nat) : EpochSt := Tab.get .none s.fab.epochs p
/-- EPOCH of a frame that partition `p` sends to `module` (R458). -/
def epochFor (s : State) (p module : Nat) : Nat :=
  match epochOf s p with
  | .opened e ms => if ms.contains module then e else 0
  | _ => 0

def noFlags : FrameFlags := { td := false, last := false, mcast := false, resent := false }

/-- A frame of this module (R429, R439). -/
def mkFrame (s : State) (ty cls srcPart dstPart module addr xtag : Nat) (payload : List Byte) : Frame :=
  { type := BitVec.ofNat 8 ty, flags := noFlags, cls := cls, hops := 63, srcPart := srcPart, dstPart := dstPart
    srcModule := ownModule s, dstModule := module, addr := addr, readLen := 0, lseq := 0, epoch := epochFor s srcPart module
    xtag := xtag, td := [], payload := payload }

/-- The partition of `module` that partition `p` reaches: the one its own peer list names, else the same number (assumption 14). -/
def peerPart (s : State) (p module : Nat) : Nat :=
  match (getPart s p).peers.find? fun (x : Nat × Nat) => x.1 == module with
  | some x => x.2
  | none => p

/-! ### Routing (R437, R438) -/

/-- The port by which a frame leaves; the entry of the module's own id is ignored (R437). -/
def routePort (s : State) (f : Frame) : Option Nat :=
  let e := (Tab.get 0#16 s.fab.route f.dstModule).toNat
  if !e.testBit 15 || f.dstModule == ownModule s then none
  else
    let kd := bf e 12 3
    if 1 ≤ kd ∧ kd ≤ 4 then some (kd - 1)
    else if kd = 5 then
      let ps := (List.range 12).filter fun k => e.testBit k
      if ps.isEmpty then none
      else some (4 + ps.getD (Config.sprayHash f.srcModule f.srcPart f.dstModule f.cls % ps.length) 0)
    else none

/-- Put a frame into the egress queue of its class. -/
def queueFrame (s : State) (p : Nat) (f : Frame) : State :=
  let x := getPort s p
  setPort s p { x with queues := Tab.set x.queues f.cls (Tab.get [] x.queues f.cls ++ [f])
                       stamps := Tab.set x.stamps f.cls (Tab.get [] x.stamps f.cls ++ [s.xclk]) }

def countUnroutable (s : State) : State := { s with fab := { s.fab with unroutable := satAdd s.fab.unroutable 1 } }

/-! ### Answers to requests (R436, R442) -/

/-- Status of NRESP cause `n` (R442). -/
def nrespStatus (n : Nat) : Nat := if n = 1 then stUncorr else if n = 2 ∨ n = 3 then stRegion else stCancelled

/-- The answer of a burst has come, also for a read of a stopped descriptor (R353): its status, and the data of a READ. -/
def answerBurst (k : Core) (ctx seq idx st : Nat) (data : Option (List Byte)) : Core :=
  let take (b : Burst) : Burst := if b.idx = idx ∧ b.issued ∧ !b.done then { b with answer := some st, data := data.getD b.data } else b
  { k with runs := k.runs.map fun r => if r.ctx = ctx ∧ r.seq = seq then { r with bursts := r.bursts.map take } else r
           dma := { k.dma with late := k.dma.late.map fun l => if l.ctx = ctx ∧ l.seq = seq then { l with burst := take l.burst } else l } }

/-- The outstanding request of an answer with tag `x` from `module`: the oldest one, taken off the list. -/
def takeTxn (x module : Nat) : List Txn → Option (Txn × List Txn)
  | [] => none
  | t :: ts => if t.xtag = x ∧ t.module = module then some (t, ts) else (takeTxn x module ts).map fun r => (r.1, t :: r.2)

/-- A response arrives: it answers its request, or counts in DUP_RESP (R436). -/
def answerTxn (s : State) (x module st : Nat) (data : Option (List Byte)) : State :=
  match takeTxn x module s.fab.txns with
  | none => { s with fab := { s.fab with dupResp := satAdd s.fab.dupResp 1 } }
  | some (t, rest) =>
    let s1 := { s with fab := { s.fab with txns := rest } }
    match t.client with
    | .burst c n q i => setCore s1 c (answerBurst (getCore s1 c) n q i st data)
    | _ => s1

/-- A frame goes to this module itself. -/
def loopFrame (s : State) (f : Frame) : State := { s with fab := { s.fab with loop := s.fab.loop ++ [f] } }

/-- A frame of this module: one to its own MODULE_ID is delivered locally, any other goes by the route table; one without a route counts in
UNROUTABLE and is answered UNREACHABLE (R437, R439). -/
def sendFrame (s : State) (f : Frame) : State :=
  if !f.flags.mcast && f.dstModule == ownModule s then loopFrame s f
  else match routePort s f with
  | some p => queueFrame s p f
  | none =>
    let r := mkFrame s ftNresp f.cls f.dstPart f.srcPart (ownModule s) 0 f.xtag [1]
    loopFrame (countUnroutable s) { r with epoch := 0 }

/-- Send a request of this module: its transaction is outstanding until the answer. -/
def sendRequest (s : State) (f : Frame) (c : Client) : State :=
  let t : Txn := { xtag := f.xtag, module := f.dstModule, srcPart := f.srcPart, client := c, since := s.aon }
  sendFrame { s with fab := { s.fab with txns := s.fab.txns ++ [t] } } f

/-- The next transaction tag, and the state after it is taken: tags below 4096 are tree ids (assumption 152). -/
def newXtag (s : State) : Nat × State :=
  (s.fab.nextXtag, { s with fab := { s.fab with nextXtag := if s.fab.nextXtag + 1 < 2 ^ 32 then s.fab.nextXtag + 1 else 4096 } })

/-- The response of type `ty` to a received frame: it takes the request's class and tag (R436). -/
def respond (s : State) (f : Frame) (ty : Nat) (payload : List Byte) : State :=
  sendFrame s (mkFrame s ty f.cls f.dstPart f.srcPart f.srcModule 0 f.xtag payload)

def nresp (s : State) (f : Frame) (cause : Nat) : State := respond s f ftNresp [BitVec.ofNat 8 cause]

/-! ### Trees at the root (R452, R453, R455, R457) -/

/-- Every port of OUT_PORTS but `except`. -/
def treeOut (t : Tree) (except : Option Nat) : List Nat :=
  (List.range 16).filter fun p => (treePorts t).testBit p && except != some p

/-- The frame of a TREE_DATA frame that the root has cut. -/
def treeFrame (s : State) (t : Tree) (x : TreeFrame) (mcast : Bool) (module : Nat) (part : Nat) : Frame :=
  { type := BitVec.ofNat 8 ftTreeData, flags := { td := x.td, last := x.last, mcast := mcast, resent := false }, cls := treeClass t
    hops := 63, srcPart := treePart t, dstPart := part, srcModule := ownModule s, dstModule := if mcast then treeId t else module
    addr := x.off, readLen := 0, lseq := 0, epoch := x.tseq % 2 ^ 32, xtag := treeId t, td := x.head, payload := x.data }

/-- The root may send frame `q`: `q - SLACK` is at most every attached receiver's MACK (R455). -/
def rootMay (t : Tree) (q : Nat) : Bool := t.attached.all fun a => decide (q ≤ a.mack + treeSlack t)

/-- Frames kept in the retained window: those whose bytes have not been overwritten (R452, R456). -/
def keepWindow (t : Tree) (l : List TreeFrame) : List TreeFrame :=
  l.filter fun x => decide (t.off ≤ x.off + 0x4000000)

/-- The root sends the frames that its slack allows on every port of OUT_PORTS, oldest first; held, its DETACH_WAIT runs. -/
def pumpTree : Nat → State → Nat → State
  | 0, s, _ => s
  | fuel + 1, s, n =>
    let t := getTree s n
    match t.waiting with
    | [] => setTree s n { t with heldSince := none }
    | x :: rest =>
      if rootMay t x.tseq then
        let s1 := setTree s n { t with waiting := rest, sent := keepWindow t (t.sent ++ [x]), tseq := x.tseq + 1, heldSince := none }
        pumpTree fuel ((treeOut t none).foldl (fun s p => queueFrame s p (treeFrame s t x true 0 (treePart t))) s1) n
      else setTree s n { t with heldSince := match t.heldSince with | some a => some a | none => some s.aon }

def pumpTreeAll (s : State) (n : Nat) : State := pumpTree ((getTree s n).waiting.length + 1) s n

/-- Firmware's access to `n` bytes of a buffer of `len` bytes at `base`, from the stream offset `off` modulo its length. -/
def touchRing (s : State) (base len off n : Nat) (wr : Bool) : State :=
  let first := min n (len - off % len)
  touch (touch s (base + off % len) first wr) base (n - first) wr

/-- Copy bytes into the retained window at the stream offset, modulo its 64 MiB; the write waits while its channel does (R415, R452). -/
def retain (s : State) (base off : Nat) (bs : List Byte) : State :=
  let first := min bs.length (0x4000000 - off % 0x4000000)
  let put (s : State) (a : Nat) (d : List Byte) : State :=
    if d.isEmpty then s
    else whenServed s a d.length (.access a (some d) 0 []) (devWrite (touch s a d.length true) a d)
  put (put s (base + off % 0x4000000) (bs.take first)) base (bs.drop first)

/-- The root cuts a frame: next TSEQ and stream offset, kept in the window, sent as soon as the slack allows (R452). -/
def cutFrame (s : State) (n : Nat) (td last : Bool) (head data : List Byte) : Nat × State :=
  let t := getTree s n
  let x : TreeFrame := { tseq := t.cut, off := t.off, td := td, last := last, head := head, data := data }
  let s1 := retain s (treeBase t) t.off (head ++ data)
  let t1 := { t with cut := t.cut + 1, off := t.off + head.length + data.length, waiting := t.waiting ++ [x], st := 1 }
  (t.cut, pumpTreeAll (setTree s1 n t1) n)

/-- Frame `q` has been sent and acknowledged by every receiver that was attached when it was sent and still is (R457). -/
def treeAcked (t : Tree) (q : Nat) : Bool :=
  decide (q < t.tseq) && t.attached.all fun a => decide (q < a.from_) || decide (q ≤ a.mack)

end Sys2Proof.Machine
end

