-- ==== Sys2Proof/Machine/Rv64.lean ====
section
/-! DEFINITION. Machine/Rv64.lean: the scalar core's RV64IMAFDC with Zicsr and Zicntr (R79, R115, R120): expansion of
compressed instructions, what kind of instruction a word is, and the effect of the instructions that touch no memory. -/

namespace Sys2Proof.Machine

open Sys2Proof

/-! ### Fields of a 32-bit instruction -/

def fOp (w : Nat) : Nat := bf w 0 7
def fRd (w : Nat) : Nat := bf w 7 5
def fF3 (w : Nat) : Nat := bf w 12 3
def fRs1 (w : Nat) : Nat := bf w 15 5
def fRs2 (w : Nat) : Nat := bf w 20 5
def fRs3 (w : Nat) : Nat := bf w 27 5
def fF7 (w : Nat) : Nat := bf w 25 7

/-- Sign-extend `n` bits to 64. -/
def sext64 (n v : Nat) : W64 := BitVec.ofInt 64 (intOf n v)
def immI (w : Nat) : W64 := sext64 12 (bf w 20 12)
def immS (w : Nat) : W64 := sext64 12 (bf w 7 5 + bf w 25 7 * 32)
def immB (w : Nat) : W64 := sext64 13 (bf w 8 4 * 2 + bf w 25 6 * 32 + bf w 7 1 * 2048 + bf w 31 1 * 4096)
def immU (w : Nat) : W64 := sext64 32 (bf w 12 20 * 4096)
def immJ (w : Nat) : W64 := sext64 21 (bf w 21 10 * 2 + bf w 20 1 * 2048 + bf w 12 8 * 4096 + bf w 31 1 * 2 ^ 20)

/-! ### Compressed instructions -/

def mkR (f7 rs2 rs1 f3 rd op : Nat) : Nat :=
  f7 * 2 ^ 25 + rs2 * 2 ^ 20 + rs1 * 2 ^ 15 + f3 * 2 ^ 12 + rd * 2 ^ 7 + op
def mkI (imm rs1 f3 rd op : Nat) : Nat := imm % 4096 * 2 ^ 20 + rs1 * 2 ^ 15 + f3 * 2 ^ 12 + rd * 2 ^ 7 + op
def mkS (imm rs2 rs1 f3 op : Nat) : Nat :=
  bf imm 5 7 * 2 ^ 25 + rs2 * 2 ^ 20 + rs1 * 2 ^ 15 + f3 * 2 ^ 12 + bf imm 0 5 * 2 ^ 7 + op
def mkB (imm rs2 rs1 f3 : Nat) : Nat :=
  bf imm 12 1 * 2 ^ 31 + bf imm 5 6 * 2 ^ 25 + rs2 * 2 ^ 20 + rs1 * 2 ^ 15 + f3 * 2 ^ 12 + bf imm 1 4 * 2 ^ 8
    + bf imm 11 1 * 2 ^ 7 + 0x63
def mkJ (imm rd : Nat) : Nat :=
  bf imm 20 1 * 2 ^ 31 + bf imm 1 10 * 2 ^ 21 + bf imm 11 1 * 2 ^ 20 + bf imm 12 8 * 2 ^ 12 + rd * 2 ^ 7 + 0x6F

/-- Sign-extend `n` bits to `m` bits. -/
def sextN (n m v : Nat) : Nat := intBits m (intOf n v)

/-- The 32-bit instruction that a 16-bit one stands for; none where the C extension reserves the encoding. -/
def expandC (h : Nat) : Option Nat :=
  let rdp := 8 + bf h 2 3
  let rs1p := 8 + bf h 7 3
  let rd := bf h 7 5
  let rs2 := bf h 2 5
  let imm6 := sextN 6 12 (bf h 2 5 + bf h 12 1 * 32)
  let shamt := bf h 2 5 + bf h 12 1 * 32
  let uD := bf h 10 3 * 8 + bf h 5 2 * 64
  let uW := bf h 10 3 * 8 + bf h 6 1 * 4 + bf h 5 1 * 64
  let bImm := sextN 9 13 (bf h 3 2 * 2 + bf h 10 2 * 8 + bf h 2 1 * 32 + bf h 5 2 * 64 + bf h 12 1 * 256)
  match bf h 0 2, bf h 13 3 with
  | 0, 0 =>
    let u := bf h 11 2 * 16 + bf h 7 4 * 64 + bf h 6 1 * 4 + bf h 5 1 * 8
    if u = 0 then none else some (mkI u 2 0 rdp 0x13)
  | 0, 1 => some (mkI uD rs1p 3 rdp 0x07)
  | 0, 2 => some (mkI uW rs1p 2 rdp 0x03)
  | 0, 3 => some (mkI uD rs1p 3 rdp 0x03)
  | 0, 5 => some (mkS uD rdp rs1p 3 0x27)
  | 0, 6 => some (mkS uW rdp rs1p 2 0x23)
  | 0, 7 => some (mkS uD rdp rs1p 3 0x23)
  | 1, 0 => some (mkI imm6 rd 0 rd 0x13)
  | 1, 1 => if rd = 0 then none else some (mkI imm6 rd 0 rd 0x1B)
  | 1, 2 => some (mkI imm6 0 0 rd 0x13)
  | 1, 3 =>
    if rd = 2 then
      let u := sextN 10 12 (bf h 6 1 * 16 + bf h 5 1 * 64 + bf h 3 2 * 128 + bf h 2 1 * 32 + bf h 12 1 * 512)
      if u = 0 then none else some (mkI u 2 0 2 0x13)
    else if shamt = 0 then none
    else some (sextN 6 20 shamt * 2 ^ 12 + rd * 2 ^ 7 + 0x37)
  | 1, 4 =>
    match bf h 10 2 with
    | 0 => some (mkI shamt rs1p 5 rs1p 0x13)
    | 1 => some (mkI (shamt + 0x400) rs1p 5 rs1p 0x13)
    | 2 => some (mkI imm6 rs1p 7 rs1p 0x13)
    | _ =>
      match bf h 12 1, bf h 5 2 with
      | 0, 0 => some (mkR 0x20 rdp rs1p 0 rs1p 0x33)
      | 0, 1 => some (mkR 0 rdp rs1p 4 rs1p 0x33)
      | 0, 2 => some (mkR 0 rdp rs1p 6 rs1p 0x33)
      | 0, 3 => some (mkR 0 rdp rs1p 7 rs1p 0x33)
      | 1, 0 => some (mkR 0x20 rdp rs1p 0 rs1p 0x3B)
      | 1, 1 => some (mkR 0 rdp rs1p 0 rs1p 0x3B)
      | _, _ => none
  | 1, 5 =>
    let j := sextN 12 21 (bf h 3 3 * 2 + bf h 11 1 * 16 + bf h 2 1 * 32 + bf h 7 1 * 64 + bf h 6 1 * 128
      + bf h 9 2 * 256 + bf h 8 1 * 1024 + bf h 12 1 * 2048)
    some (mkJ j 0)
  | 1, 6 => some (mkB bImm 0 rs1p 0)
  | 1, 7 => some (mkB bImm 0 rs1p 1)
  | 2, 0 => some (mkI shamt rd 1 rd 0x13)
  | 2, 1 => some (mkI (bf h 5 2 * 8 + bf h 12 1 * 32 + bf h 2 3 * 64) 2 3 rd 0x07)
  | 2, 2 => if rd = 0 then none else some (mkI (bf h 4 3 * 4 + bf h 12 1 * 32 + bf h 2 2 * 64) 2 2 rd 0x03)
  | 2, 3 => if rd = 0 then none else some (mkI (bf h 5 2 * 8 + bf h 12 1 * 32 + bf h 2 3 * 64) 2 3 rd 0x03)
  | 2, 4 =>
    if bf h 12 1 = 0 then
      if rs2 = 0 then (if rd = 0 then none else some (mkI 0 rd 0 0 0x67)) else some (mkR 0 rs2 0 0 rd 0x33)
    else if rs2 = 0 then (if rd = 0 then some 0x00100073 else some (mkI 0 rd 0 1 0x67))
    else some (mkR 0 rs2 rd 0 rd 0x33)
  | 2, 5 => some (mkS (bf h 10 3 * 8 + bf h 7 3 * 64) rs2 2 3 0x27)
  | 2, 6 => some (mkS (bf h 9 4 * 4 + bf h 7 2 * 64) rs2 2 2 0x23)
  | 2, 7 => some (mkS (bf h 10 3 * 8 + bf h 7 3 * 64) rs2 2 3 0x23)
  | _, _ => none

/-! ### Fetch (R116) -/

/-- What a fetch finds: the 32-bit form and the length, nothing legal, or no instruction memory. -/
inductive Fetched where
  | instr (w len : Nat)
  | illegal
  | outside
deriving DecidableEq, Repr

def imemSize : Nat := 65536

def imem16 (k : Core) (a : Nat) : Nat := leNum (memReadN 0 k.imem a 2)

def fetchAt (k : Core) (pc : Nat) : Fetched :=
  if pc + 2 > imemSize then .outside
  else
    let h := imem16 k pc
    if h % 4 = 3 then
      if pc + 4 > imemSize then .outside else .instr (h + imem16 k (pc + 2) * 65536) 4
    else match expandC h with
      | some w => .instr w 2
      | none => .illegal

/-! ### Kinds of instructions -/

inductive IKind where
  | pure | load | store | atomic | fence | ecall | ebreak
  | kpush | kwait | ktest | kdrain | krecv | kclaim | kring | illegal
deriving DecidableEq, Repr

/-- Memory instruction kinds enter the narrow queue (R157). -/
def isMemKind : IKind → Bool
  | .load | .store | .atomic => true
  | _ => false

/-- Legal funct5 of an AMO. -/
def amoLegal (f5 rs2 : Nat) : Bool :=
  (f5 == 2 && rs2 == 0) || f5 == 3 || f5 == 1 || f5 == 0 || f5 == 4 || f5 == 12 || f5 == 8 || f5 == 16 || f5 == 20
    || f5 == 24 || f5 == 28

/-- Kind of a 32-bit instruction (R115, R126, R128, R377). `.pure` may still prove illegal when it is executed. -/
def kindOf (w : Nat) : IKind :=
  match fOp w with
  | 0x03 => if fF3 w = 7 then .illegal else .load
  | 0x07 => if fF3 w = 2 ∨ fF3 w = 3 then .load else .illegal
  | 0x23 => if fF3 w ≤ 3 then .store else .illegal
  | 0x27 => if fF3 w = 2 ∨ fF3 w = 3 then .store else .illegal
  | 0x2F => if (fF3 w = 2 ∨ fF3 w = 3) ∧ amoLegal (bf w 27 5) (fRs2 w) then .atomic else .illegal
  | 0x0F => if fF3 w = 0 then .fence else .illegal
  | 0x73 =>
    if w = 0x73 then .ecall
    else if w = 0x00100073 then .ebreak
    else if fF3 w = 0 ∨ fF3 w = 4 then .illegal
    else if bf w 20 12 = 0x800 then .kring
    else .pure
  | 0x0B =>
    if fF7 w ≠ 0 then .illegal
    else match fF3 w with
      | 0 => if fRs2 w = 0 then .kpush else .illegal
      | 1 => if fRs2 w = 0 then .kwait else .illegal
      | 2 => if fRs2 w = 0 then .ktest else .illegal
      | 3 => if fRs2 w = 0 ∧ fRs1 w = 0 then .kdrain else .illegal
      | 4 => if fRs2 w = 0 then .krecv else .illegal
      | 5 => .kclaim
      | _ => .illegal
  | 0x13 | 0x33 | 0x1B | 0x3B | 0x37 | 0x17 | 0x6F | 0x67 | 0x63 | 0x53 | 0x43 | 0x47 | 0x4B | 0x4F => .pure
  | _ => .illegal

/-! ### Integer arithmetic -/

/-- Low 32 bits sign-extended. -/
def sextW (v : W64) : W64 := (v.setWidth 32).signExtend 64

def divS (a b : W64) : W64 := if b = 0 then -1#64 else a.sdiv b
def remS (a b : W64) : W64 := if b = 0 then a else a.srem b
def divU (a b : W64) : W64 := if b = 0 then -1#64 else a / b
def remU (a b : W64) : W64 := if b = 0 then a else a % b
def divS32 (a b : W32) : W32 := if b = 0 then -1#32 else a.sdiv b
def remS32 (a b : W32) : W32 := if b = 0 then a else a.srem b
def divU32 (a b : W32) : W32 := if b = 0 then -1#32 else a / b
def remU32 (a b : W32) : W32 := if b = 0 then a else a % b

def bool64 (b : Bool) : W64 := if b then 1 else 0

/-- OP and OP-IMM results; `f7` is 0 or 0x20 for the alternates. -/
def aluOp (f3 : Nat) (alt : Bool) (a b : W64) : W64 :=
  let sh := b.toNat % 64
  match f3 with
  | 0 => if alt then a - b else a + b
  | 1 => a <<< sh
  | 2 => bool64 (a.slt b)
  | 3 => bool64 (a.ult b)
  | 4 => a ^^^ b
  | 5 => if alt then a.sshiftRight sh else a >>> sh
  | 6 => a ||| b
  | _ => a &&& b

def mulOp (f3 : Nat) (a b : W64) : W64 :=
  match f3 with
  | 0 => a * b
  | 1 => BitVec.ofInt 64 (a.toInt * b.toInt / 2 ^ 64)
  | 2 => BitVec.ofInt 64 (a.toInt * (b.toNat : Int) / 2 ^ 64)
  | 3 => BitVec.ofNat 64 (a.toNat * b.toNat / 2 ^ 64)
  | 4 => divS a b
  | 5 => divU a b
  | 6 => remS a b
  | _ => remU a b

/-- The word forms of OP-32 and OP-IMM-32. -/
def aluOpW (f3 : Nat) (alt : Bool) (a b : W64) : Option W64 :=
  let x : W32 := a.setWidth 32
  let y : W32 := b.setWidth 32
  let sh := b.toNat % 32
  match f3 with
  | 0 => some ((if alt then x - y else x + y).signExtend 64)
  | 1 => if alt then none else some ((x <<< sh).signExtend 64)
  | 5 => some ((if alt then x.sshiftRight sh else x >>> sh).signExtend 64)
  | _ => none

def mulOpW (f3 : Nat) (a b : W64) : Option W64 :=
  let x : W32 := a.setWidth 32
  let y : W32 := b.setWidth 32
  match f3 with
  | 0 => some ((x * y).signExtend 64)
  | 4 => some ((divS32 x y).signExtend 64)
  | 5 => some ((divU32 x y).signExtend 64)
  | 6 => some ((remS32 x y).signExtend 64)
  | 7 => some ((remU32 x y).signExtend 64)
  | _ => none

def branchTaken (f3 : Nat) (a b : W64) : Option Bool :=
  match f3 with
  | 0 => some (a == b)
  | 1 => some (a != b)
  | 4 => some (a.slt b)
  | 5 => some (!a.slt b)
  | 6 => some (a.ult b)
  | 7 => some (!a.ult b)
  | _ => none

/-! ### Floating point (R79) -/

/-- Exception flags NV 16, DZ 8, OF 4, UF 2, NX 1. -/
def flNV : Nat := 16
def flDZ : Nat := 8
def flOF : Nat := 4
def flUF : Nat := 2
def flNX : Nat := 1

/-- The rounding mode of the rm field; 7 takes frm; a reserved one is illegal. -/
def rvRm (rm frm : Nat) : Option Rm :=
  match (if rm = 7 then frm else rm) with
  | 0 => some .rne | 1 => some .rtz | 2 => some .rdn | 3 => some .rup | 4 => some .rmm | _ => none

/-- A value rounded to a format under IEEE 754 with the flags of the rounding; tininess is detected after rounding. -/
def rvRound (f : Fmt) (rm : Rm) (v : FVal) : Nat × Nat :=
  match v with
  | .nan => (fmtNan f, 0)
  | .inf n => (fmtSign f n + fmtInf f, 0)
  | .fin n m e =>
    let r := magBits f rm n m e
    if r.1 > fmtMaxFin f then
      let toMax := match rm with | .rtz => true | .rdn => !n | .rup => n | _ => false
      (fmtSign f n + (if toMax then fmtMaxFin f else fmtInf f), flOF + flNX)
    else
      let u := roundMag f.mbits (-100000) rm n m e
      let tiny := decide (m ≠ 0) && decide ((Nat.log2 u.2.1 : Int) + u.1 < 1 - (fmtBias f : Int))
      (fmtSign f n + r.1, if r.2 then (if tiny then flUF + flNX else flNX) else 0)

def isSnan (f : Fmt) (bits : Nat) : Bool :=
  (fmtDecode f bits).isNan && !bits.testBit (f.mbits - 1)

/-- A register as a value of the format; an FP32 value that is not NaN-boxed reads as the canonical NaN. -/
def fpArg (f : Fmt) (v : W64) : Nat :=
  if f = fmtFp32 then (if v.toNat / 2 ^ 32 = 2 ^ 32 - 1 then v.toNat % 2 ^ 32 else 0x7FC00000) else v.toNat

/-- A result as a register: FP32 is NaN-boxed. -/
def fpBox (f : Fmt) (bits : Nat) : W64 :=
  if f = fmtFp32 then BitVec.ofNat 64 (bits + 0xFFFFFFFF00000000) else BitVec.ofNat 64 bits

/-- Quotient with a sticky last bit. -/
def fDiv : FVal → FVal → FVal × Nat
  | .nan, _ => (.nan, 0)
  | _, .nan => (.nan, 0)
  | .inf _, .inf _ => (.nan, flNV)
  | .inf a, .fin b _ _ => (.inf (a != b), 0)
  | .fin a _ _, .inf b => (.fin (a != b) 0 0, 0)
  | .fin a m e, .fin b n g =>
    if n = 0 then (if m = 0 then (.nan, flNV) else (.inf (a != b), flDZ))
    else
      let t := m * 2 ^ 130
      (.fin (a != b) (2 * (t / n) + (if t % n = 0 then 0 else 1)) (e - g - 131), 0)

/-- Integer square root by bits. -/
def isqrtGo (m : Nat) : Nat → Nat → Nat
  | 0, r => r
  | i + 1, r => if (r + 2 ^ i) * (r + 2 ^ i) ≤ m then isqrtGo m i (r + 2 ^ i) else isqrtGo m i r

def fSqrt : FVal → FVal × Nat
  | .nan => (.nan, 0)
  | .inf n => if n then (.nan, flNV) else (.inf false, 0)
  | .fin n m e =>
    if m = 0 then (.fin n 0 0, 0)
    else if n then (.nan, flNV)
    else
      let sh : Nat := if e % 2 = 0 then 120 else 121
      let t := m * 2 ^ sh
      let r := isqrtGo t 96 0
      (.fin false (2 * r + (if r * r = t then 0 else 1)) ((e - sh) / 2 - 1), 0)

/-- Sum with its invalid flag. -/
def fAddFl (rm : Rm) (a b : FVal) : FVal × Nat :=
  match a, b with
  | .inf x, .inf y => if x = y then (.inf x, 0) else (.nan, flNV)
  | _, _ => (fAdd (rm == .rdn) a b, 0)

def fMulFl (a b : FVal) : FVal × Nat :=
  match a, b with
  | .inf _, .fin _ m _ | .fin _ m _, .inf _ => if m = 0 then (.nan, flNV) else (fMul a b, 0)
  | _, _ => (fMul a b, 0)

/-- Minimum or maximum of the F extension: −0 is below +0; one NaN gives the other operand. -/
def fMinMax (f : Fmt) (isMax : Bool) (a b : Nat) : Nat × Nat :=
  let x := fmtDecode f a
  let y := fmtDecode f b
  let fl := if isSnan f a || isSnan f b then flNV else 0
  let r :=
    if x.isNan && y.isNan then fmtNan f
    else if x.isNan then b
    else if y.isNan then a
    else
      let lt := fLt x y || (fEq x y && x.neg && !y.neg)
      if isMax then (if lt then b else a) else (if lt then a else b)
  (r, fl)

/-- FCLASS. -/
def fClass (f : Fmt) (a : Nat) : Nat :=
  match fmtDecode f a with
  | .nan => if isSnan f a then 256 else 512
  | .inf n => if n then 1 else 128
  | .fin n m _ =>
    if m = 0 then (if n then 8 else 16)
    else if m < 2 ^ f.mbits then (if n then 4 else 32)
    else (if n then 2 else 64)

/-- A value rounded to an integer. -/
def fRoundInt (rm : Rm) : FVal → Int × Bool
  | .fin n m e =>
    if e ≥ 0 then (let k : Int := (m * 2 ^ e.toNat : Nat); (if n then -k else k, false))
    else
      let den := 2 ^ (-e).toNat
      let low := m / den
      let rem := m % den
      let k : Int := (if roundsUp rm n low rem den then low + 1 else low : Nat)
      (if n then -k else k, decide (rem ≠ 0))
  | _ => (0, false)

/-- FCVT to an integer of `w` bits. -/
def fToIntReg (w : Nat) (signed : Bool) (rm : Rm) (v : FVal) : W64 × Nat :=
  let lo : Int := if signed then -((2 ^ (w - 1) : Nat) : Int) else 0
  let hi : Int := if signed then (2 ^ (w - 1) : Nat) - 1 else (2 ^ w : Nat) - 1
  let out (i : Int) : W64 := if w = 32 then sextW (BitVec.ofInt 64 i) else BitVec.ofInt 64 i
  match v with
  | .nan => (out hi, flNV)
  | .inf n => (out (if n then lo else hi), flNV)
  | x =>
    let (i, inexact) := fRoundInt rm x
    if i < lo then (out lo, flNV)
    else if i > hi then (out hi, flNV)
    else (out i, if inexact then flNX else 0)

/-- Write an FP result and its flags. -/
def fpResult (x : Ctx) (f : Fmt) (rd bits fl : Nat) : Ctx :=
  let y := writeF x rd (fpBox f bits)
  { y with fflags := y.fflags ||| BitVec.ofNat 5 fl }

def fpIntResult (x : Ctx) (rd : Nat) (v : W64) (fl : Nat) : Ctx :=
  let y := writeX x rd v
  { y with fflags := y.fflags ||| BitVec.ofNat 5 fl }

/-- Invalid flag of signalling operands. -/
def snanFl (f : Fmt) (l : List Nat) : Nat := if l.any (isSnan f) then flNV else 0

/-- OP-FP. None where the encoding is reserved. -/
def opFp (x : Ctx) (w : Nat) : Option Ctx :=
  let f := if fF7 w % 4 = 0 then fmtFp32 else fmtFp64
  if fF7 w % 4 > 1 then none
  else
    let rd := fRd w
    let a := fpArg f (readF x (fRs1 w))
    let b := fpArg f (readF x (fRs2 w))
    let va := fmtDecode f a
    let vb := fmtDecode f b
    let xr := readX x (fRs1 w)
    let rm := rvRm (fF3 w) x.frm.toNat
    let arith (r : Rm → FVal × Nat) (fl : Nat) : Option Ctx :=
      rm.map fun m =>
        let v := r m
        let o := rvRound f m v.1
        fpResult x f rd o.1 (v.2 ||| fl ||| o.2)
    match fF7 w / 4 with
    | 0x00 => arith (fun m => fAddFl m va vb) (snanFl f [a, b])
    | 0x01 => arith (fun m => fAddFl m va vb.negate) (snanFl f [a, b])
    | 0x02 => arith (fun _ => fMulFl va vb) (snanFl f [a, b])
    | 0x03 => arith (fun _ => fDiv va vb) (snanFl f [a, b])
    | 0x0B => if fRs2 w = 0 then arith (fun _ => fSqrt va) (snanFl f [a]) else none
    | 0x04 =>
      let sgn := 2 ^ (f.ebits + f.mbits)
      let sa := a / sgn % 2
      let sb := b / sgn % 2
      match fF3 w with
      | 0 => some (writeF x rd (fpBox f (a % sgn + sb * sgn)))
      | 1 => some (writeF x rd (fpBox f (a % sgn + (1 - sb) * sgn)))
      | 2 => some (writeF x rd (fpBox f (a % sgn + (sa + sb) % 2 * sgn)))
      | _ => none
    | 0x05 =>
      match fF3 w with
      | 0 => let r := fMinMax f false a b; some (fpResult x f rd r.1 r.2)
      | 1 => let r := fMinMax f true a b; some (fpResult x f rd r.1 r.2)
      | _ => none
    | 0x08 =>
      let g := if fRs2 w = 0 then fmtFp32 else fmtFp64
      if fRs2 w > 1 ∨ g = f then none
      else rm.map fun m =>
        let src := fpArg g (readF x (fRs1 w))
        let o := rvRound f m (fmtDecode g src)
        fpResult x f rd o.1 (snanFl g [src] ||| o.2)
    | 0x14 =>
      let nan := va.isNan || vb.isNan
      match fF3 w with
      | 2 => some (fpIntResult x rd (bool64 (fEq va vb)) (snanFl f [a, b]))
      | 1 => some (fpIntResult x rd (bool64 (fLt va vb)) (if nan then flNV else 0))
      | 0 => some (fpIntResult x rd (bool64 (fLt va vb || fEq va vb)) (if nan then flNV else 0))
      | _ => none
    | 0x18 =>
      rm.bind fun m =>
        match fRs2 w with
        | 0 => let r := fToIntReg 32 true m va; some (fpIntResult x rd r.1 r.2)
        | 1 => let r := fToIntReg 32 false m va; some (fpIntResult x rd r.1 r.2)
        | 2 => let r := fToIntReg 64 true m va; some (fpIntResult x rd r.1 r.2)
        | 3 => let r := fToIntReg 64 false m va; some (fpIntResult x rd r.1 r.2)
        | _ => none
    | 0x1A =>
      rm.bind fun m =>
        let go (i : Int) : Option Ctx := let o := rvRound f m (fOfInt i); some (fpResult x f rd o.1 o.2)
        match fRs2 w with
        | 0 => go (intOf 32 xr.toNat)
        | 1 => go (xr.toNat % 2 ^ 32 : Nat)
        | 2 => go xr.toInt
        | 3 => go (xr.toNat : Nat)
        | _ => none
    | 0x1C =>
      match fF3 w, fRs2 w with
      | 0, 0 =>
        let v := readF x (fRs1 w)
        some (writeX x rd (if f = fmtFp32 then sextW v else v))
      | 1, 0 => some (writeX x rd (BitVec.ofNat 64 (fClass f a)))
      | _, _ => none
    | 0x1E =>
      match fF3 w, fRs2 w with
      | 0, 0 => some (writeF x rd (if f = fmtFp32 then fpBox f (xr.toNat % 2 ^ 32) else xr))
      | _, _ => none
    | _ => none

/-- FMADD, FMSUB, FNMSUB, FNMADD. -/
def fmaFp (x : Ctx) (w : Nat) : Option Ctx :=
  let fm := bf w 25 2
  let f := if fm = 0 then fmtFp32 else fmtFp64
  if fm > 1 then none
  else
    let a := fpArg f (readF x (fRs1 w))
    let b := fpArg f (readF x (fRs2 w))
    let c := fpArg f (readF x (fRs3 w))
    let p := fMulFl (fmtDecode f a) (fmtDecode f b)
    let vc := fmtDecode f c
    let (pv, cv) := match fOp w with
      | 0x43 => (p.1, vc)
      | 0x47 => (p.1, vc.negate)
      | 0x4B => (p.1.negate, vc)
      | _ => (p.1.negate, vc.negate)
    (rvRm (fF3 w) x.frm.toNat).map fun m =>
      let r := fAddFl m pv cv
      let o := rvRound f m r.1
      fpResult x f (fRd w) o.1 (p.2 ||| r.2 ||| snanFl f [a, b, c] ||| o.2)

/-! ### CSRs (R120) -/

/-- Value of a CSR for context `n` of core `c`. The partition field of kid reads 0 for a core in none (DESIGN CHOICE, assumption 125). -/
def csrRead (s : State) (c n : Nat) (num : Nat) : Option W64 :=
  let k := getCore s c
  let x := getCtx k n
  match num with
  | 0x001 => some (x.fflags.setWidth 64)
  | 0x002 => some (x.frm.setWidth 64)
  | 0x003 => some (BitVec.ofNat 64 (x.frm.toNat * 32 + x.fflags.toNat))
  | 0xC00 => some (BitVec.ofNat 64 (coreSclk s c - k.cycle0))
  | 0xC01 => some (BitVec.ofNat 64 s.aon)
  | 0xC02 => some x.instret
  | 0xCC0 => some (BitVec.ofNat 64 (n + c * 8 + (partOfCore s c).getD 0 * 2 ^ 11))
  | 0xCC1 => some (BitVec.ofNat 64 (x.base.toNat * 64))
  | 0xCC2 => some (BitVec.ofNat 64 (winBound x))
  | 0xCC3 => some (BitVec.ofNat 64 (outstanding k n + x.queue.length * 256))
  | _ => none

/-- Write a CSR; none for a read-only or absent one. -/
def csrWrite (x : Ctx) (num : Nat) (v : W64) : Option Ctx :=
  match num with
  | 0x001 => some { x with fflags := v.setWidth 5 }
  | 0x002 => some { x with frm := v.setWidth 3 }
  | 0x003 => some { x with fflags := v.setWidth 5, frm := (v >>> 5).setWidth 3 }
  | _ => none

/-- CSR instructions of Zicsr other than those of kring. -/
def csrOp (s : State) (c n : Nat) (x : Ctx) (w : Nat) : Option Ctx :=
  let num := bf w 20 12
  let src : W64 := if fF3 w ≥ 5 then BitVec.ofNat 64 (fRs1 w) else readX x (fRs1 w)
  match csrRead s c n num with
  | none => none
  | some old =>
    let wr : Option W64 :=
      match fF3 w % 4 with
      | 1 => some src
      | 2 => if fRs1 w = 0 then none else some (old ||| src)
      | _ => if fRs1 w = 0 then none else some (old &&& ~~~src)
    match wr with
    | none => some (writeX x (fRd w) old)
    | some v => (csrWrite x num v).map fun y => writeX y (fRd w) old

/-! ### Instructions that touch no memory -/

/-- Effect of an instruction of kind `.pure` on its context, the pc included; none where the encoding is illegal. -/
def pureStep (s : State) (c n : Nat) (x : Ctx) (w len : Nat) : Option Ctx :=
  let pcn := x.pc + BitVec.ofNat 64 len
  let go (y : Ctx) : Ctx := { y with pc := pcn }
  let a := readX x (fRs1 w)
  let b := readX x (fRs2 w)
  let rd := fRd w
  match fOp w with
  | 0x37 => some (go (writeX x rd (immU w)))
  | 0x17 => some (go (writeX x rd (x.pc + immU w)))
  | 0x6F => some { writeX x rd pcn with pc := x.pc + immJ w }
  | 0x67 => if fF3 w = 0 then some { writeX x rd pcn with pc := (a + immI w) &&& ~~~1#64 } else none
  | 0x63 => (branchTaken (fF3 w) a b).map fun t => { x with pc := if t then x.pc + immB w else pcn }
  | 0x13 =>
    match fF3 w with
    | 1 => if bf w 26 6 = 0 then some (go (writeX x rd (aluOp 1 false a (BitVec.ofNat 64 (bf w 20 6))))) else none
    | 5 =>
      if bf w 26 6 = 0 then some (go (writeX x rd (aluOp 5 false a (BitVec.ofNat 64 (bf w 20 6)))))
      else if bf w 26 6 = 0x10 then some (go (writeX x rd (aluOp 5 true a (BitVec.ofNat 64 (bf w 20 6)))))
      else none
    | f => some (go (writeX x rd (aluOp f false a (immI w))))
  | 0x33 =>
    if fF7 w = 0 then some (go (writeX x rd (aluOp (fF3 w) false a b)))
    else if fF7 w = 0x20 ∧ (fF3 w = 0 ∨ fF3 w = 5) then some (go (writeX x rd (aluOp (fF3 w) true a b)))
    else if fF7 w = 1 then some (go (writeX x rd (mulOp (fF3 w) a b)))
    else none
  | 0x1B =>
    match fF3 w with
    | 0 => (aluOpW 0 false a (immI w)).map fun v => go (writeX x rd v)
    | 1 => if fF7 w = 0 then (aluOpW 1 false a (BitVec.ofNat 64 (fRs2 w))).map fun v => go (writeX x rd v) else none
    | 5 =>
      if fF7 w = 0 then (aluOpW 5 false a (BitVec.ofNat 64 (fRs2 w))).map fun v => go (writeX x rd v)
      else if fF7 w = 0x20 then (aluOpW 5 true a (BitVec.ofNat 64 (fRs2 w))).map fun v => go (writeX x rd v)
      else none
    | _ => none
  | 0x3B =>
    if fF7 w = 0 then (aluOpW (fF3 w) false a b).map fun v => go (writeX x rd v)
    else if fF7 w = 0x20 ∧ fF3 w ≠ 1 then (aluOpW (fF3 w) true a b).map fun v => go (writeX x rd v)
    else if fF7 w = 1 then (mulOpW (fF3 w) a b).map fun v => go (writeX x rd v)
    else none
  | 0x73 => (csrOp s c n x w).map go
  | 0x53 => (opFp x w).map go
  | 0x43 | 0x47 | 0x4B | 0x4F => (fmaFp x w).map go
  | _ => none

end Sys2Proof.Machine
end

