-- ==== Sys2Proof/Machine/Scalar.lean ====
section
/-! DEFINITION. Machine/Scalar.lean: issue of scalar instructions (R116 to R133), the narrow queue (R156 to R160), Xknl and
kring (R128 to R133, R377 to R388). -/

namespace Sys2Proof.Machine

open Sys2Proof

/-- What context `n` would issue. -/
def nextKind (k : Core) (n : Nat) : IKind :=
  match fetchAt k (getCtx k n).pc.toNat with
  | .instr w _ => kindOf w
  | _ => .illegal

/-- Context `n` may take the instruction slot: it is RUNNING, and a memory instruction finds room in the narrow queue (R122,
R157). -/
def canIssue (k : Core) (n : Nat) : Bool :=
  (getCtx k n).st == .running && !(isMemKind (nextKind k n) && decide (k.spad.queue.length ≥ 8))

/-- The next context in round-robin order after the one served last (R122). -/
def nextCtx (k : Core) : Option Nat := ((List.range 8).map fun i => (k.lastServed + 1 + i) % 8).find? (canIssue k)

/-- A context retires an instruction that leaves it at `pc`; a pending HALT takes effect at this boundary (R124), and CAUSE stays: only
START clears it (R125). -/
def retire (x : Ctx) : Ctx :=
  let y := { x with instret := x.instret + 1 }
  if y.haltPending then { y with st := .halted, haltPending := false, faultPc := y.pc.setWidth 32 } else y

/-- Context `n` retires as `x`. -/
def retireAs (k : Core) (n : Nat) (x : Ctx) : Core := putCtx k n (retire x)

/-- Advance the pc by `len` bytes. -/
def advance (x : Ctx) (len : Nat) : Ctx := { x with pc := x.pc + BitVec.ofNat 64 len }

/-- Context `n` waits at its instruction (R122), whose address FAULT_PC shows (R125); the pc advances when the instruction retires. -/
def waitAs (k : Core) (n : Nat) (x : Ctx) (wt : Wait) : Core :=
  putCtx k n { x with st := .waiting, wait := some wt, faultPc := x.pc.setWidth 32 }

/-! ### Loads, stores and atomics (R117, R157) -/

/-- Window address of a memory instruction. -/
def memEa (x : Ctx) (w : Nat) (kd : IKind) : W64 :=
  match kd with
  | .load => readX x (fRs1 w) + immI w
  | .store => readX x (fRs1 w) + immS w
  | _ => readX x (fRs1 w)

/-- Access size in bytes. -/
def memSize (w : Nat) : Nat := 2 ^ (fF3 w % 4)

/-- The cause for which a memory access faults, if any: misalignment first, then the window (R117, R126). -/
def memFault (x : Ctx) (a size : Nat) : Option Nat :=
  if a % size ≠ 0 then some causeMisaligned
  else if inWindow x a size then none
  else some causeBound

/-- The entry of the narrow queue that an instruction makes. -/
def narrowOf (s : State) (c n : Nat) (x : Ctx) (w : Nat) (kd : IKind) : Narrow :=
  let size := memSize w
  let kind : NarrowKind :=
    match kd with
    | .load => .load (fRd w) (fOp w == 0x07) (decide (fF3 w < 4) && fOp w != 0x07)
    | .store => .store
    | _ => match bf w 27 5 with
      | 2 => .lr (fRd w)
      | 3 => .sc (fRd w)
      | f => .amo (fRd w) f
  { ctx := n, kind := kind, addr := winAddr x (memEa x w kd).toNat, size := size
    data := if fOp w = 0x27 then readF x (fRs2 w) else readX x (fRs2 w), since := coreAclk s c }

/-- A memory instruction enters the narrow queue: a store is posted, a load or atomic makes its context wait (R157). -/
def issueMem (s : State) (c n : Nat) (w len : Nat) (kd : IKind) : State :=
  let k := getCore s c
  let x := getCtx k n
  match memFault x (memEa x w kd).toNat (memSize w) with
  | some cause => faultCtx s c n cause x.pc.toNat
  | none =>
    let k1 := { k with spad := { k.spad with queue := k.spad.queue ++ [narrowOf s c n x w kd] } }
    match kd with
    | .store => setCore s c (retireAs k1 n (advance x len))
    | _ => setCore s c (waitAs k1 n x (.narrow len))

/-- FENCE waits while a narrow access of its context is queued (R160). -/
def issueFence (s : State) (c n len : Nat) : State :=
  let k := getCore s c
  let x := getCtx k n
  if k.spad.queue.any (·.ctx == n) then setCore s c (waitAs k n x .fence)
  else setCore s c (retireAs k n (advance x len))

/-! ### Narrow accesses performed (R156 to R160) -/

/-- AMO result from the old value and the operand, both of `size` bytes. -/
def amoResult (f5 size old v : Nat) : Nat :=
  let w := 8 * size
  match f5 with
  | 1 => v
  | 0 => (old + v) % 2 ^ w
  | 4 => old ^^^ v
  | 12 => old &&& v
  | 8 => old ||| v
  | 16 => if intOf w old < intOf w v then old else v
  | 20 => if intOf w old > intOf w v then old else v
  | 24 => min old v
  | _ => max old v

/-- A loaded value as a register value. -/
def loadValue (size : Nat) (signed : Bool) (v : Nat) : W64 :=
  if signed then sext64 (8 * size) v else BitVec.ofNat 64 v

/-- A context gets the data of its narrow access and retires (R122); a killed context takes nothing. -/
def deliver (k : Core) (e : Narrow) (f : Ctx → Ctx) : Core :=
  let n := e.ctx
  let x := getCtx k n
  match x.wait with
  | some (.narrow len) =>
    if x.st = .waiting ∧ !e.dead then putCtx k n (retire { advance (f x) len with st := .running, wait := none }) else k
  | _ => k

/-- Reservations that a store to `a` of `size` bytes breaks. -/
def breakResv (k : Core) (a size : Nat) : Core :=
  { k with ctxs := k.ctxs.map fun p =>
      match p.2.resv with
      | some (ra, rs) => if ra < a + size ∧ a < ra + rs then (p.1, { p.2 with resv := none }) else p
      | none => p }

/-- Count the unwritten row that a narrow read meets (R167). -/
def narrowUnwritten (k : Core) (a : Nat) : Core :=
  if isWritten k.spad a then k
  else { k with spad := { k.spad with unwrittenNarrow := satAdd k.spad.unwrittenNarrow 1 } }

/-- Perform one narrow access (R156, R159). -/
def doNarrow (k : Core) (e : Narrow) : Core :=
  let old := leNum (spadBytes k.spad e.addr e.size)
  let data := e.data.toNat % 2 ^ (8 * e.size)
  let put (k : Core) (v : Nat) : Core := breakResv { k with spad := spadWrite k.spad e.addr (leBytes e.size v) } e.addr e.size
  match e.kind with
  | .store => put k data
  | .load rd fp signed =>
    deliver (narrowUnwritten k e.addr) e fun x =>
      if fp then writeF x rd (if e.size = 4 then fpBox fmtFp32 old else BitVec.ofNat 64 old)
      else writeX x rd (loadValue e.size signed old)
  | .lr rd =>
    deliver (narrowUnwritten k e.addr) e fun x =>
      writeX { x with resv := some (e.addr, e.size) } rd (sext64 (8 * e.size) old)
  | .sc rd =>
    let ok := (getCtx k e.ctx).resv == some (e.addr, e.size)
    let k1 := if ok then put k data else k
    deliver k1 e fun x => writeX { x with resv := none } rd (if ok then 0 else 1)
  | .amo rd f5 =>
    deliver (put (narrowUnwritten k e.addr) (amoResult f5 e.size old data)) e fun x =>
      writeX x rd (sext64 (8 * e.size) old)

/-- Wide line of an address (R153). -/
def wideLine (a : Nat) : Nat := a / 512

/-- Perform the accesses in order, then wake what waited on them. -/
def doNarrows (k : Core) (es : List Narrow) : Core := wake (es.foldl doNarrow k)

/-- The head of the narrow queue is performed (R156). -/
def execNarrowAccess (c : Nat) (ecc : Option Ecc) (s : State) : Out :=
  onCore c <|
    let k := getCore s c
    match k.spad.queue with
    | [] => .next s
    | e :: t =>
      let s1 := match ecc with
        | some x => spadEcc s c [(e.addr, x)]
        | none => s
      let k1 := getCore s1 c
      .next (setCore s1 c (doNarrows { k1 with spad := { k1.spad with queue := t } } [e]))

/-- The head at age 32 and every other entry of its wide line are performed as one access (R158). -/
def execGather (c : Nat) (ecc : EccHits) (s : State) : Out :=
  onCore c <|
    let k := getCore s c
    match k.spad.queue with
    | [] => .next s
    | e :: _ =>
      if coreAclk s c < e.since + 32 then .next s
      else
        let same (x : Narrow) : Bool := wideLine x.addr == wideLine e.addr
        let s1 := spadEcc s c (ecc.filter fun h => wideLine h.1 == wideLine e.addr)
        let k1 := getCore s1 c
        let sp := { k1.spad with queue := k1.spad.queue.filter (!same ·), gathers := satAdd k1.spad.gathers 1 }
        .next (setCore s1 c (doNarrows { k1 with spad := sp } (k.spad.queue.filter same)))

/-- A corrected word is written back (R170): its content is already the corrected one. -/
def execSpadEccWriteback (c : Nat) (s : State) : Out :=
  onCore c <|
    let k := getCore s c
    .next (setCore s c { k with spad := { k.spad with toWriteBack := k.spad.toWriteBack.drop 1 } })

/-! ### Xknl: KPUSH, KWAIT, KTEST, KDRAIN, KRECV (R129 to R132) -/

/-- Nests that a descriptor carries: P of them when it is packed (R245, R246). -/
def nestCount (d : Desc) : Nat :=
  match d.pack with | 1 => 4 | 2 => 16 | _ => 1

def bv (w : Nat) (bs : List Byte) : BitVec w := BitVec.ofNat w (leNum bs)

/-- Registers that nests name as bounds or starts, with their values at the push. -/
def capture (x : Ctx) (ns : List Nest) : List (Nat × W64) :=
  let regs := ns.flatMap fun n => (usedLevels n).flatMap fun l =>
    (if l.boundSrc then [l.boundReg] else []) ++ (if l.startSrc then [l.startReg] else [])
  regs.foldl (fun t r => Tab.set t r (readX x r)) []

/-- The cause for which a KPUSH of the descriptor at `a` faults (R129). -/
def kpushFault (k : Core) (x : Ctx) (a : Nat) : Option Nat :=
  if a % 128 ≠ 0 then some causeMisaligned
  else if !inWindow x a 128 then some causeBound
  else
    let d := descOf (bv 1024 (spadBytes k.spad (winAddr x a) 128))
    if d.loopAddr % 64 ≠ 0 ∨ d.tokenAddr % 64 ≠ 0 ∨ (d.flagsLen > 0 ∧ d.flagsAddr % 4 ≠ 0) then some causeMisaligned
    else if !inWindow x d.loopAddr (224 * nestCount d) || !inWindow x d.tokenAddr 64 then some causeBound
    else none

/-- The next push sequence number: 0 is skipped (R129). -/
def seqAfter (q : Nat) : Nat := if q + 1 ≥ 2 ^ 32 then 1 else q + 1

/-- The descriptor as KPUSH copies it. -/
def pushed (s : State) (c : Nat) (k : Core) (x : Ctx) (a : Nat) : QDesc :=
  let raw : BitVec 1024 := bv 1024 (spadBytes k.spad (winAddr x a) 128)
  let d := descOf raw
  let nests := (List.range (nestCount d)).map fun i =>
    (bv 1792 (spadBytes k.spad (winAddr x d.loopAddr + 224 * i) 224) : BitVec 1792)
  { seq := x.nextSeq, push := k.pushes, base := x.base.toNat * 64, desc := raw, nests := nests, caps := capture x (nests.map nestOf)
    headSince := if x.queue.isEmpty then some (coreSclk s c) else none }

def issueKpush (s : State) (c n w len : Nat) : State :=
  let k := getCore s c
  let x := getCtx k n
  let a := (readX x (fRs1 w)).toNat
  match kpushFault k x a with
  | some cause => faultCtx s c n cause x.pc.toNat
  | none =>
    if x.queue.length ≥ 8 ∨ outstanding k n ≥ 32 then setCore s c (waitAs k n x .kpush)
    else
      let q := pushed s c k x a
      let y := writeX { advance x len with
        queue := x.queue ++ [q], nextSeq := seqAfter x.nextSeq
        window := (x.window ++ [({ seq := q.seq } : Token)]).drop (x.window.length + 1 - 32) } (fRd w) (BitVec.ofNat 64 q.seq)
      setCore s c (retireAs { k with pushes := k.pushes + 1 } n y)

/-- Result of a token (R130). -/
def tokenResult (t : Token) : W64 := BitVec.ofNat 64 (t.status.toNat + t.summary.toNat * 2 ^ 16)

def findToken (x : Ctx) (q : Nat) : Option Token := x.window.find? fun t => t.seq == q

def issueKwait (s : State) (c n w len : Nat) (test : Bool) : State :=
  let k := getCore s c
  let x := getCtx k n
  let q := (readX x (fRs1 w)).toNat
  match (if q = 0 then none else findToken x q) with
  | none => setCore s c (retireAs k n (writeX (advance x len) (fRd w) (-1#64)))
  | some t =>
    if t.done then setCore s c (retireAs k n (writeX (advance x len) (fRd w) (tokenResult t)))
    else if test then setCore s c (retireAs k n (writeX (advance x len) (fRd w) 0xFFFFFFFFFFFFFFFE))
    else setCore s c (waitAs k n x (.kwait (fRd w) q))

def issueKdrain (s : State) (c n w len : Nat) : State :=
  let k := getCore s c
  let x := getCtx k n
  if outstanding k n ≠ 0 then setCore s c (waitAs k n x (.kdrain (fRd w)))
  else
    let y := writeX (advance x len) (fRd w) (BitVec.ofNat 64 (x.drainSum.toNat + (if x.drainBad then 256 else 0)))
    setCore s c (retireAs k n { y with drainSum := 0, drainBad := false })

/-- Context `x` takes message `m` at window address `a` (R132). -/
def takeMessage (k : Core) (n : Nat) (x : Ctx) (rd a : Nat) (m : Mail) : Core :=
  let k1 := { k with spad := spadWrite k.spad (winAddr x a) m }
  retireAs k1 n { writeX (advance x 4) rd 0 with st := .running, wait := none }

def issueKrecv (s : State) (c n w : Nat) : State :=
  let k := getCore s c
  let x := getCtx k n
  let a := (readX x (fRs1 w)).toNat
  if a % 64 ≠ 0 then faultCtx s c n causeMisaligned x.pc.toNat
  else if !inWindow x a 64 then faultCtx s c n causeBound x.pc.toNat
  else match k.mesh.mailbox with
    | [] => setCore s c (waitAs { k with krecvOrder := k.krecvOrder ++ [n] } n x (.krecv (fRd w) a))
    | m :: t => setCore s c (takeMessage { k with mesh := { k.mesh with mailbox := t } } n x (fRd w) a m)

/-- KCLAIM sends its request and waits for the reply (R133). -/
def issueKclaim (s : State) (c n w : Nat) : State :=
  let k := getCore s c
  let x := getCtx k n
  let k1 := { k with claims := k.claims ++ [({ ctx := n, rs1 := readX x (fRs1 w), rs2 := readX x (fRs2 w) } : ClaimReq)] }
  setCore s c (waitAs k1 n x (.kclaim (fRd w)))

/-! ### kring (R377, R378, R387, R388) -/

def getRing (k : Core) (r : Nat) : Ring := Tab.get {} k.mesh.rings r
def putRing (k : Core) (r : Nat) (x : Ring) : Core := { k with mesh := { k.mesh with rings := Tab.set k.mesh.rings r x } }

/-- Slot index of sequence number `q` (R379). -/
def slotOfSeq (slots q : Nat) : Nat := (q + 2 ^ 32 - 1) % 2 ^ 32 % slots

/-- `q` lies in the window of a ring (R379). -/
def inRing (head slots q : Nat) : Bool := decide ((q + 2 ^ 32 - head) % 2 ^ 32 < slots)

def slotState (t : Tab SlotSt) (i : Nat) : SlotSt := Tab.get .empty t i

def isFilled : SlotSt → Bool
  | .filled _ => true
  | _ => false

def filledCount (t : Tab SlotSt) : Nat := (t.filter fun p => isFilled p.2).length

/-! Relay slots of the halyard read as ring 16 (R357, R390). -/

def halEnabled (h : Hal) : Bool := h.cfg.getLsbD 0
def halField (h : Hal) (lo n : Nat) : Nat := bf h.cfg.toNat lo n
def halSlotBytes (h : Hal) : Nat := (if halField h 11 7 = 0 then 64 else halField h 11 7) * 1024
def halCtx (h : Hal) : Nat := halField h 8 3
def halRole (h : Hal) : Nat := halField h 3 2
/-- Scratchpad address of relay slot `i`. -/
def halSlotAddr (k : Core) (i : Nat) : Nat :=
  winAddr (getCtx k (halCtx k.dma.hal)) (halField k.dma.hal 18 18 * 64) + i * halSlotBytes k.dma.hal
def relaySlot (h : Hal) (i : Nat) : RelaySlot := Tab.get {} h.slots i
/-- Complete tiles not yet released. -/
def halFilled (h : Hal) : Nat := ((List.range 2).filter fun i => (relaySlot h i).tile.isSome && !(relaySlot h i).released).length

/-- Status word of a ring (R377). -/
def ringStatus (k : Core) (r : Nat) (err : Bool) : Nat :=
  let e := if err then 2 ^ 63 else 0
  if r = 16 then
    let h := k.dma.hal
    e + h.pendingRel.length * 2 ^ 42 + (if h.st = .running then 2 ^ 40 else 0) + halFilled h * 2 ^ 32 + h.head % 2 ^ 32
  else
    let g := getRing k r
    e + g.pendingRel.length * 2 ^ 42 + (if g.opened then 2 ^ 40 else 0) + filledCount g.st * 2 ^ 32 + g.head % 2 ^ 32

/-- Two byte ranges share a byte. -/
def overlaps (a n b m : Nat) : Bool := decide (a < b + m) && decide (b < a + n) && n != 0 && m != 0

/-- A byte range overlaps an open ring, or a relay slot of an enabled member. -/
def overlapsSlots (k : Core) (a n : Nat) : Bool :=
  (k.mesh.rings.any fun p => p.2.opened && overlaps a n p.2.base (p.2.slots * p.2.size))
    || (halEnabled k.dma.hal && overlaps a n (halSlotAddr k 0) (2 * halSlotBytes k.dma.hal))

/-- OPEN (R378): none when it is refused. -/
def ringOpen (k : Core) (n cmd : Nat) : Option Core :=
  let r := bf cmd 3 5
  let x := getCtx k n
  let size := (if bf cmd 14 10 = 0 then 1024 else bf cmd 14 10) * 64
  let slots := if bf cmd 8 6 = 0 then 64 else bf cmd 8 6
  let base := bf cmd 24 18 * 64
  if r ≥ 16 ∨ (getRing k r).opened ∨ base + slots * size > winBound x ∨ overlapsSlots k (winAddr x base) (slots * size) then none
  else some (putRing k r { opened := true, owner := n, base := winAddr x base, size := size, slots := slots
                           producer := bf cmd 42 8, any := cmd.testBit 50, head := 1, st := [], pendingRel := []
                           closing := false })

/-- CLOSE (R388): none when it is refused. -/
def ringClose (k : Core) (cmd : Nat) : Option Core :=
  let r := bf cmd 3 5
  let g := getRing k r
  if r ≥ 16 ∨ !g.opened ∨ g.pendingRel ≠ [] then none else some (putRing k r { g with closing := true })

/-- RELEASE (R387): none when it is refused. -/
def ringRelease (k : Core) (n cmd : Nat) : Option Core :=
  let r := bf cmd 3 5
  if r = 16 then
    let h := k.dma.hal
    if h.pendingRel.length + 1 > halFilled h then none
    else some { k with dma := { k.dma with hal := { h with pendingRel := h.pendingRel ++ [(n, k.pushes)] } } }
  else
    let g := getRing k r
    if r > 16 ∨ !g.opened ∨ g.pendingRel.length + 1 > filledCount g.st then none
    else some (putRing k r { g with pendingRel := g.pendingRel ++ [(n, k.pushes)] })

/-- Carry out a kring command; a refused one changes nothing and sets ERROR. -/
def ringCommand (k : Core) (n cmd : Nat) : Core × Nat :=
  let r := bf cmd 3 5
  let res : Option Core :=
    if bf cmd 51 13 ≠ 0 ∨ r > 16 then none
    else match bf cmd 0 3 with
      | 0 => some k
      | 1 => ringOpen k n cmd
      | 2 => ringClose k cmd
      | 3 => ringRelease k n cmd
      | _ => none
  match res with
  | some k1 => (k1, ringStatus k1 r false)
  | none => (k, if r ≤ 16 then ringStatus k r true else 2 ^ 63)

/-- Access to CSR kring: CSRRW, or CSRRS and CSRRC of x0; anything else is illegal (R377). -/
def issueKring (s : State) (c n w len : Nat) : State :=
  let k := getCore s c
  let x := getCtx k n
  match fF3 w with
  | 1 =>
    let r := ringCommand k n (readX x (fRs1 w)).toNat
    let y := getCtx r.1 n
    setCore s c (retireAs r.1 n (writeX (advance y len) (fRd w) (BitVec.ofNat 64 r.2)))
  | f =>
    if (f = 2 ∨ f = 3) ∧ fRs1 w = 0 then setCore s c (retireAs k n (writeX (advance x len) (fRd w) 0))
    else faultCtx s c n causeIllegal x.pc.toNat

/-- CMD of a kring instruction that context `n` is about to issue. -/
def kringCmd (k : Core) (n : Nat) : Option Nat :=
  let x := getCtx k n
  match fetchAt k x.pc.toNat with
  | .instr w _ => if kindOf w = .kring ∧ fF3 w = 1 then some (bf (readX x (fRs1 w)).toNat 0 3) else none
  | _ => none

/-! ### Issue of one instruction (R122) -/

/-- Context `n` issues its instruction. ECALL and EBREAK halt the context and do not retire; its pc is then the next instruction, at
which RESUME continues (assumption 115). -/
def issue (s : State) (c n : Nat) : State :=
  let k0 := getCore s c
  let s := setCore s c { k0 with lastServed := n }
  let k := getCore s c
  let x := getCtx k n
  let pc := x.pc.toNat
  match fetchAt k pc with
  | .outside => faultCtx s c n causeFetch pc
  | .illegal => faultCtx s c n causeIllegal pc
  | .instr w len =>
    match kindOf w with
    | .illegal => faultCtx s c n causeIllegal pc
    | .pure =>
      match pureStep s c n x w len with
      | some y => setCore s c (retireAs k n y)
      | none => faultCtx s c n causeIllegal pc
    | .load => issueMem s c n w len .load
    | .store => issueMem s c n w len .store
    | .atomic => issueMem s c n w len .atomic
    | .fence => issueFence s c n len
    | .ecall => setCore s c (haltCtx (putCtx k n (advance x len)) n causeEcall pc)
    | .ebreak => setCore s c (haltCtx (putCtx k n (advance x len)) n causeEbreak pc)
    | .kpush => issueKpush s c n w len
    | .kwait => issueKwait s c n w len false
    | .ktest => issueKwait s c n w len true
    | .kdrain => issueKdrain s c n w len
    | .krecv => issueKrecv s c n w
    | .kclaim => issueKclaim s c n w
    | .kring => issueKring s c n w len

/-- Issue the next context's instruction if its kind satisfies `p`; otherwise nothing happens (assumption 2). A core id that names no core
in service issues nothing (R30, R623). -/
def issueIf (c : Nat) (p : Core → Nat → Bool) (s : State) : Out :=
  onCore c <|
    if !coreServes s c then .next s
    else match nextCtx (getCore s c) with
    | none => .next s
    | some n => if p (getCore s c) n then .next (issue s c n) else .next s

def isNext (kd : IKind) (k : Core) (n : Nat) : Bool := nextKind k n == kd

def issueAny (c : Nat) (s : State) : Out := issueIf c (fun _ _ => true) s
def execEcall (c : Nat) (s : State) : Out := issueIf c (isNext .ecall) s
def execEbreak (c : Nat) (s : State) : Out := issueIf c (isNext .ebreak) s
def execScalarLoad (c : Nat) (s : State) : Out := issueIf c (isNext .load) s
def execScalarStore (c : Nat) (s : State) : Out := issueIf c (isNext .store) s
def execScalarAtomic (c : Nat) (s : State) : Out := issueIf c (isNext .atomic) s
def execFence (c : Nat) (s : State) : Out := issueIf c (isNext .fence) s
/-- Scratchpad ranges that the KPUSH of context `n` reads: the descriptor and its nests (R129, R246). -/
def kpushReads (k : Core) (n : Nat) : List (Nat × Nat) :=
  let x := getCtx k n
  match fetchAt k x.pc.toNat with
  | .instr w _ =>
    let a := (readX x (fRs1 w)).toNat
    if (kpushFault k x a).isSome then []
    else
      let d := descOf (bv 1024 (spadBytes k.spad (winAddr x a) 128))
      [(winAddr x a, 128), (winAddr x d.loopAddr, 224 * nestCount d)]
  | _ => []

/-- The findings of an access of the given ranges. -/
def hitsIn (rs : List (Nat × Nat)) (hits : EccHits) : EccHits :=
  hits.filter fun h => rs.any fun p => overlaps (h.1 / 8 * 8) 8 p.1 p.2

/-- A KPUSH; what the check of the words that it reads finds is counted and reported, and it goes on with the words as read (R170). -/
def execKpush (c : Nat) (ecc : EccHits) (s : State) : Out :=
  onCore c <|
    let k := getCore s c
    match nextCtx k with
    | none => .next s
    | some n =>
      if coreServes s c ∧ isNext .kpush k n then issueIf c (isNext .kpush) (spadEcc s c (hitsIn (kpushReads k n) ecc)) else .next s
def execKwait (c : Nat) (s : State) : Out := issueIf c (isNext .kwait) s
def execKtest (c : Nat) (s : State) : Out := issueIf c (isNext .ktest) s
def execKdrain (c : Nat) (s : State) : Out := issueIf c (isNext .kdrain) s
def execKrecv (c : Nat) (s : State) : Out := issueIf c (isNext .krecv) s
def execKringStatus (c : Nat) (s : State) : Out := issueIf c (fun k n => kringCmd k n == some 0) s
def issueKringOpen (c : Nat) (s : State) : Out := issueIf c (fun k n => kringCmd k n == some 1) s
def execKringClose (c : Nat) (s : State) : Out := issueIf c (fun k n => kringCmd k n == some 2) s
def execKringRelease (c : Nat) (s : State) : Out := issueIf c (fun k n => kringCmd k n == some 3) s

end Sys2Proof.Machine
end

