-- ==== Sys2Proof/Machine/Groups.lean ====
section
/-! DEFINITION. Machine/Groups.lean: the life of accumulation groups (R255 to R262), the accumulator buffer (R269 to R277) and
fold channels (R278 to R284) as operations that the units share. -/

namespace Sys2Proof.Machine

open Sys2Proof

/-- Accumulator type of an operand pair (R60). -/
def accTypeOf (a b : ElType) : AccType :=
  if isInt a && isInt b then .int32 else if a == .fp64 || b == .fp64 then .fp64 else .fp32

def accFmt : AccType → Fmt
  | .fp64 => fmtFp64
  | _ => fmtFp32

/-! ### Access -/

/-- Group `g` of the array (`arr`) or set `g` of the matrix-vector path. -/
def getGroup (k : Core) (arr : Bool) (g : Nat) : Group := Tab.get {} (if arr then k.acc.groups else k.acc.sets) g
def putGroup (k : Core) (arr : Bool) (g : Nat) (x : Group) : Core :=
  if arr then { k with acc := { k.acc with groups := Tab.set k.acc.groups g x } }
  else { k with acc := { k.acc with sets := Tab.set k.acc.sets g x } }

/-- The partner of a group (R256). -/
def partner (g : Nat) : Nat := g ^^^ 1

/-- Group `g` lies in the storage of an open FP64 group: itself or its partner's. -/
def fp64Partner (k : Core) (arr : Bool) (g : Nat) : Bool :=
  let p := getGroup k arr (partner g)
  arr && p.st != .free && p.ty == .fp64

/-- Whether `g` is busy for a descriptor, and the owner: an open FP64 partner counts as open (R256). -/
def groupHeld (k : Core) (arr : Bool) (g : Nat) : Option Nat :=
  let x := getGroup k arr g
  if x.st ≠ .free then some x.owner
  else if fp64Partner k arr g then some (getGroup k arr (partner g)).owner
  else none

/-! ### Fold channels (R278, R281, R284) -/

def foldField (c : Fold) (lo n : Nat) : Nat := bf c.cfg.toNat lo n
def foldGroup (c : Fold) : Nat := foldField c 6 2
def foldCtx (c : Fold) : Nat := foldField c 8 3
def foldTrows (c : Fold) : Nat := if foldField c 11 6 = 0 then 64 else foldField c 11 6
def foldSlots (c : Fold) : Nat := if foldField c 17 6 = 0 then 64 else foldField c 17 6
def foldFirst (c : Fold) : Nat := foldField c 32 16
def foldLast (c : Fold) : Nat := foldField c 48 16
def foldType (c : Fold) : AccType := match foldField c 4 2 with | 1 => .int32 | 2 => .fp64 | _ => .fp32
def accBytes : AccType → Nat
  | .fp64 => 8
  | _ => 4
/-- Bytes of one slot of a channel (R279). -/
def foldSlotBytes (c : Fold) : Nat := foldTrows c * 64 * accBytes (foldType c)
/-- Buffer address of slot `i` of a channel: the fold area starts at 0x20000 (R270, R279). -/
def foldSlotAddr (c : Fold) (i : Nat) : Nat := 0x20000 + foldField c 23 9 * 256 + i * foldSlotBytes c
def getFold (k : Core) (ch : Nat) : Fold := Tab.get {} k.acc.folds ch
def putFold (k : Core) (ch : Nat) (x : Fold) : Core := { k with acc := { k.acc with folds := Tab.set k.acc.folds ch x } }

/-- Channels waiting on group `g`, in arming order. -/
def foldsWaiting (k : Core) (g : Nat) : List (Nat × Fold) :=
  (k.acc.folds.filter fun p => p.2.st == .waiting && foldGroup p.2 == g)

/-- The oldest channel that waits on group `g`. -/
def oldestWaiting (k : Core) (g : Nat) : Option Nat :=
  ((foldsWaiting k g).foldl (fun (b : Option (Nat × Nat)) (p : Nat × Fold) =>
    match b with
    | some (o, c) => if p.2.order < o then some (p.2.order, p.1) else some (o, c)
    | none => some (p.2.order, p.1)) none).map (·.2)

/-- An armed channel that holds group `g`. -/
def foldHolder (k : Core) (g : Nat) : Option Nat :=
  (k.acc.folds.find? fun p => p.2.st == .armed && foldGroup p.2 == g && (getGroup k true g).st == .folding).map (·.1)

/-! ### Group events (R259, R262) -/

def countAbandoned (k : Core) (n : Nat) : Core := { k with acc := { k.acc with abandoned := satAdd k.acc.abandoned n } }

/-- The adds of group `g` that still wait in the accumulator buffer are dropped with its contents. -/
def dropAdds (k : Core) (g : Nat) : Core :=
  let rest (l : List (List AbufAdd)) : List (List AbufAdd) := (l.map fun b => b.filter (·.group != g)).filter (!·.isEmpty)
  { k with acc := { k.acc with
      conflict := k.acc.conflict.map fun p => (p.1, p.2.filter (·.group != g))
      waiting := rest k.acc.waiting, foldWaiting := rest k.acc.foldWaiting } }

/-- The group's contents are abandoned and it is free; ABANDONED counts 1. -/
def abandonGroup (k : Core) (arr : Bool) (g : Nat) : Core :=
  countAbandoned (putGroup (if arr then dropAdds k g else k) arr g {}) 1

/-- A fold channel may take its group now (R278): it is FREE, no open FP64 group holds its storage, and for an FP64 fold neither does
the partner, unless it is OPEN under the channel's own context (R256). -/
def foldMayTake (k : Core) (f : Fold) : Bool :=
  let g := foldGroup f
  let p := getGroup k true (partner g)
  (getGroup k true g).st == .free && !fp64Partner k true g
    && (foldType f != .fp64 || p.st == .free || (p.st == .opened && p.owner == foldCtx f))

/-- Channel `ch` takes its free group (R278, R259): FOLDING under the channel's context, with the opening value. An FP64 fold abandons
the open partner whose storage it takes, as an FP64 descriptor does (R262; assumption 116). -/
def foldTake (k : Core) (aon ch : Nat) : Core :=
  let c := getFold k ch
  let g := foldGroup c
  let k0 := if foldType c = .fp64 ∧ (getGroup k true (partner g)).st ≠ .free then abandonGroup k true (partner g) else k
  let k1 := putGroup k0 true g { st := .folding, owner := foldCtx c, ty := foldType c }
  putFold k1 ch { c with st := .armed, since := if c.st = .waiting then c.since else aon }

/-- A descriptor of context `n` that names `g` must wait at issue (R259, R262): `ty` is the type it would open. -/
def groupWaits (k : Core) (arr : Bool) (g n : Nat) (ty : AccType) : Bool :=
  let other (o : Option Nat) : Bool := match o with | some w => w != n | none => false
  other (groupHeld k arr g)
    || (arr && (getGroup k arr g).st == .folding)
    || (arr && (getGroup k arr (partner g)).st == .folding && (fp64Partner k arr g || ty == .fp64))
    || (arr && ty == .fp64 && other (groupHeld k arr (partner g)))
    || (arr && (groupHeld k arr g).isNone && (foldsWaiting k g).any fun p => foldCtx p.2 == n)

/-- Open or join group `g` for a descriptor of context `n` with OPEN = `opn` whose pair gives type `ty` (R259, R262). -/
def joinGroup (k : Core) (arr : Bool) (g n : Nat) (ty : AccType) (opn : Bool) : Core :=
  let k1 := if fp64Partner k arr g then abandonGroup k arr (partner g) else k
  let k2 := if arr && ty == .fp64 && (getGroup k1 arr (partner g)).st == .opened then abandonGroup k1 arr (partner g) else k1
  let x := getGroup k2 arr g
  let fresh : Group := { st := .opened, owner := n, ty := ty }
  match x.st with
  | .free =>
    let k3 := putGroup k2 arr g fresh
    if opn then k3 else { k3 with acc := { k3.acc with implicitOpen := satAdd k3.acc.implicitOpen 1 } }
  | _ => if opn || x.ty != ty then putGroup (abandonGroup k2 arr g) arr g fresh else k2

/-- CLOSE: the group is free (R259). -/
def closeGroup (k : Core) (arr : Bool) (g : Nat) : Core := putGroup k arr g {}

/-! ### Sums -/

/-- Add an exact value to the accumulator `a` of type `ty` (R61, R67, R266). -/
def accAdd (ty : AccType) (a : W64) (v : FVal) : W64 × AccFlags :=
  match ty with
  | .int32 => let r := intAccumulate a.toNat (fToInt v); (BitVec.ofNat 64 r.1, r.2)
  | t => let r := fpAccumulate (accFmt t) a.toNat v; (BitVec.ofNat 64 r.1, r.2)

/-- Add a sequence of exact values in order. -/
def accAddAll (ty : AccType) (a : W64) (vs : List FVal) : W64 × AccFlags :=
  vs.foldl (fun (p : W64 × AccFlags) v => let r := accAdd ty p.1 v; (r.1, p.2.or r.2)) (a, {})

def orFlags (x : Group) (f : AccFlags) : Group := { x with sat := x.sat || f.sat, nonfin := x.nonfin || f.nonfin }

/-- Add `vs` in order to entry `e` of a group. -/
def addEntry (x : Group) (e : Nat) (vs : List FVal) : Group :=
  if vs.isEmpty then x
  else
    let r := accAddAll x.ty (Tab.get 0 x.acc e) vs
    orFlags { x with acc := Tab.set x.acc e r.1 } r.2

/-! ### The accumulator buffer (R269 to R274) -/

/-- Bank of a buffer address, and the row of the bank (R269). -/
def abufBank (q : Nat) : Nat := ((q >>> 2) ^^^ (q >>> 6) ^^^ (q >>> 10) ^^^ (q >>> 14)) &&& 0xF
def abufRow (q : Nat) : Nat := q >>> 6

/-- The buffer address of a word from its bank and row: the mapping is one to one (R269). -/
def abufAddr (bank row : Nat) : Nat := row * 64 + ((bank ^^^ row ^^^ (row >>> 4) ^^^ (row >>> 8)) &&& 0xF) * 4

/-- Bank of entry `e` of group `g` (R270). -/
def entryBank (g e : Nat) (ty : AccType) : Nat := abufBank (g * 0x8000 + e * accBytes ty)

def conflictQ (k : Core) (b : Nat) : List AbufAdd := Tab.get [] k.acc.conflict b

def addBank (x : AbufAdd) : Nat := entryBank x.group x.entry x.ty

/-- The batch fits: every bank has room for all of its adds (R273). -/
def batchFits (k : Core) (b : List AbufAdd) : Bool :=
  (List.range 16).all fun i => decide ((conflictQ k i).length + (b.filter (addBank · == i)).length ≤ 8)

/-- The batch `b` enters its conflict queues. -/
def enterBatch (k : Core) (b : List AbufAdd) : Core :=
  { k with acc := { k.acc with
      conflict := b.foldl (fun t x => Tab.set t (addBank x) (Tab.get [] t (addBank x) ++ [x])) k.acc.conflict } }

/-- The oldest batch of a source (`fold` the fold channels, else the fairlead) enters, if it fits; the other source is next (R271, R273). -/
def admitFrom (k : Core) (fold : Bool) : Option Core :=
  match (if fold then k.acc.foldWaiting else k.acc.waiting) with
  | [] => none
  | b :: rest =>
    if batchFits k b then
      let k1 := enterBatch k b
      some { k1 with acc := if fold then { k1.acc with foldWaiting := rest, foldTurn := false }
                            else { k1.acc with waiting := rest, foldTurn := true } }
    else none

/-- Batches enter, the sources in turn, each oldest first, until neither source's next batch fits (R271, R273). -/
def admitAll : Nat → Core → Core
  | 0, k => k
  | fuel + 1, k =>
    match admitFrom k k.acc.foldTurn with
    | some k1 => admitAll fuel k1
    | none => match admitFrom k (!k.acc.foldTurn) with
      | some k1 => admitAll fuel k1
      | none => k

def admitBatches (k : Core) : Core := admitAll (k.acc.waiting.length + k.acc.foldWaiting.length) k

/-- Split adds into batches of at most `n` (R271, R215). -/
def batches (n : Nat) : Nat → List AbufAdd → List (List AbufAdd)
  | 0, _ => []
  | fuel + 1, l => if l.isEmpty then [] else l.take (max 1 n) :: batches n fuel (l.drop (max 1 n))

/-- The fairlead hands batches of adds to the buffer. -/
def offerAdds (k : Core) (l : List (List AbufAdd)) : Core :=
  admitBatches { k with acc := { k.acc with waiting := k.acc.waiting ++ l } }

/-- A fold channel hands its slot's adds to the buffer, 16 in each cycle (R271, R281). -/
def offerFold (k : Core) (l : List AbufAdd) : Core :=
  admitBatches { k with acc := { k.acc with foldWaiting := k.acc.foldWaiting ++ batches 16 l.length l } }

/-- Adds of group `g` that have not retired. -/
def addsPending (k : Core) (g : Nat) : Bool :=
  (k.acc.conflict.any fun p => p.2.any (·.group == g)) || (k.acc.waiting ++ k.acc.foldWaiting).any fun b => b.any (·.group == g)

/-- An ECC finding of a buffer word is counted (R274). -/
def countAbuf (a : Acc) : Ecc → Acc
  | .corrected => { a with ceCount := satAdd a.ceCount 1 }
  | .uncorrectable => { a with ueCount := satAdd a.ueCount 1 }
  | .bitCopy _ => a

/-- ECC findings of accumulator-buffer words are counted, and uncorrectable ones reported (R274). -/
def abufEcc (s : State) (c : Nat) (hits : EccHits) : State :=
  hits.foldl (fun s h =>
    let k := getCore s c
    let s1 := setCore s c { k with acc := countAbuf k.acc h.2 }
    if h.2 = .uncorrectable then raiseCore s1 c 0x0602 2 (h.1 / 4 * 4) else s1) s

/-- Findings among the words of group `g`'s area (R270). -/
def groupHits (g : Nat) (hits : EccHits) : EccHits := hits.filter fun h => decide (h.1 / 0x8000 = g)

/-- The words of a buffer-resident group are read, at its writeback or as it moves into the cells (R274, R276, R277): an uncorrectable one
marks the group, whose entries stay as read. -/
def readArea (s : State) (c g : Nat) (hits : EccHits) : State :=
  let hs := groupHits g hits
  let s1 := abufEcc s c hs
  let k := getCore s1 c
  let x := getGroup k true g
  setCore s1 c (if hitsBad hs then putGroup k true g { x with ue := true } else k)

/-- What the check finds in the words of an add's entry, each with its place in the entry (R269, R274). -/
def eccOfAdd (x : AbufAdd) (ecc high : Option Ecc) : List (Nat × Ecc) :=
  (ecc.toList.map fun e => (0, e)) ++ (if x.ty = .fp64 then high.toList.map fun e => (4, e) else [])

/-- The head of bank `b` retires: its value is added to its entry (R272). ECC findings of the entry's word, and of the upper word of an FP64
entry, are counted (R274). -/
def retireAdd (k : Core) (b : Nat) (ecc high : Option Ecc) : Core :=
  match conflictQ k b with
  | [] => admitBatches k
  | x :: rest =>
    let found := eccOfAdd x ecc high
    let a1 := found.foldl (fun a e => countAbuf a e.2) k.acc
    let g := getGroup k true x.group
    let g1 := { addEntry g x.entry [x.value] with ue := g.ue || found.any fun e => e.2 == .uncorrectable }
    admitBatches (putGroup { k with acc := { a1 with conflict := Tab.set a1.conflict b rest } } true x.group g1)

/-! ### The owner enters IDLE (R259, R278) -/

/-- Every group of context `n` is abandoned, an FP64 group and its partner counting once, and its fold channels are IDLE. -/
def freeOwner (k : Core) (n : Nat) : Core :=
  let drop (arr : Bool) (k : Core) (g : Nat) : Core :=
    let x := getGroup k arr g
    if x.st ≠ .free ∧ x.owner = n then abandonGroup k arr g else k
  let k1 := [0, 1, 2, 3].foldl (drop false) ([0, 1, 2, 3].foldl (drop true) k)
  { k1 with acc := { k1.acc with folds := k1.acc.folds.map fun p =>
      if (p.2.st = .armed ∨ p.2.st = .waiting) ∧ foldCtx p.2 = n then (p.1, { p.2 with st := .idle, slots := [], busy := false }) else p } }

end Sys2Proof.Machine
end

