-- ==== Sys2Proof/Machine/Context.lean ====
section
/-! DEFINITION. Machine/Context.lean: START, HALT, RESUME and KILL of contexts, and a killed context's end (R121 to R127). -/

namespace Sys2Proof.Machine

open Sys2Proof

/-- HALT on context `n` (R124): a running context, or one that waits in KWAIT, KDRAIN, KRECV, KPUSH or FENCE, halts at its
instruction; one that awaits a claim or narrow data halts when it retires. -/
def haltRequest (k : Core) (n : Nat) : Core :=
  let x := getCtx k n
  let stop (x : Ctx) : Ctx := { x with st := .halted, wait := none, faultPc := x.pc.setWidth 32 }
  match x.st with
  | .running => putCtx k n (stop x)
  | .waiting =>
    match x.wait with
    | some (.kclaim _) | some (.narrow _) => putCtx k n { x with haltPending := true }
    | _ => { putCtx k n (stop x) with krecvOrder := k.krecvOrder.filter (· != n) }
  | _ => k

/-- START (R124): the context as it begins at ENTRY. -/
def started (x : Ctx) : Ctx :=
  { x with st := .running, pc := BitVec.ofNat 64 (x.entry.toNat * 2), x := [], f := [], fflags := 0, frm := 0, cause := 0
           queue := [], nextSeq := 1, window := [], drainSum := 0, drainBad := false, wait := none, haltPending := false
           killPending := false, resv := none, hostSince := none }

/-- A context of the core may START: boot stage 3 has commissioned the cores (R168, R535), and the core is in service with its epoch
current (R30, R41, R623). -/
def coreReady (s : State) (c : Nat) : Bool := coreServes s c && decide (s.fwc.stage ≥ 4)

def execCtxStart (c n : Nat) (s : State) : Out :=
  onCtx c n <|
    let x := ctxAt s c n
    if x.st ≠ .idle ∨ !coreReady s c then .next s
    else if x.base.toNat * 64 + winBound x > spadSize then
      .next (setCtx s c n { x with cause := BitVec.ofNat 8 causeBoundCfg })
    else .next (setCtx (trace s (0x10 + clusterOf c) 35) c n (started x))

def execCtxHalt (c n : Nat) (s : State) : Out :=
  onCtx c n <| .next (setCore s c (haltRequest (getCore s c) n))

def execCtxResume (c n : Nat) (s : State) : Out :=
  onCtx c n <|
    let x := ctxAt s c n
    if x.st = .halted ∧ !x.killPending then .next (setCtx s c n { x with st := .running }) else .next s

/-! ### KILL and IDLE -/

/-- A dispatched descriptor's entries overlap the range (R388). -/
def runsOverlap (k : Core) (lo n : Nat) : Bool :=
  k.runs.any fun r => r.holds.any fun h => decide (h.lo < lo + n) && decide (lo < h.hi)

def hasGranted (t : Tab SlotSt) : Bool := t.any fun p => match p.2 with | .granted _ _ => true | _ => false

/-- A closing ring may close: every granted fill is over, and no dispatched descriptor overlaps its slots (R388). -/
def ringMayClose (k : Core) (g : Ring) : Bool := g.closing && !hasGranted g.st && !runsOverlap k g.base (g.slots * g.size)

def closedRing (g : Ring) : Ring := { g with opened := false, closing := false, st := [], pendingRel := [] }

/-- Rings of context `n` start to close; those that may close do. -/
def closeRingsOf (k : Core) (n : Nat) : Core :=
  { k with mesh := { k.mesh with rings := k.mesh.rings.map fun p =>
      if p.2.opened ∧ p.2.owner = n then
        let g := { p.2 with closing := true, pendingRel := [] }
        (p.1, if ringMayClose k g then closedRing g else g)
      else p } }

/-- KILL (R124): queued descriptors are discarded with CANCELLED; issued ones go on; requests under way deliver nothing. -/
def killCtx (s : State) (c n : Nat) : State :=
  let k := getCore s c
  let x := getCtx k n
  let st := match x.st with | .running | .waiting => .halted | st => st
  let k1 := putCtx k n { x with st := st, wait := none, haltPending := false, killPending := true
                                faultPc := if st = x.st then x.faultPc else x.pc.setWidth 32 }
  let k2 := { k1 with
    krecvOrder := k1.krecvOrder.filter (· != n)
    claims := k1.claims.map fun r => if r.ctx = n then { r with dead := true } else r
    runs := k1.runs.map fun r => if r.ctx = n then { r with killed := true } else r
    spad := { k1.spad with queue := k1.spad.queue.map fun e => if e.ctx = n then { e with dead := true } else e } }
  setCore s c (closeRingsOf (discardQueue s c k2 n stCancelled) n)

def execCtxKill (c n : Nat) (s : State) : Out :=
  onCtx c n <| if (ctxAt s c n).st = .idle then .next s else .next (killCtx s c n)

/-- A killed context enters IDLE once nothing of it is outstanding: its groups, fold channels and rings are freed (R124, R259,
R278, R388). -/
def idleCtx (s : State) (c n : Nat) : State :=
  let k := getCore s c
  let x := getCtx k n
  if x.killPending ∧ outstanding k n = 0 then setCore s c (closeRingsOf (freeOwner (putCtx k n { x with st := .idle, killPending := false }) n) n)
  else s

end Sys2Proof.Machine
end

