-- ==== Sys2Proof/Machine/Issue.lean ====
section
/-! DEFINITION. Machine/Issue.lean: the three stages of issue (R138 to R143, R672 to R675), with the checks of every
operation, and DESCRIPTOR_ISSUE, SLOT_TIMEOUT at issue (R384, R385). -/

namespace Sys2Proof.Machine

open Sys2Proof

/-! ### Helpers over checks -/

/-- The first failed check of a list of (failed, status) pairs. -/
def firstFail : List (Bool × Nat) → Option Nat
  | [] => none
  | (true, st) :: _ => some st
  | (false, _) :: t => firstFail t

/-- The slots in the order A, B, D, X with their which. -/
def slotList (d : Desc) : List (Which × Slot) := [(.a, d.a), (.b, d.b), (.d, d.d), (.x, d.x)]

/-- The operation uses the slot (R137). -/
def opUses (op : Nat) : Which → Bool
  | .a => usesA op
  | .b => usesB op
  | .d => true
  | .x => usesX op

/-- Operations without output roles (R181). -/
def isExecOp (op : Nat) : Bool := !isTileOp op

/-! ### Row 2: reserved and required-zero fields (R134 to R137, R672, R674) -/

/-- A slot breaks R136. A slot X with a LOC in a matvec or a predict is left to the rules that name OP_UNSUPPORTED for it (R249, R314, R672);
with LOC 0 it is absent and must be all zero as any other. -/
def slotZeroBad (d : Desc) (w : Which) (s : Slot) : Bool :=
  if opUses d.op w then (if w == .x && s.loc == 0 then s.raw != 0 else slotReserved s)
  else if w == .x && isTileOp d.op && s.loc != 0 then false
  else s.raw != 0

/-- A stride of a header slot has nonzero reserved bits, or a STEP beside DIM 7 (R184). -/
def strideBad (s : Nat) : Bool := bf s 16 13 != 0 || (strideDim s == 7 && strideStep s != 0)

/-- A level record breaks R178, R179, R184 or R195. -/
def levelZeroBad (d : Desc) (l : Level) : Bool :=
  bf l.raw 7 10 != 0
    || (if l.boundSrc then l.boundImm != 0 else l.boundReg != 0)
    || (if l.startSrc then l.startImm != 0 else l.startReg != 0)
    || (l.tile != 0 && l.role != .outRow && l.role != .outCol)
    || (slotList d).any fun (p : Which × Slot) =>
      if opUses d.op p.1 then p.2.hdr && strideBad (strideOf p.1 l) else strideOf p.1 l != 0

def nestZeroBad (d : Desc) (n : Nest) : Bool :=
  bf n.raw 16 16 != 0 || bf n.order 18 14 != 0 || bf n.raw 96 160 != 0
    || (isTileOp d.op && n.lenOf != 0)
    || (usedLevels n).any (levelZeroBad d)
    || (n.lv.drop n.levels).any (fun l => l.raw != 0)

def reservedBad (d : Desc) (ns : List Nest) : Bool :=
  word0Reserved d || argsReserved d || (slotList d).any (fun (p : Which × Slot) => slotZeroBad d p.1 p.2) || ns.any (nestZeroBad d)

/-! ### Row 4: types (R52, R57, R59, R68, R69, R73, R76, R249, R287, R314, R330, R333, R344) -/

def tyOf (s : Slot) : Option ElType := elTypeOf s.ty

/-- A used slot with a LOC names a type outside R52. -/
def badTypeCode (d : Desc) : Bool :=
  (slotList d).any fun (p : Which × Slot) => opUses d.op p.1 && !(d.op == opSend && p.1 == .d) && p.2.loc != 0 && (tyOf p.2).isNone

/-- An MX operand with a header is read with its blocks, which lie along dimension 0, on an axis that is not the reduction's (R57): a
REDUCE level walks another dimension, or levels of other roles alone walk dimension 0. -/
def mxAxisBad (w : Which) (s : Slot) (n : Nest) : Bool :=
  (match tyOf s with | some t => isMx t | none => false) && s.hdr &&
    (let walks (red : Bool) : List Nat :=
      ((usedLevels n).filter fun l => (l.role == .reduce) == red && strideDim (strideOf w l) != 7).map fun l => strideDim (strideOf w l)
     (walks true).any (· != 0) || ((walks false).contains 0 && !(walks true).contains 0))

/-- Pairing, output type and rounding of an operation that computes and writes values. -/
def pairTypesBad (d : Desc) (ns : List Nest) : Bool :=
  match tyOf d.a, tyOf d.b, elTypeOf d.outType with
  | some a, some b, some o =>
    (isTileOp d.op && ns.any (fun n => mxAxisBad .a d.a n || mxAxisBad .b d.b n)) || !mayPair a b
      || !mayOutput (accTypeOf a b == .fp32) (accTypeOf a b == .int32) o
      || (isInt a && d.round != 0)
      || (d.op == opMatvec && (decide (elBits a > 16) || decide (elBits b > 16)))
  | _, _, _ => true

/-- A converting copy is refused (R76). -/
def convertBad (d : Desc) (a o : ElType) : Bool :=
  !mayConvert a o || (a != o && isInt a && !widening a o && d.round != 0)

def estimateType (t : ElType) : Bool := t == .e4m3 || t == .e5m2 || t == .bf16 || t == .fp4

/-- FP32 bits are a NaN. -/
def isNan32 (w : Nat) : Bool := (fmtDecode fmtFp32 w).isNan

/-- Row 4 of R672. The pairs of types of a matmul, matvec, merge, intersect or copy are compared only where the slots that carry them
name a location; a required slot without one is refused in row 5 (assumption 117). A copy that is no tensor copy of R328 has its types held
against R76, whatever its HDR bits, which row 5 refuses. ROUND 3 is refused of a widening copy too (R68 against R76: assumption 147). -/
def typesBad (d : Desc) (ns : List Nest) : Bool :=
  d.round == 3 || badTypeCode d ||
  (match d.op with
  | 1 | 2 | 3 | 4 => (d.d.loc != 0 && d.d.ty != d.outType) || (elTypeOf d.outType).isNone
      || (d.a.loc != 0 && d.b.loc != 0 && pairTypesBad d ns)
  | 6 =>
    if d.a.loc = 0 ∨ d.d.loc = 0 then false
    else if d.a.hdr && d.d.hdr && !(d.a.loc == 1 && d.d.loc == 1) then d.a.ty != d.d.ty
    else match tyOf d.a, tyOf d.d with
      | some a, some o => convertBad d a o
      | _, _ => true
  | 7 => match tyOf d.a, tyOf d.d with
    | some a, some o => isMx a || isMx o || convertBad d a o
    | _, _ => true
  | 8 => d.a.ty != d.d.ty || isNan32 (argZeroThresh d)
  | 9 => d.a.ty != d.d.ty
  | 10 =>
    let ok (s : Slot) : Bool := match tyOf s with | some t => estimateType t | none => false
    !ok d.a || !ok d.b || d.outType != 0 || d.round != 0
  | 11 => match tyOf d.a with
    | some t => !(t == .fp32 || t == .fp16 || t == .bf16 || t == .e4m3 || t == .e5m2 || t == .fp4)
    | none => true
  | _ => false)

/-! ### Row 5: operation conditions -/

/-- Work modes of a matmul (R196). -/
inductive Mode where
  | dense | nm | feed | expansion | packedMask | tileSkip | inner | rowProduct
deriving DecidableEq, Repr

def unstructured (f : Nat) : Bool := f == 2 || f == 4 || f == 5

/-- The mode of a matmul; none where no row of R196 matches. -/
def modeOf (d : Desc) : Option Mode :=
  let fa := d.a.fmt
  let fb := d.b.fmt
  let masked := d.x.loc != 0
  let one (f : Nat) (tr : Bool) : Option Mode :=
    if f = 1 then some (if masked then .tileSkip else .nm)
    else if f = 3 then (if tr then none else some (if masked then .tileSkip else .feed))
    else if unstructured f then some (if masked then .tileSkip else if tr then .expansion else .feed)
    else none
  if fa = 0 ∧ fb = 0 then some (if masked then .packedMask else .dense)
  else if fb = 0 then one fa d.transA
  else if fa = 0 then one fb d.transB
  else if unstructured fa && unstructured fb && !d.transA then (if !d.transB then some .inner else if masked then none else some .rowProduct)
  else none

/-- Sixteen times the reduction depth of the pair (R58, R59). -/
def pairDepth16 (d : Desc) : Nat :=
  match tyOf d.a, tyOf d.b with
  | some a, some b => min (depth16 a) (depth16 b)
  | _, _ => 16

def countRole (n : Nest) (r : Role) : Nat := ((usedLevels n).filter (·.role == r)).length

def matmulBad (d : Desc) (ns : List Nest) : Bool :=
  d.a.loc != 1 || d.b.loc != 1 || d.d.loc != 1
    || (d.x.loc != 0 && (d.x.loc != 1 || !d.x.hdr || d.x.fmt != 2))
    || d.stat == 3 || decide (d.pack > 2) ||
  match modeOf d with
  | none => true
  | some m =>
    (m != .dense && m != .nm && (d.stat != 0 || d.pack != 0 || ns.any fun n => decide (countRole n .reduce > 1)))
      || (d.stat != 0 && (decide (pairDepth16 d < 16) || d.pack != 0
          || (m == .nm && (if d.stat = 1 then d.a.fmt != 1 else d.b.fmt != 1))))
      || (d.pack != 0 && (m != .dense || d.stat != 0 || !d.open_ || !d.close))

def matvecBad (d : Desc) : Bool :=
  d.a.loc != 1 || d.b.loc != 1 || d.d.loc != 1 || decide (d.a.fmt > 2) || d.b.fmt != 0
    || d.transA || d.transB || d.stat != 0 || d.pack != 0 || d.x.raw != 0

/-- Every stride of slot `w` leaves it in place: DIM 7 for a header slot, zero for a raw one (R218). -/
def inPlace (n : Nest) (w : Which) (hdr : Bool) : Bool :=
  (usedLevels n).all fun l => if hdr then strideDim (strideOf w l) == 7 else strideOf w l == 0

def mergeBad (d : Desc) (ns : List Nest) : Bool :=
  d.a.loc != 1 || d.b.loc != 1 || d.d.loc != 1 || !d.a.hdr || !d.b.hdr || !unstructured d.a.fmt || !unstructured d.b.fmt
    || !(d.outFmt == 0 || d.outFmt == 2 || d.outFmt == 4) || (d.outFmt != 0 && !d.d.hdr)
    || ns.any fun n => !inPlace n .a true || !inPlace n .b true || !inPlace n .d d.d.hdr

def fillBad (d : Desc) : Bool := d.d.loc != 1 || d.d.hdr || d.d.ty != 0 || d.d.fmt != 0

/-- Slots A and D both name a location of R328. -/
def dmaLocsBad (d : Desc) : Bool := d.a.loc == 0 || d.d.loc == 0

def copyBad (d : Desc) : Bool :=
  dmaLocsBad d || d.a.hdr != d.d.hdr || (d.a.hdr && d.a.fmt != d.d.fmt) || (d.a.loc == 1 && d.d.loc == 1 && d.a.hdr)

def transposeBad (d : Desc) : Bool := dmaLocsBad d || !d.a.hdr || !d.d.hdr || d.a.fmt != 0 || d.d.fmt != 0

def compactBad (d : Desc) : Bool :=
  d.a.loc != 1 || d.a.fmt != 0 || !d.a.hdr || d.d.loc == 0 || !d.d.hdr
    || argTgtFmt d == 0 || decide (argTgtFmt d > 5)
    || !flagsParamsOk (argTgtFmt d) (argTgtFlags d) (argTgtP0 d) (argTgtP1 d)
    || ((argTgtFlags d).testBit 0 && !(argTgtFmt d == 1 && argTgtP0 d == 2 && argTgtP1 d == 4))
    || d.d.fmt != argTgtFmt d

def loadBad (d : Desc) : Bool :=
  !(d.a.loc == 2 || d.a.loc == 3) || d.d.loc != 1 || !d.a.hdr || !d.d.hdr || d.a.fmt != d.d.fmt

/-- Slot D of a predict or top-k select (R314, R321). -/
def maskSlotBad (d : Desc) (ns : List Nest) : Bool :=
  d.d.loc != 1 || !d.d.hdr || d.d.fmt != 2 || d.d.ty != 0 || ns.any fun n => !inPlace n .d true

def predictBad (d : Desc) (ns : List Nest) : Bool :=
  d.a.loc != 1 || d.b.loc != 1 || decide (d.a.fmt > 1) || decide (d.b.fmt > 1) || maskSlotBad d ns || d.x.raw != 0
    || d.spill || !d.open_ || !d.close || d.stat != 0 || d.pack != 0 || decide (argTopk d > 64)
    || ns.any fun n => countRole n .outRow != 1 || countRole n .outCol != 1 || countRole n .batch != 0 || countRole n .repeat_ != 0
      || (usedLevels n).any fun l => l.role == .outCol && (l.tile != 0 || l.startSrc || l.startImm % 64 != 0)

def topkBad (d : Desc) (ns : List Nest) : Bool :=
  d.a.loc != 1 || d.a.hdr || d.a.fmt != 0 || maskSlotBad d ns || decide (argTopk d > 64)
    || ns.any fun n => decide (8 * lenOf d n .a / slotBits d .a > 4096)

/-- TARGET and SEQ of a slot-ring send (R380); the tree entry of a tree send (R452). -/
def sendTarget (d : Desc) : Nat := bf d.d.raw 0 5
def sendSeq (d : Desc) : Nat := bf d.d.raw 5 32
def sendTreeNo (d : Desc) : Nat := bf d.d.raw 0 6

def sendBad (s : State) (c : Nat) (d : Desc) (ns : List Nest) : Bool :=
  match argDstKind d with
  | 0 => d.a.loc != 1 || d.a.hdr || d.d.raw != 0 || decide (argDstCore d > 255)
      || ns.any fun n => decide (lenOf d n .a > 56)
  | 1 => d.a.loc != 1 || d.a.hdr || d.d.raw != 2 ^ 62 + bf d.d.raw 0 37 || decide (argDstCore d > 255)
      || ns.any fun n => lenOf d n .a == 0 || (usedLevels n).any fun l => l.strD != 0
  | 2 => d.a.loc != 1 || d.d.raw != 3 * 2 ^ 62 + bf d.d.raw 0 6
      || treeRole (getTree s (sendTreeNo d)) != 1 || partOfCore s c != some (treePart (getTree s (sendTreeNo d)))
  | _ => true

/-- Row 5 of R672 but for the loop nests. Only a matmul may name a STAT or a PACK (R236, R245). -/
def opBad (s : State) (c : Nat) (d : Desc) (ns : List Nest) : Bool :=
  (d.op != opMatmul && (d.stat != 0 || d.pack != 0)) ||
  match d.op with
  | 1 => d.outFmt != 0 || matmulBad d ns
  | 2 => d.outFmt != 0 || matvecBad d
  | 3 | 4 => mergeBad d ns
  | 5 => d.outFmt != 0 || fillBad d
  | 6 => d.outFmt != 0 || copyBad d
  | 7 => d.outFmt != 0 || transposeBad d
  | 8 => d.outFmt != 0 || compactBad d
  | 9 => d.outFmt != 0 || loadBad d
  | 10 => d.outFmt != 0 || predictBad d ns
  | 11 => d.outFmt != 0 || topkBad d ns
  | _ => d.outFmt != 0 || sendBad s c d ns

/-! Loop-nest conditions (R181 to R190, R674). -/

def roleOk : Role → Bool
  | .unused | .reserved => false
  | _ => true

/-- Largest tile extent under PACK (R188, R244). -/
def packSize (d : Desc) : Nat := if d.op = opMatmul then (match d.pack with | 1 => 32 | 2 => 16 | _ => 64) else 64

def rolesBad (d : Desc) (n : Nest) : Bool :=
  if d.op = opMatmul ∨ d.op = opPredict then
    decide (countRole n .outRow > 1) || decide (countRole n .outCol > 1) || countRole n .reduce == 0
  else if d.op = opMatvec then
    decide (countRole n .outRow > 1) || countRole n .outCol != 0 || countRole n .reduce == 0
      || (usedLevels n).any fun l => l.role == .outRow && l.tile != 0 && l.tile != 64
  else countRole n .outRow != 0 || countRole n .outCol != 0 || countRole n .reduce != 0

/-- ORDER breaks R185. -/
def orderBad (n : Nest) : Bool :=
  n.order != 0 &&
    (let ent := (List.range n.levels).map fun d => bf n.order (3 * d) 3
     let red (i : Nat) : Bool := match n.lv[i]? with | some l => l.role == .reduce | none => false
     !((List.range n.levels).all ent.contains) || bf n.order (3 * n.levels) 32 != 0
       || !((ent.dropWhile red).all fun i => !red i))

/-- A header stride breaks R184 or, in an operation of executions, R181. -/
def hdrStrideBad (d : Desc) (w : Which) (s : Slot) (n : Nest) : Bool :=
  s.hdr && (usedLevels n).any fun l =>
    let t := strideOf w l
    strideDim t == 6 || (isExecOp d.op && strideDim t != 7) || (strideDim t == 0 && s.fmt != 0 && strideStep t != 1)

/-- The slot advances on the level (R182). -/
def advances (s : Slot) (w : Which) (l : Level) : Bool := if s.hdr then strideDim (strideOf w l) != 7 else strideOf w l != 0

/-- TRANS of an operand disagrees with its reduction levels (R183, R184). -/
def transBad (s : Slot) (w : Which) (tr : Bool) (n : Nest) : Bool :=
  if !s.hdr then s.loc != 0 && tr
  else
    let dims := ((usedLevels n).filter fun l => l.role == .reduce && strideDim (strideOf w l) != 7).map fun l => strideDim (strideOf w l)
    match dims with
    | [] => false
    | a :: t => t.any (· != a) || tr != (a != 0)

/-- A carried descriptor covers more than one planned tile (R190). -/
def carriedBad (d : Desc) (n : Nest) : Bool :=
  (!d.open_ || !d.close) &&
    prodList (((usedLevels n).filter fun l => l.role != .reduce).map fun l => ceilDiv (max 1 l.planned) (stepOf l)) != 1

def nestBad (d : Desc) (n : Nest) : Bool :=
  n.version != 1 || decide (n.levels > 6)
    || (usedLevels n).any (fun l => !roleOk l.role || (((l.role == .outRow) || (l.role == .outCol)) && decide (stepOf l > packSize d)))
    || rolesBad d n || orderBad n
    || (slotList d).any (fun (p : Which × Slot) => opUses d.op p.1 && !(d.op == opSend && p.1 == .d) && hdrStrideBad d p.1 p.2 n)
    || (isTileOp d.op &&
        ((usedLevels n).any (fun l =>
            (l.role == .outCol && advances d.a .a l) || (l.role == .outRow && advances d.b .b l)
              || (l.role == .reduce && (advances d.d .d l || (d.x.loc != 0 && advances d.x .x l))))
          || (slotList d).any (fun (p : Which × Slot) => p.2.loc != 0 && !p.2.hdr && p.2.fmt != 0)
          || transBad d.a .a d.transA n || transBad d.b .b d.transB n || carriedBad d n))

/-! ### Rows 6 to 9: ranges (R141, R143, R164, R48, R441, R46) -/

/-- Context-relative read ranges of LOC 1 slots, and write ranges with the flag words. -/
def readRanges (d : Desc) : List (Nat × Nat) :=
  ([d.a, d.b, d.x].filter fun s => s.loc == 1 && s.len != 0).map fun s => (s.addr, s.len)
def writeRanges (d : Desc) : List (Nat × Nat) :=
  (if d.op ≠ opSend ∧ d.d.loc = 1 ∧ d.d.len ≠ 0 then [(d.d.addr, d.d.len)] else [])
    ++ (if d.flagsLen ≠ 0 then [(d.flagsAddr, d.flagsLen)] else [])

def selfOverlap (d : Desc) : Bool :=
  let ws := writeRanges d
  let hit (a b : Nat × Nat) : Bool := overlaps a.1 a.2 b.1 b.2
  ws.any (fun w => (readRanges d).any (hit w)) || (match ws with | [a, b] => hit a b | _ => false)

/-- A range ends beyond BOUND. Addresses count from BASE as it was at the push, BOUND is the one at issue (DEDUCED, assumption 119). -/
def windowBad (x : Ctx) (d : Desc) : Bool :=
  (slotList d).any (fun (p : Which × Slot) => p.2.loc == 1 && !(d.op == opSend && p.1 == .d) && !inWindow x p.2.addr p.2.len)
    || !inWindow x d.flagsAddr d.flagsLen

def remoteBad (s : State) (sl : Slot) : Bool :=
  !routeValid s sl.module || sl.module == ownModule s || decide (sl.addr + sl.len > hbmEnd)

def unmappedBad (s : State) (d : Desc) : Bool :=
  (slotList d).any (fun (p : Which × Slot) =>
    p.2.len != 0 && ((p.2.loc == 2 && spaceOf p.2.addr p.2.len == .unmapped)
      || (p.2.loc == 3 && !(d.op == opSend && p.1 == .d) && remoteBad s p.2)))
    || (d.op == opSend && argDstKind d != 2 && !coreLive s (argDstCore d))

def regionBad (s : State) (c : Nat) (d : Desc) : Bool :=
  (slotList d).any fun (p : Which × Slot) =>
    p.2.loc == 2 && p.2.len != 0 && spaceOf p.2.addr p.2.len == .hbm && !regionsOk s (partOfCore s c) p.2.addr p.2.len

/-- The lowest class that the context's descriptors may name: a floor of 0 acts as 1 on a core without C0 (R516). -/
def classFloor (k : Core) (x : Ctx) : Nat := if x.classFloor = 0 ∧ !k.mesh.c0En then 1 else x.classFloor.toNat

/-- Stage 1 (R672): the status of the first check that fails. -/
def staticStage (s : State) (c n : Nat) (q : QDesc) : Option Nat :=
  let k := getCore s c
  let x := getCtx k n
  let d := descOf q.desc
  let ns := q.nests.map nestOf
  firstFail [(d.op == 0 || decide (d.op > 12), stOp), (reservedBad d ns, stReserved), (decide (d.cls < classFloor k x), stClass),
    (typesBad d ns, stType), (opBad s c d ns || ns.any (nestBad d), stOp), (selfOverlap d, stOverlap), (windowBad x d, stBound),
    (unmappedBad s d, stUnmapped), (regionBad s c d, stRegion)]

/-- The context with the window base of the push. -/
def qCtx (k : Core) (n : Nat) (q : QDesc) : Ctx := { getCtx k n with base := BitVec.ofNat 18 (q.base / 64) }

/-! ### Stage 2 (R140 to R142, R259, R358, R384) -/

def ranges64 (base : Nat) (wr : Bool) (r : Nat × Nat) : SbRange :=
  { lo := (base + r.1) / 64 * 64, hi := align64 (base + r.1 + r.2), wr := wr }

/-- The scoreboard ranges of a descriptor (R141). -/
def sbRanges (x : Ctx) (d : Desc) : List SbRange :=
  let base := x.base.toNat * 64
  (readRanges d).map (ranges64 base false) ++ (writeRanges d).map (ranges64 base true)

def conflicts (rs : List SbRange) (e : SbEntry) : Bool :=
  rs.any fun r => decide (r.lo < e.hi) && decide (e.lo < r.hi) && (r.wr || e.writer)

def rangeConflict (a b : SbRange) : Bool := decide (a.lo < b.hi) && decide (b.lo < a.hi) && (a.wr || b.wr)

/-- Entries in use after the ranges of one descriptor have entered. A read may join an entry that stood before; two ranges of the descriptor
itself never share one (R143). -/
def sbAfter (l : List SbEntry) (rs : List SbRange) : List SbEntry := (rs.foldl sbTake (l.map fun e => (e, false))).map (·.1)

/-- Slots of an open ring that the physical range overlaps: every one must be filled with its expected number (R384). -/
def ringReady (g : Ring) (lo len : Nat) : Bool :=
  (List.range g.slots).all fun i =>
    !overlaps lo len (g.base + i * g.size) g.size
      || (match slotState g.st i with
          | .filled q => inRing g.head g.slots q && slotOfSeq g.slots q == i
          | _ => false)

/-- Relay slot `i` holds its expected tile. -/
def relayReady (h : Hal) (i : Nat) : Bool :=
  match (relaySlot h i).tile with
  | some _ => !(relaySlot h i).released
  | none => false

/-- The physical read ranges of the descriptor wait for no ring or relay slot (R384). -/
def slotsReady (k : Core) (x : Ctx) (d : Desc) : Bool :=
  (readRanges d).all fun r =>
    let lo := x.base.toNat * 64 + r.1
    (k.mesh.rings.all fun p => !p.2.opened || ringReady p.2 lo r.2)
      && (!halEnabled k.dma.hal || (List.range 2).all fun i =>
        !overlaps lo r.2 (halSlotAddr k i) (halSlotBytes k.dma.hal) || relayReady k.dma.hal i)

/-- A member's slot is free: its tile has been forwarded (except at the tail) and released (R360), and no complete tile waits there to enter. -/
def relayFree (h : Hal) (i : Nat) : Bool :=
  !(relaySlot h i).arrived && match (relaySlot h i).tile with
  | none => true
  | some _ => (relaySlot h i).released && ((relaySlot h i).forwarded || halRole h == 3)

/-- A load or DMA copy of the chain's context whose slot D is exactly relay slot `i` of the head (R358); `base` is its window's. -/
def fillsSlot (k : Core) (n base : Nat) (d : Desc) (i : Nat) : Bool :=
  let h := k.dma.hal
  halEnabled h && halRole h == 1 && halCtx h == n && (d.op == opLoad || (d.op == opCopy && d.a.loc != 1)) && d.d.loc == 1
    && base + d.d.addr == halSlotAddr k i && d.d.len == halSlotBytes h

/-- A head fill of relay slot `i` has passed stage 2 and not completed. -/
def fillUnderWay (k : Core) (i : Nat) : Bool :=
  (k.runs.any fun r => fillsSlot k r.ctx r.base (descOf r.desc) i)
    || (List.range 8).any fun n => match (getCtx k n).queue.head? with
      | some q => q.passed && fillsSlot k n q.base (descOf q.desc) i
      | none => false

/-- Relay slot of the next tile that a fill is to bring to the head: that of the next tile to enter, unless it is on its way, then the other
(R357, R358). -/
def nextFillSlot (k : Core) : Nat :=
  let taken (i : Nat) : Bool := fillUnderWay k i || (relaySlot k.dma.hal i).arrived
  let i := k.dma.hal.tile.toNat % 2
  if taken i && !taken (1 - i) then 1 - i else i

/-- The descriptor fills the next relay slot at the head of a running chain (R358). -/
def isHeadFill (k : Core) (n : Nat) (x : Ctx) (d : Desc) : Bool := fillsSlot k n (x.base.toNat * 64) d (nextFillSlot k)

/-- The descriptor is a head fill whose slot is not free (R358, R360). -/
def fillWaits (k : Core) (n : Nat) (x : Ctx) (d : Desc) : Bool :=
  isHeadFill k n x d && !(relayFree k.dma.hal (nextFillSlot k) && !fillUnderWay k (nextFillSlot k))

/-- The descriptor waits on the chain: it is a head fill without a free slot, or it reads an unfilled relay slot (R362). -/
def waitsOnChain (k : Core) (n : Nat) (x : Ctx) (d : Desc) : Bool :=
  let h := k.dma.hal
  fillWaits k n x d
    || (halEnabled h && (readRanges d).any fun r => (List.range 2).any fun i =>
      overlaps (x.base.toNat * 64 + r.1) r.2 (halSlotAddr k i) (halSlotBytes h) && !relayReady h i)

/-- The relay of the member has stopped for good (R362, R364). -/
def chainOver (k : Core) : Bool := k.dma.hal.st == .broken || k.dma.hal.st == .stopped

/-- The group a descriptor names, and whether it is one of the array's. -/
def descGroup (d : Desc) : Option (Bool × Nat) :=
  if d.op = opMatmul ∨ d.op = opPredict then some (true, d.agroup)
  else if d.op = opMatvec then some (false, d.agroup)
  else none

def descAccType (d : Desc) : AccType :=
  if d.op = opPredict then .fp32
  else match tyOf d.a, tyOf d.b with
    | some a, some b => accTypeOf a b
    | _, _ => .fp32

def groupBlocks (k : Core) (n : Nat) (d : Desc) : Bool :=
  match descGroup d with
  | some (arr, g) => groupWaits k arr g n (descAccType d)
  | none => false

/-- The head `q` of context `n` is in stage 2: it has passed stage 1, or passes it when the issue unit looks at it (R138). -/
def inStage2 (s : State) (c n : Nat) (q : QDesc) : Bool := !q.passed && (q.past1 || (staticStage s c n q).isNone)

/-- Heads of other contexts in stage 2 that are older than `q`. -/
def olderHeads (s : State) (c n : Nat) (q : QDesc) : List (Ctx × QDesc) :=
  let k := getCore s c
  (List.range 8).filterMap fun m =>
    let x := getCtx k m
    match x.queue.head? with
    | some h => if m ≠ n ∧ h.push < q.push ∧ inStage2 s c m h then some (qCtx k m h, h) else none
    | none => none

/-- The head of context `n` waits in stage 2 on something other than free entries. -/
def stage2Blocked (s : State) (c n : Nat) (q : QDesc) : Bool :=
  let k := getCore s c
  let x := qCtx k n q
  let d := descOf q.desc
  let rs := sbRanges x d
  k.sb.any (conflicts rs)
    || (olderHeads s c n q).any (fun (p : Ctx × QDesc) => (sbRanges p.1 (descOf p.2.desc)).any fun a => rs.any (rangeConflict a))
    || groupBlocks k n d || !slotsReady k x d || fillWaits k n x d

/-- Order among heads: lowest class first, then earliest push (R139). -/
def before (a b : QDesc) : Bool :=
  let ca := (descOf a.desc).cls
  let cb := (descOf b.desc).cls
  decide (ca < cb) || (ca == cb && decide (a.push < b.push))

/-- The head of context `m` could leave stage 2 but for free entries, and too few are free (R142). -/
def wantsEntries (s : State) (c m : Nat) (h : QDesc) : Bool :=
  let k := getCore s c
  inStage2 s c m h && !stage2Blocked s c m h && decide ((sbAfter k.sb (sbRanges (qCtx k m h) (descOf h.desc))).length > 64)

/-- The head that the issue unit selects is held up by the want of entries: no descriptor of any context goes on (R142). The selected one
is the first by class and push among those that nothing else holds in stage 2. -/
def entryShortage (s : State) (c : Nat) : Bool :=
  let k := getCore s c
  let heads := (List.range 8).filterMap fun m => match (getCtx k m).queue.head? with
    | some h => if inStage2 s c m h ∧ !stage2Blocked s c m h then some (m, h) else none
    | none => none
  heads.any fun p => (heads.all fun o => o.1 == p.1 || before p.2 o.2) && wantsEntries s c p.1 p.2

/-- The head `q` of context `n`, or one that comes before it, wants entries that are not free. -/
def entriesBlocked (s : State) (c n : Nat) (q : QDesc) : Bool :=
  wantsEntries s c n q || (List.range 8).any fun m =>
    match (getCtx (getCore s c) m).queue.head? with
    | some h => m != n && before h q && wantsEntries s c m h
    | none => false

/-! ### Stage 3 (R673, R191, R218, R319, R389) -/

/-- Number of the operand slot in `QDesc.hdrs`. -/
def whichNo : Which → Nat
  | .a => 0 | .b => 1 | .d => 2 | .x => 3

/-- Header operands in scratchpad that stage 3 reads, in the order of R673. -/
def hdrOperands (d : Desc) : List (Which × Slot) :=
  ([(Which.a, d.a), (Which.b, d.b), (Which.x, d.x)].filter fun (p : Which × Slot) => p.2.loc == 1 && p.2.hdr)
    ++ (if (d.op = opMatmul ∨ d.op = opMatvec) ∧ d.d.hdr then [(Which.d, d.d)] else [])

def hdrBitsAt (k : Core) (p : Nat) : BitVec 512 := bv 512 (spadBytes k.spad p 64)

/-- Status of the header checks of one operand (R86 to R88, R675). -/
def hdrCheck (k : Core) (x : Ctx) (d : Desc) (w : Which) (sl : Slot) : Option Nat :=
  let p := winAddr x sl.addr
  let h := hdrOf (hdrBitsAt k p).toNat
  if !hdrValid h p then some stAbsent
  else if w == .d then (if h.fmt = 0 ∧ h.ety = d.outType then none else some stFormat)
  else if h.fmt = sl.fmt ∧ h.ety = sl.ty then none else some stFormat

def firstSome {α β : Type} (f : α → Option β) : List α → Option β
  | [] => none
  | a :: t => match f a with
    | some b => some b
    | none => firstSome f t

/-- The header of a slot as stage 3 read it. -/
def hdrIn (hs : List (Nat × BitVec 512)) (w : Which) : Option Hdr := (Tab.find hs (whichNo w)).map fun v => hdrOf v.toNat

/-- Points at which a slot is used in a run (R187, R191): every output position for D and X, every product's point for A and B
along the axis that moves them; one point for each execution otherwise. -/
def usedPoints (d : Desc) (n : Nest) (caps : List (Nat × W64)) (w : Which) : List Point :=
  if isTileOp d.op then
    (tilePoints n caps).flatMap fun t =>
      let ri := List.range (tileExtent n caps .outRow t).2
      let rj := List.range (tileExtent n caps .outCol t).2
      let red := redPoints n caps
      match w with
      | .a => ri.flatMap fun i => red.map fun p => posPoint n t i 0 p
      | .b => rj.flatMap fun j => red.map fun p => posPoint n t 0 j p
      | _ => ri.flatMap fun i => rj.map fun j => posPoint n t i j []
  else pointsOf n caps

/-- Elements that one execution of a converting copy converts (R162). -/
def convertCount (d : Desc) (n : Nest) : Nat := min (8 * lenOf d n .a / slotBits d .a) (8 * d.d.len / slotBits d .d)

/-- Bytes of slot A that one execution of a raw copy or a send reads (R162). -/
def bytesRead (d : Desc) (n : Nest) : Nat :=
  if d.op ≠ opCopy then lenOf d n .a
  else if d.a.ty = d.d.ty then min (lenOf d n .a) (lenOf d n .d)
  else ceilDiv (convertCount d n * slotBits d .a) 8

/-- Bytes that one execution covers in slot D of a converting copy (R162, R181). Slot D's execution range is itself the bytes of the converted
elements, so what stands for its LEN in R162 is the slot's whole LEN (DESIGN CHOICE, assumption 147). -/
def convertedLen (d : Desc) (n : Nest) : Nat :=
  ceilDiv (convertCount d n * slotBits d .d) 8

/-- Length of the execution range of a raw slot; slot D of a converting copy takes what its elements take (R181). -/
def rangeOf (d : Desc) (n : Nest) (w : Which) : Nat :=
  if w == .d && d.op == opCopy && d.a.ty != d.d.ty then convertedLen d n else lenOf d n w

/-- Check 4 of R191 for one raw slot. -/
def rawShapeBad (d : Desc) (n : Nest) (caps : List (Nat × W64)) (w : Which) : Bool :=
  (usedPoints d n caps w).any fun p =>
    let e := rawOffset d n w p
    let b := slotBits d w
    decide (e < 0)
      || (if isTileOp d.op then decide ((e.toNat + 1) * b > 8 * (slotOfDesc d w).len)
          else decide (0 < rangeOf d n w) && decide (e.toNat * b / 8 + rangeOf d n w > (slotOfDesc d w).len))

/-- Check 5 of R191 for one header slot, over the points that the run visits. -/
def hdrShapeBad (d : Desc) (n : Nest) (caps : List (Nat × W64)) (w : Which) (h : Hdr) : Bool :=
  let rankBad := (usedLevels n).any fun l => decide (strideDim (strideOf w l) < 7) && decide (h.rank ≤ strideDim (strideOf w l))
  (usedPoints d n caps w).any fun p => rankBad || (List.range h.rank).any fun dim => decide (coord n w p dim ≥ hExt h dim)

/-- The slots that checks 4 and 5 look at. -/
def shapeSlots (d : Desc) : List (Which × Slot) :=
  (slotList d).filter fun (p : Which × Slot) => opUses d.op p.1 && p.2.loc != 0 && !(d.op == opSend && p.1 == .d)

/-- Size that R319 asks of slot D. -/
def maskNeed (c r : Nat) : Nat :=
  (canonical { magic := 0x4E4B, fmt := 2, ety := 0, rank := 2, flags := 0, p0 := 0, p1 := 0, ext := [c, r, 0, 0, 0, 0], payOff := 0
               metaOff := 64, scaleOff := 0, nnz := 0, total := 0, version := 1, valid := 0xA5 }).payOff + ceilDiv (c * r) 2

/-- Extents of the mask that a predict or top-k select writes (R318, R321). -/
def maskExtents (d : Desc) (n : Nest) (caps : List (Nat × W64)) : Nat × Nat :=
  if d.op = opPredict then
    let e (r : Role) : Nat := match findRole n caps r with | some l => l.start + l.bound | none => 1
    (e .outCol, e .outRow)
  else (8 * lenOf d n .a / slotBits d .a, (pointsOf n caps).length)

/-- The shape checks of R191 for one nest, in order, then R319. -/
def shapeBad (d : Desc) (caps : List (Nat × W64)) (hs : List (Nat × BitVec 512)) (n : Nest) : Bool :=
  let rs := levRuns n caps
  (usedLevels n).any (fun l => (l.boundSrc && decide (captured caps l.boundReg ≥ 2 ^ 32))
      || (l.startSrc && decide (captured caps l.startReg ≥ 2 ^ 32)))
    || rs.any (fun l => decide (l.bound > l.lev.planned))
    || rs.any (fun l => decide (l.start + l.bound > 2 ^ 32))
    || (shapeSlots d).any (fun (p : Which × Slot) => !p.2.hdr && rawShapeBad d n caps p.1)
    || (shapeSlots d).any (fun (p : Which × Slot) => match hdrIn hs p.1 with | some h => hdrShapeBad d n caps p.1 h | none => false)
    || (shapeSlots d).any (fun (p : Which × Slot) => match hdrIn hs p.1 with | some h => decide (h.total > p.2.len) | none => false)
    || ((d.op == opPredict || d.op == opTopk) && decide (maskNeed (maskExtents d n caps).1 (maskExtents d n caps).2 > d.d.len))

/-- Equal RANK and extents (R218). -/
def sameShape (h g : Hdr) : Bool := h.rank == g.rank && h.ext == g.ext

/-- A write range overlaps a slot of an open ring (R389). -/
def writesRing (k : Core) (x : Ctx) (d : Desc) : Bool :=
  (writeRanges d).any fun r => k.mesh.rings.any fun p =>
    p.2.opened && overlaps (x.base.toNat * 64 + r.1) r.2 p.2.base (p.2.slots * p.2.size)

/-- Headers that stage 3 reads (R89). -/
def stage3Hdrs (k : Core) (x : Ctx) (d : Desc) : List (Nat × BitVec 512) :=
  (hdrOperands d).map fun (p : Which × Slot) => (whichNo p.1, hdrBitsAt k (winAddr x p.2.addr))

/-- Addresses of the headers that stage 3 reads: up to the first that fails its checks (R673). -/
def hdrsRead (k : Core) (n : Nat) (q : QDesc) : List Nat :=
  let x := qCtx k n q
  let d := descOf q.desc
  let ok := (hdrOperands d).takeWhile fun (p : Which × Slot) => (hdrCheck k x d p.1 p.2).isNone
  ((hdrOperands d).take (ok.length + 1)).map fun (p : Which × Slot) => winAddr x p.2.addr

/-- Stage 3 (R673): the status of the first check that fails. -/
def contentStage (k : Core) (n : Nat) (q : QDesc) : Option Nat :=
  let x := qCtx k n q
  let d := descOf q.desc
  match firstSome (fun (p : Which × Slot) => hdrCheck k x d p.1 p.2) (hdrOperands d) with
  | some st => some st
  | none =>
    let hs := stage3Hdrs k x d
    let shapes := match hdrIn hs .a, hdrIn hs .b with | some a, some b => sameShape a b | _, _ => true
    firstFail [((d.op == opMerge || d.op == opIntersect) && !shapes, stFormat), (writesRing k x d, stOverlap),
      ((q.nests.map nestOf).any (shapeBad d q.caps hs), stShape)]

/-! ### DESCRIPTOR_ISSUE -/

/-- The next descriptor reaches the head of context `n`'s queue. -/
def newHead (now : Nat) (x : Ctx) : Ctx :=
  match x.queue with
  | [] => x
  | h :: t => { x with queue := (if h.headSince.isNone then { h with headSince := some now } else h) :: t }

/-- Take the head off the queue of context `n`. -/
def popHead (now : Nat) (k : Core) (n : Nat) : Core :=
  let x := getCtx k n
  wake (putCtx k n (newHead now { x with queue := x.queue.drop 1 }))

/-- Cause with which a refusal faults its context (R139, R146). -/
def faultCause (st : Nat) : Option Nat :=
  if st = stBound then some causeBound else if st = stUnmapped then some causeUnmapped
  else if st = stRegion then some causeRegion else none

/-- Refuse the head `q`: its record is written, and a range status faults the context (R139). FAULT_PC is the context's pc at that
moment (assumption 118). -/
def refuseHead (s : State) (c n : Nat) (q : QDesc) (st : Nat) (un : Nat := 0) : State :=
  let k0 := if q.fillSince.isSome then endFill (coreNclk s c) (getCore s c) else getCore s c
  let k := refuseDesc (coreSclk s c) (popHead (coreSclk s c) k0 n) n q st un
  let s1 := setCore s c (if st = stRegion then { k with mesh := { k.mesh with regionFaults := k.mesh.regionFaults + 1 } } else k)
  match faultCause st with
  | some cause => if (getCtx k n).st = .faulted then s1 else faultCtx s1 c n cause (getCtx k n).pc.toNat
  | none => s1

def updHead (k : Core) (n : Nat) (q : QDesc) : Core :=
  let x := getCtx k n
  putCtx k n { x with queue := q :: x.queue.drop 1 }

/-- A C0 head that waits in stage 2 is reported, once for each head (R526 cause 5). -/
def c0WaitSeen (s : State) (c : Nat) (q : QDesc) : State :=
  if (descOf q.desc).cls = 0 ∧ !q.c0Waited then boundOccur s 5 ukCore (coreUnit s c) bndHost (partOfCore s c) else s

/-- A time that runs while `on` holds: it keeps its start. -/
def sinceWhile (on : Bool) (aon : Nat) (t : Option Nat) : Option Nat :=
  if on then (match t with | some a => some a | none => some aon) else none

/-- The head `q` goes on waiting in stage 2: its times run, and a head fill's wait is counted (R361, R384). -/
def keepWaiting (s : State) (c n : Nat) (q : QDesc) : State :=
  let k := getCore s c
  let x := qCtx k n q
  let d := descOf q.desc
  let fill := fillWaits k n x d
  let q1 := { q with past1 := true, slotSince := sinceWhile (!slotsReady k x d) s.aon q.slotSince, fillSince := sinceWhile fill s.aon q.fillSince
                     c0Waited := q.c0Waited || d.cls == 0 }
  let h := countStall (coreNclk s c) k.dma.hal
  let k1 := if fill then { k with dma := { k.dma with hal := { h with fillFrom := some (coreNclk s c) } } }
            else if q.fillSince.isSome then endFill (coreNclk s c) k else k
  let s1 := c0WaitSeen (setCore s c k1) c q
  setCore s1 c (updHead (getCore s1 c) n q1)

/-- Stage 3 of the head `q`: the headers are read, what the check of their words finds counts (R170), and the head is refused or passes
with its entries held. A header word that cannot be corrected makes UNCORRECTABLE the status (R147, R170). -/
def stage3 (s : State) (c n : Nat) (q : QDesc) (ecc : EccHits) : State :=
  let x := qCtx (getCore s c) n q
  let d := descOf q.desc
  let hits := hitsIn ((hdrsRead (getCore s c) n q).map fun p => (p, 64)) ecc
  let s1 := spadEcc s c hits
  let k := getCore s1 c
  let ue := hitsUe k.spad hits
  match contentStage k n q with
  | some st => refuseHead s1 c n q (if ue then stUncorr else st)
      (unwrittenRows k.spad ((hdrsRead k n q).flatMap fun p => rowsOf p 64)).length
  | none =>
    let rs := sbRanges x d
    let k1 := if q.fillSince.isSome then endFill (coreNclk s1 c) k else k
    setCore s1 c (updHead { k1 with sb := sbAfter k.sb rs } n
      { q with past1 := true, passed := true, ue := ue, holds := rs, hdrs := stage3Hdrs k x d, slotSince := none, fillSince := none })

/-- A head of context `n` meets the three stages (R138): refused, left waiting in stage 2, where stage 1 is not applied again, or passed. -/
def issueHead (s : State) (c n : Nat) (q : QDesc) (ecc : EccHits) : State :=
  let k := getCore s c
  match (if q.past1 then none else staticStage s c n q) with
  | some st => refuseHead s c n q st
  | none =>
    if chainOver k && waitsOnChain k n (qCtx k n q) (descOf q.desc) then refuseHead s c n q stRelayTo
    else if stage2Blocked s c n q || entriesBlocked s c n q then keepWaiting s c n q
    else stage3 s c n q ecc

/-- The first issue of a context that a C0 POST woke ends the host path (R519, R527). -/
def hostIssue (s : State) (c n seq : Nat) : State :=
  let x := ctxAt s c n
  match x.hostSince, x.queue.head? with
  | some t, some q =>
    if q.passed ∧ q.seq = seq then
      monitorPath (setCtx s c n { x with hostSince := none }) 0 ((s.aon - t) * 20) 3000 (partOfCore s c)
    else s
  | _, _ => s

def execDescriptorIssue (c n : Nat) (ecc : EccHits) (s : State) : Out :=
  onCtx c n <|
    if !coreServes s c then .next s
    else match (ctxAt s c n).queue.head? with
    | none => .next s
    | some q => if q.passed then .next s else .next (hostIssue (issueHead s c n q ecc) c n q.seq)

/-- The ring or relay slot that the head of context `n` waits for: its ring number and expected sequence number (R384, R612). -/
def slotAwaited (k : Core) (x : Ctx) (d : Desc) : Nat × Nat :=
  let hit (lo len : Nat) (p : Nat × Ring) : Option (Nat × Nat) :=
    if p.2.opened then
      ((List.range p.2.slots).find? fun i => overlaps lo len (p.2.base + i * p.2.size) p.2.size && (match slotState p.2.st i with
        | .filled q => !(inRing p.2.head p.2.slots q && slotOfSeq p.2.slots q == i)
        | _ => true)).map fun i => (p.1, (p.2.head + (i + p.2.slots - slotOfSeq p.2.slots p.2.head) % p.2.slots) % 2 ^ 32)
    else none
  (firstSome (fun (r : Nat × Nat) => firstSome (hit (x.base.toNat * 64 + r.1) r.2) k.mesh.rings) (readRanges d)).getD (16, k.dma.hal.tile.toNat + 1)

/-- A head that has waited on ring or relay slots longer than SLOT_WAIT, and still waits on one, completes with SLOT_TIMEOUT; its context
does not fault (R385). -/
def execSlotTimeout (c n : Nat) (s : State) : Out :=
  onCtx c n <|
    let k := getCore s c
    match (ctxAt s c n).queue.head? with
    | none => .next s
    | some q =>
      match q.slotSince with
      | none => .next s
      | some t =>
        if !q.passed && !slotsReady k (qCtx k n q) (descOf q.desc) && decide (s.aon > t + max 1 k.mesh.slotWait.toNat * usAon) then
          let w := slotAwaited k (qCtx k n q) (descOf q.desc)
          .next (raiseCore (refuseHead s c n q stSlotTo) c 0x0608 0 (w.1 + w.2 * 2 ^ 32))
        else .next s

end Sys2Proof.Machine
end

