-- ==== Sys2Proof/Machine/TensorOut.lean ====
section
/-! DEFINITION. Machine/TensorOut.lean: the bytes of a whole tensor in the layout of R91 to R104, from its header fields and its
stored entries row by row (used by merge, intersect, predict, top-k select, compaction store and transpose-copy). -/

namespace Sys2Proof.Machine

open Sys2Proof

/-- Elements of `w` bits packed from bit 0 (R53). -/
def packNum (w : Nat) : List Nat → Nat
  | [] => 0
  | v :: t => v % 2 ^ w + 2 ^ w * packNum w t

def packBits (w : Nat) (vs : List Nat) : List Byte := leBytes (ceilDiv (vs.length * w) 8) (packNum w vs)

/-- Arrays placed at rising offsets from `pos`, with zero padding between them. -/
def placeArrays : Nat → List (Nat × List Byte) → List Byte
  | _, [] => []
  | pos, (o, b) :: t => List.replicate (o - pos) 0 ++ b ++ placeArrays (o + b.length) t

/-- Entries of a tensor: for each row, positions rising with their value bits. -/
abbrev Rows := List (List (Nat × Nat))

/-- Number of entries before each row, and the total (ROWOFF of R92). -/
def rowOffsets : Nat → List Nat → List Nat
  | n, [] => [n]
  | n, a :: t => n :: rowOffsets (n + a) t

def u32s (ns : List Nat) : List Byte := ns.flatMap (leBytes 4)

/-- Bits of a row as a number: bit p set for each position p. -/
def posBits (ps : List Nat) : Nat := (ps.map (2 ^ ·)).foldl (· + ·) 0

def rowPos (r : List (Nat × Nat)) : List Nat := r.map (·.1)

/-- Set positions of the 64-position runs of a row, as words. -/
def runWords (u : Nat) (r : List (Nat × Nat)) : List Nat := (List.range u).map fun i => bf (posBits (rowPos r)) (64 * i) 64

/-- A row's entries in group `g` of `m` positions. -/
def inGroup (m g : Nat) (r : List (Nat × Nat)) : List (Nat × Nat) := r.filter fun e => e.1 / m == g

/-- Slot values of an NM row: the first N entries of each group, unused slots zero (R97). -/
def nmSlots (h : Hdr) (r : List (Nat × Nat)) : List Nat :=
  (List.range (hG h)).flatMap fun g =>
    let vs := ((inGroup h.p1 g r).map (·.2)).take h.p0
    vs ++ List.replicate (h.p0 - vs.length) 0

/-- Spill values of an NM row (R98). -/
def nmSpills (h : Hdr) (r : List (Nat × Nat)) : List Nat :=
  (List.range (hG h)).flatMap fun g => ((inGroup h.p1 g r).map (·.2)).drop h.p0

/-- Metadata arrays of the tensor (R92); BLOCK takes its stored block columns per block row. -/
def metaArrays (h : Hdr) (rows : Rows) (blocks : List (List Nat)) : List (List Byte) :=
  match h.fmt with
  | 1 => (rows.flatMap fun r => leBytes (ceilDiv (hG h * h.p1) 8) (posBits (rowPos r)))
      :: (if hSpill h then [u32s (rowOffsets 0 (rows.map fun r => (nmSpills h r).length))] else [])
  | 2 => [u32s (rowOffsets 0 (rows.map List.length)), rows.flatMap fun r => (runWords (hU h) r).flatMap (leBytes 8),
      rows.flatMap fun r => (runWords (hU h) r).flatMap fun w => leBytes 1 (popBits w 64)]
  | 3 => if hBlockList h then [u32s (rowOffsets 0 (blocks.map List.length)), blocks.flatMap u32s]
      else [blocks.flatMap fun b => (List.range (hBWords h)).flatMap fun i => leBytes 8 (bf (posBits b) (64 * i) 64)]
  | 4 => [u32s (rowOffsets 0 (rows.map List.length)), rows.flatMap fun r => (rowPos r).flatMap (leBytes (hColBytes h))]
  | 5 => [u32s ((List.range rows.length).flatMap fun i => List.replicate (rows.getD i []).length i),
      rows.flatMap fun r => (rowPos r).flatMap (leBytes (hColBytes h))]
  | _ => []

/-- Payload (R93, R97, R98, R101); a DENSE row lists every position. -/
def payloadBytes (h : Hdr) (rows : Rows) (blockVals : List Nat) : List Byte :=
  let w := hElBits h
  match h.fmt with
  | 0 => rows.flatMap fun r => packBits w (r.map (·.2))
  | 1 =>
    let fixed := rows.flatMap fun r => packBits w (nmSlots h r)
    let spills := rows.flatMap (nmSpills h)
    if spills.isEmpty then fixed else placeArrays h.payOff [(h.payOff, fixed), (spillOff h, packBits w spills)]
  | 3 => packBits w blockVals
  | _ => packBits w (rows.flatMap fun r => r.map (·.2))

/-- The whole tensor after its header, laid out by the header's offsets. -/
def tensorBody (h : Hdr) (rows : Rows) (blocks : List (List Nat)) (blockVals : List Nat) (scales : List Byte) : List Byte :=
  let ms := metaArrays h rows blocks
  placeArrays 64 ((arrayOffs h.metaOff (metaSizes h)).zip ms
    ++ [(h.payOff, payloadBytes h rows blockVals)] ++ (if scales.isEmpty then [] else [(h.scaleOff, scales)]))

/-- The 64 bytes of a header with the given VALID byte. -/
def hdrBytes (h : Hdr) (valid : Nat) : List Byte := leBytes 64 (hdrWord { h with valid := valid })

end Sys2Proof.Machine
end

