-- ==== Sys2Proof/Machine/Operands.lean ====
section
/-! DEFINITION. Machine/Operands.lean: how a descriptor reads its operands: values at a point (R54, R183, R184), the rows and
positions that a tile uses, metadata faults counted (R106 to R113), and unwritten rows (R167). A reader `rd` gives the
scratchpad byte at an address. -/

namespace Sys2Proof.Machine

open Sys2Proof

/-- An operand as a unit reads it: its slot, type, header copy (R89) and the scratchpad address of its range. -/
structure Opnd where
  w : Which
  ty : ElType
  hdr : Option Hdr
  base : Nat

def opnd (r : Run) (d : Desc) (w : Which) : Opnd :=
  { w := w, ty := (tyOf (slotOfDesc d w)).getD .int8, hdr := hdrIn r.hdrs w, base := r.base + (slotOfDesc d w).addr }

/-- Row and position of a header operand at a point (R85, R184). -/
def opSite (n : Nest) (o : Opnd) (h : Hdr) (p : Point) : Nat × Nat :=
  let cs := coords n o.w p
  (rowOfCoords h cs, cs.getD 0 0)

/-- Bit position of a raw operand's element at a point, counted from scratchpad address 0 (R183). -/
def rawBitPos (d : Desc) (n : Nest) (o : Opnd) (p : Point) : Nat := 8 * o.base + (rawOffset d n o.w p).toNat * elBits o.ty

/-- Value bits that the operand holds at a point; none where no value is stored. -/
def opBits (rd : Nat → Nat) (d : Desc) (n : Nest) (o : Opnd) (p : Point) : Option Nat :=
  match o.hdr with
  | some h => storedBits rd o.base h d.spill (opSite n o h p).1 (opSite n o h p).2
  | none => some (bitsAt rd (rawBitPos d n o p) (elBits o.ty))

def opScale (rd : Nat → Nat) (d : Desc) (n : Nest) (o : Opnd) (p : Point) : Nat :=
  match o.hdr with
  | some h => scaleAt rd o.base h (opSite n o h p).1 (opSite n o h p).2
  | none => if isMx o.ty then (Config.rawMxScale (rawBitPos d n o p / 8)).toNat else 127

/-- The exact value at a point (R54 to R56), or the estimate code's value in a predict (R77, R315). -/
def opVal (rd : Nat → Nat) (d : Desc) (n : Nest) (o : Opnd) (p : Point) : Option FVal :=
  (opBits rd d n o p).map fun b =>
    if d.op = opPredict then elValue .fp4 ((estimateCode o.ty b).getD 0) 127 else elValue o.ty b (opScale rd d n o p)

/-- The mask bit of an output point (R209). -/
def maskAt (rd : Nat → Nat) (n : Nest) (o : Opnd) (p : Point) : Bool :=
  match o.hdr with
  | some h => let s := opSite n o h p; (rowItems rd o.base h false s.1).any fun it => isEntry it && it.pos == s.2
  | none => true

/-! ### Tiles of a run -/

/-- A tile: its problem under packing, its number (R148, R247) and its point. -/
structure TileAt where
  prob : Nat
  num : Nat
  pt : Point

def nestAt (ns : List Nest) (p : Nat) : Nest := ns.getD p (nestOf 0)

/-- Tiles in the order in which they close: in rounds over the problems under packing (R187, R247). -/
def tilesOf (d : Desc) (ns : List Nest) (caps : List (Nat × W64)) : List TileAt :=
  if d.op = opMatmul ∧ d.pack ≠ 0 then
    let np := nestCount d
    let all := (List.range np).map fun p => tilePoints (nestAt ns p) caps
    let rounds := all.foldl (fun m l => max m l.length) 0
    (List.range rounds).flatMap fun r => (List.range np).filterMap fun p =>
      ((all.getD p [])[r]?).map fun t => { prob := p, num := r * np + p, pt := t }
  else (tilePoints (nestAt ns 0) caps).zipIdx.map fun (tk : Point × Nat) => { prob := 0, num := tk.2, pt := tk.1 }

/-- Everything a unit needs to work on one tile. -/
structure TileEnv where
  sp : Spad
  d : Desc
  n : Nest
  caps : List (Nat × W64)
  a : Opnd
  b : Opnd
  x : Option Opnd
  mode : Mode
  t : Point
  /-- Some position of the tile, or in Packed mask mode of its span, is on: the operands are read (R211, R212). -/
  sel : Bool

def TileEnv.rd (e : TileEnv) (a : Nat) : Nat := spadReader e.sp a
def TileEnv.rows (e : TileEnv) : Nat := (tileExtent e.n e.caps .outRow e.t).2
def TileEnv.cols (e : TileEnv) : Nat := (tileExtent e.n e.caps .outCol e.t).2
def TileEnv.red (e : TileEnv) : List Point := redPoints e.n e.caps

/-- Live positions of the tile in row-major order (R188, R189). -/
def TileEnv.live (e : TileEnv) : List (Nat × Nat) :=
  (List.range e.rows).flatMap fun i => (List.range e.cols).map fun j => (i, j)

/-- The mask selects position (i, j) (R209, R210). -/
def TileEnv.on (e : TileEnv) (i j : Nat) : Bool :=
  match e.x with
  | some o => maskAt e.rd e.n o (posPoint e.n e.t i j [])
  | none => true

def TileEnv.anyOn (e : TileEnv) : Bool := e.live.any fun q => e.on q.1 q.2

/-- The tile without regard to its span. -/
def baseEnv (k : Core) (r : Run) (ti : TileAt) : TileEnv :=
  let d := descOf r.desc
  { sp := k.spad, d := d, n := nestAt (r.nests.map nestOf) ti.prob, caps := r.caps, a := opnd r d .a, b := opnd r d .b
    x := if d.op = opMatmul ∧ d.x.loc ≠ 0 then some (opnd r d .x) else none
    mode := if d.op = opMatmul then (modeOf d).getD .dense else .dense, t := ti.pt, sel := true }

/-- Tiles of the span of tile `ti`: up to four along an innermost OUT_COL level of full tiles (R211). -/
def spanTiles (n : Nest) (caps : List (Nat × W64)) (tiles : List TileAt) (ti : TileAt) : List TileAt :=
  match (orderedRuns n caps).filter (!isRed ·) with
  | [] => [ti]
  | l :: _ =>
    if l.role = .outCol ∧ l.step = 64 then
      let m := max 1 (ceilDiv l.bound l.step)
      tiles.filter fun t => t.num / m == ti.num / m && t.num % m / 4 == ti.num % m / 4
    else [ti]

def tileEnv (k : Core) (r : Run) (ti : TileAt) : TileEnv :=
  let e := baseEnv k r ti
  let span := if e.mode = .packedMask then spanTiles e.n e.caps (tilesOf e.d (r.nests.map nestOf) r.caps) ti else [ti]
  { e with sel := span.any fun t => (baseEnv k r t).anyOn }

/-- The product at reduction point `p` of position (i, j), where both operands hold a value (R61, R95). -/
def TileEnv.product (e : TileEnv) (i j : Nat) (p : Point) : Option FVal :=
  let q := posPoint e.n e.t i j p
  match opVal e.rd e.d e.n e.a q, opVal e.rd e.d e.n e.b q with
  | some u, some v => some (fMul u v)
  | _, _ => none

/-- The products of position (i, j) in the order of R263. -/
def TileEnv.products (e : TileEnv) (i j : Nat) : List FVal := e.red.filterMap (e.product i j)

/-! ### What a tile reads, and what it uses -/

/-- The operand holds a value at the point. -/
def TileEnv.holds (e : TileEnv) (o : Opnd) (p : Point) : Bool := (opBits e.rd e.d e.n o p).isSome

def isDense (o : Opnd) : Bool := match o.hdr with | some h => h.fmt == 0 | none => true

/-- The mode that the operands take without their mask (R196, R212). -/
def TileEnv.base (e : TileEnv) : Mode := if e.mode = .tileSkip then (modeOf { e.d with x := slotOf 0 }).getD .dense else e.mode

/-- Rows of the tile whose operand A is read, and columns whose operand B is read: all of a tile with some position on, and in
Inner product mode those of the positions that are on (R212, R215). -/
def TileEnv.rowsRead (e : TileEnv) : List Nat :=
  (List.range e.rows).filter fun i => e.sel && (e.mode != .inner || (List.range e.cols).any fun j => e.on i j)
def TileEnv.colsRead (e : TileEnv) : List Nat :=
  (List.range e.cols).filter fun j => e.sel && (e.mode != .inner || (List.range e.rows).any fun i => e.on i j)

/-- Point at which lane `i` of operand `o` reads reduction point `p`. -/
def TileEnv.lanePoint (e : TileEnv) (o : Opnd) (i : Nat) (p : Point) : Point :=
  match o.w with
  | .a => posPoint e.n e.t i 0 p
  | _ => posPoint e.n e.t 0 i p

/-- Output rows or columns of the tile that read operand `o`. -/
def TileEnv.laneNos (e : TileEnv) (o : Opnd) : List Nat := match o.w with | .a => e.rowsRead | _ => e.colsRead

/-- Window of Feed mode that holds the `i`-th reduction point: 64 points from the first, aligned to dimension 0 for a BLOCK operand
(R201, R206). -/
def TileEnv.window (e : TileEnv) (o : Opnd) (h : Hdr) (i : Nat) (p : Point) : Nat :=
  if h.fmt = 3 then (opSite e.n o h (e.lanePoint o 0 p)).2 / 64 else i / 64

/-- Windows of Feed mode in which some row of the tile holds an entry. Entries below the reduction range count in the first window and
entries above it in the last; a block counts in its own (R200, R202, R206). -/
def TileEnv.busyWindows (e : TileEnv) (o : Opnd) (h : Hdr) : List Nat :=
  let pts := e.red.zipIdx
  let top := (e.red.length - 1) / 64
  let posOf (i : Nat) (p : Point) : Nat := (opSite e.n o h (e.lanePoint o i p)).2
  dedup ((e.laneNos o).flatMap fun i =>
    match e.red with
    | [] => []
    | p0 :: _ =>
      let row := (opSite e.n o h (e.lanePoint o i p0)).1
      if h.fmt = 3 then ((blockRow e.rd o.base h (rowKey h row)).filter isEntry).map fun b => b.pos * hB h / 64
      else
        let ps := ((rowItems e.rd o.base h e.d.spill row).filter isEntry).map (·.pos)
        let ends := pts.map fun x => posOf i x.1
        (pts.filterMap fun x => if ps.contains (posOf i x.1) then some (x.2 / 64) else none)
          ++ (if ps.any fun q => ends.all fun r => decide (q < r) then [0] else [])
          ++ (if ps.any fun q => ends.all fun r => decide (r < q) then [top] else []))

/-- Reduction points at which slot `w` is read: in Feed mode the dense operand skips windows without an entry (R202); in Row product
mode the rows of B are those of A's accepted entries (R216). -/
def TileEnv.redRead (e : TileEnv) (w : Which) : List Point :=
  if e.mode = .rowProduct ∧ w = .b then
    e.red.filter fun p => e.rowsRead.any fun i => e.holds e.a (posPoint e.n e.t i 0 p)
  else if e.base = .feed then
    let o := if isDense e.a then e.b else e.a
    match o.hdr with
    | some h =>
      if w == o.w then e.red
      else
        let ws := e.busyWindows o h
        (e.red.zipIdx.filter fun x => ws.contains (e.window o h x.2 x.1)).map (·.1)
    | none => e.red
  else e.red

/-- Points at which the tile reads slot `w`. -/
def TileEnv.pointsRead (e : TileEnv) (w : Which) : List Point :=
  match w with
  | .a => let red := e.redRead .a; e.rowsRead.flatMap fun i => red.map fun p => posPoint e.n e.t i 0 p
  | .b => let red := e.redRead .b; e.colsRead.flatMap fun j => red.map fun p => posPoint e.n e.t 0 j p
  | _ => e.live.map fun q => posPoint e.n e.t q.1 q.2 []

/-- Points at which the accumulation uses, or would use, slot `w`: those of positions that are on, and of a dense operand beside a sparse
one those at which the other holds a value (R112, R167). -/
def TileEnv.pointsUsed (e : TileEnv) (w : Which) : List Point :=
  match w with
  | .a =>
    let red := e.redRead .a
    (List.range e.rows).flatMap fun i =>
      let js := (List.range e.cols).filter (e.on i)
      (red.filter fun p => js.any fun j => !isDense e.a || isDense e.b || e.holds e.b (posPoint e.n e.t i j p)).map fun p => posPoint e.n e.t i 0 p
  | .b =>
    let red := e.redRead .b
    (List.range e.cols).flatMap fun j =>
      let is := (List.range e.rows).filter fun i => e.on i j
      (red.filter fun p => is.any fun i => !isDense e.b || isDense e.a || e.holds e.a (posPoint e.n e.t i j p)).map fun p => posPoint e.n e.t 0 j p
  | _ => e.live.map fun q => posPoint e.n e.t q.1 q.2 []

def TileEnv.operands (e : TileEnv) : List Opnd := [e.a, e.b] ++ e.x.toList

/-- Rows and positions of a header operand that the tile reads, and that it uses. -/
def TileEnv.uses (e : TileEnv) (o : Opnd) (h : Hdr) : List (Nat × Nat) := dedup ((e.pointsRead o.w).map (opSite e.n o h))
def TileEnv.used (e : TileEnv) (o : Opnd) (h : Hdr) : List (Nat × Nat) := dedup ((e.pointsUsed o.w).map (opSite e.n o h))

/-! ### Intersected and scanned streams (R213, R215, R216) -/

/-- Entries consumed of each of two rising streams, and the matches, until one of them ends. -/
def intersectRun : Nat → List Nat → List Nat → Nat × Nat × Nat
  | fuel + 1, a :: as, b :: bs =>
    if a < b then let r := intersectRun fuel as (b :: bs); (r.1 + 1, r.2.1, r.2.2)
    else if b < a then let r := intersectRun fuel (a :: as) bs; (r.1, r.2.1 + 1, r.2.2)
    else let r := intersectRun fuel as bs; (r.1 + 1, r.2.1 + 1, r.2.2 + 1)
  | _, _, _ => (0, 0, 0)

def intersectCount (a b : List Nat) : Nat × Nat × Nat := intersectRun (a.length + b.length) a b

/-- Items up to and including the `m`-th accepted entry; all of them once every entry is consumed. -/
def takeEntries : Nat → List Item → List Item
  | _, [] => []
  | 0, it :: t => if t.any isEntry || isEntry it then [] else it :: takeEntries 0 t
  | m + 1, it :: t => if isEntry it then it :: takeEntries m t else it :: takeEntries (m + 1) t

/-- Items that a scan of a row up to position `col` reads: it ends before the first accepted entry beyond, and a BMAP row's runs beyond
are not read (R216). -/
def scanTo (h : Hdr) (col : Nat) (its : List Item) : List Item :=
  its.takeWhile fun it => !(isEntry it && decide (it.pos > col)) && !(h.fmt == 2 && it.fault != some 2 && decide (it.pos / 64 > col / 64))

def entryPos (its : List Item) : List Nat := (its.filter isEntry).map (·.pos)

/-- Row of a header operand that output row or column `i` takes (R215). -/
def TileEnv.streamRow (e : TileEnv) (o : Opnd) (h : Hdr) (i : Nat) : Nat := (opSite e.n o h (e.lanePoint o i [])).1

/-- Pairs of rows (of A, of B) that Inner product mode intersects in the tile. -/
def TileEnv.rowPairs (e : TileEnv) : List (Nat × Nat) :=
  match e.a.hdr, e.b.hdr with
  | some ha, some hb => (e.live.filter fun q => e.on q.1 q.2).map fun q => (e.streamRow e.a ha q.1, e.streamRow e.b hb q.2)
  | _, _ => []

/-! ### Metadata faults (R106 to R113) -/

def addKind (c : MetaCounts) (kind : Nat) : MetaCounts :=
  match kind with
  | 0 => { c with idxRange := c.idxRange + 1 }
  | 1 => { c with idxOrder := c.idxOrder + 1 }
  | 2 => { c with rowOffset := c.rowOffset + 1 }
  | 3 => { c with overfull := c.overfull + 1 }
  | 4 => { c with spill := c.spill + 1 }
  | 5 => { c with bmapCount := c.bmapCount + 1 }
  | _ => { c with xpose := c.xpose + 1 }

/-- Whole rows are read, or only the groups and runs that the uses touch (N:M path and matrix-vector path; masks). -/
def wholeRows (d : Desc) (o : Opnd) (h : Hdr) : Bool := h.fmt != 1 && d.op != opMatvec && o.w != .x

/-- How far a row's stream is read: whole, up to the end of an intersection with rows of another operand, or up to the last column used
(R213, R216). -/
inductive Stream where
  | whole
  | meets (other : Opnd) (h : Hdr) (pairs : List (Nat × Nat))
  | scan

/-- Keys under which an operand's metadata is read for the uses. A COORD tensor is scanned whole, but Inner product and Row product take only
the rows that they name (R215, R216); its entries beyond the last row, key `hRows h`, are read in every mode (DESIGN CHOICE, assumption 148). -/
def keysRead (d : Desc) (o : Opnd) (h : Hdr) (st : Stream) (us : List (Nat × Nat)) : List Nat :=
  let named := dedup (us.map fun u => rowKey h u.1)
  if us.isEmpty then []
  else if h.fmt = 5 ∧ wholeRows d o h then (match st with | .whole => List.range (hRows h + 1) | _ => named ++ [hRows h])
  else named

/-- A use of key `q` lies within the positions `lo` to `hi - 1`. -/
def touched (h : Hdr) (us : List (Nat × Nat)) (q lo hi : Nat) : Bool :=
  us.any fun u => rowKey h u.1 == q && decide (lo ≤ u.2) && decide (u.2 < hi)

/-- The fault item is met by a reader of the uses. -/
def itemMet (d : Desc) (o : Opnd) (h : Hdr) (us : List (Nat × Nat)) (q : Nat) (it : Item) : Bool :=
  wholeRows d o h || (it.fault == some 2 && us.any fun u => rowKey h u.1 == q)
    || (if h.fmt = 2 then touched h us q (it.pos / 64 * 64) (it.pos / 64 * 64 + 64) else touched h us q it.pos it.hi)

/-- Items that are read under key `q`: in Inner product mode up to the last entry that some intersection consumes. -/
def itemsRead (d : Desc) (rd : Nat → Nat) (o : Opnd) (h : Hdr) (st : Stream) (us : List (Nat × Nat)) (q : Nat) : List Item :=
  let its := keyItems rd o.base h d.spill q
  match st with
  | .whole => its
  | .meets o2 h2 pairs =>
    let partners := dedup (pairs.filterMap fun p => if o.w == .a then (if p.1 = q then some p.2 else none)
                                                    else (if p.2 = q then some p.1 else none))
    let m := partners.foldl (fun m r =>
      max m (intersectCount (entryPos its) (entryPos (keyItems rd o2.base h2 d.spill r))).1) 0
    takeEntries m its
  | .scan => scanTo h ((us.filter (·.1 == q)).foldl (fun m u => max m u.2) 0) its

/-- Pairs of a position and an aligned group of four rows that fall back (R240). -/
def xposePairs (rd : Nat → Nat) (d : Desc) (o : Opnd) (h : Hdr) (us : List (Nat × Nat)) : List (Nat × Nat) :=
  let tr : Bool := match o.w with | .a => d.transA | .b => d.transB | _ => false
  if h.fmt = 1 ∧ hXpose h ∧ tr ∧ o.ty ≠ .fp64 then
    (dedup (us.map fun u => (u.1 / 4, u.2))).filter fun p => decide (xposeRows rd o.base h p.1 p.2 > 2)
  else []

/-- What a group of tiles makes of one operand: its uses, and how its streams are read. -/
def operandFaults (rd : Nat → Nat) (d : Desc) (o : Opnd) (st : Stream) (us : List (Nat × Nat)) : List Nat :=
  match o.hdr with
  | none => []
  | some h =>
    ((keysRead d o h st us).flatMap fun q =>
      ((itemsRead d rd o h st us q).filter (itemMet d o h us q)).filterMap (·.fault))
      ++ (xposePairs rd d o h us).map fun _ => 6

/-- How the tile reads operand `o`, with the row pairs of `pairs` in Inner product mode. -/
def TileEnv.stream (e : TileEnv) (o : Opnd) (pairs : List (Nat × Nat)) : Stream :=
  match e.mode, o.w with
  | .inner, .a => (match e.b.hdr with | some h => .meets e.b h pairs | none => .whole)
  | .inner, .b => (match e.a.hdr with | some h => .meets e.a h pairs | none => .whole)
  | .rowProduct, .b => .scan
  | _, _ => .whole

/-- Metadata counts of the tiles `es` together: each faulty unit once for each operand (R112, R113). -/
def runCounts (es : List TileEnv) : MetaCounts :=
  match es with
  | [] => {}
  | e :: _ =>
    let pairs := es.flatMap TileEnv.rowPairs
    let kinds := e.operands.flatMap fun o =>
      match o.hdr with
      | some h => operandFaults e.rd e.d o (e.stream o pairs) (dedup (es.flatMap fun f => f.uses o h))
      | none => []
    kinds.foldl addKind {}

/-- The fault touches what the tile uses: any use of the row for an index out of range, else a use in its positions (R112). -/
def faultTouches (h : Hdr) (us : List (Nat × Nat)) (q : Nat) (it : Item) : Bool :=
  match it.fault with
  | none => false
  | some 0 => us.any fun u => rowKey h u.1 == q
  | some _ => touched h us q it.pos it.hi

/-- Metadata bits of the tile's flag word, by kind: of the faults that it meets, those that touch what it uses (R112, R148). -/
def TileEnv.metaKinds (e : TileEnv) : List Nat :=
  dedup (e.operands.flatMap fun o =>
    match o.hdr with
    | none => []
    | some h =>
      let us := e.uses o h
      let used := e.used o h
      ((keysRead e.d o h (e.stream o e.rowPairs) us).flatMap fun q =>
        ((itemsRead e.d e.rd o h (e.stream o e.rowPairs) us q).filter fun it => itemMet e.d o h us q it && faultTouches h used q it).filterMap
          (·.fault))
        ++ (xposePairs e.rd e.d o h used).map fun _ => 6)

/-! ### Bytes read, and unwritten rows (R167) -/

/-- Bytes that `w` bits from bit position `p` touch. -/
def bitRange (p w : Nat) : Nat × Nat := (p / 8, if w = 0 then 0 else (p % 8 + w + 7) / 8)

/-- Payload entries `k` to `k + n - 1` of a run-packed payload. -/
def payRange (hb : Nat) (h : Hdr) (k n : Nat) : Nat × Nat := bitRange (8 * (hb + h.payOff) + k * hElBits h) (n * hElBits h)

/-- Bytes of the value of the stored entry `it` of row `r`. -/
def valueRange (hb : Nat) (h : Hdr) (r : Nat) (it : Item) : Nat × Nat :=
  match h.fmt with
  | 1 =>
    if it.idx < hG h * h.p0 then bitRange (8 * (hb + h.payOff + r * hSlotRow h) + it.idx * hElBits h) (hElBits h)
    else bitRange (8 * (hb + spillOff h) + (it.idx - hG h * h.p0) * hElBits h) (hElBits h)
  | 3 => payRange hb h (it.idx * hB h * hB h + r % hE1 h % hB h * hB h + it.pos % hB h) 1
  | _ => payRange hb h it.idx 1

/-- Bytes of the values, and of their MX scales, at the sites `us` that hold one; in an intersection of those of an entry that both rows
hold, as values are gathered after the compare stage (R214, R215); in a matvec of every value of a BMAP run that the range touches, the
values outside the range being read and discarded (R250). -/
def valueRanges (rd : Nat → Nat) (d : Desc) (o : Opnd) (h : Hdr) (st : Stream) (us : List (Nat × Nat)) : List (Nat × Nat) :=
  let hb := o.base
  let scale (r p : Nat) : List (Nat × Nat) := if hIsMx h && o.w != .x then [(hb + h.scaleOff + r * ceilDiv (hC h) 32 + p / 32, 1)] else []
  if o.w == .x then []
  else (dedup (us.map (·.1))).flatMap fun r =>
    let ps := (us.filter (·.1 == r)).map (·.2)
    if h.fmt = 0 then ps.flatMap fun c =>
      bitRange (8 * (hb + h.payOff + r * ceilDiv (hC h * hElBits h) 8) + c * hElBits h) (hElBits h) :: scale r c
    else
      let met (p : Nat) : Bool :=
        match st with
        | .meets o2 h2 pairs => pairs.any fun x =>
            (if o.w == .a then x.1 else x.2) == r && (storedBits rd o2.base h2 d.spill (if o.w == .a then x.2 else x.1) p).isSome
        | _ => true
      let beside (p : Nat) : Bool := d.op == opMatvec && h.fmt == 2 && ps.any fun x => x / 64 == p / 64
      ((rowItems rd hb h d.spill r).filter fun it => isEntry it && (ps.contains it.pos && met it.pos || beside it.pos)).flatMap fun it =>
        valueRange hb h r it :: (if ps.contains it.pos then scale r it.pos else [])

/-- Bytes of the entry's own metadata: its column index, with its row index in COORD, or its block column. -/
def itemRanges (hb : Nat) (h : Hdr) (it : Item) : List (Nat × Nat) :=
  if it.fault = some 2 then []
  else match h.fmt with
  | 3 => if hBlockList h then [(hb + metaOffs h 1 + 4 * it.idx, 4)] else []
  | 4 => [(hb + metaOffs h 1 + hColBytes h * it.idx, hColBytes h)]
  | 5 => [(hb + metaOffs h 0 + 4 * it.idx, 4), (hb + metaOffs h 1 + hColBytes h * it.idx, hColBytes h)]
  | _ => []

/-- Bytes of the metadata that describe the row, read under key `q` for the sites `us`: `all` of what the reader reads, or only what
describes the sites (R98, R100, R101, R103, R109, R111). Of a BMAP row of an intersection every COUNT byte is read with the row, also past the
end of the intersection, where its check is not made (DESIGN CHOICE, assumption 148). -/
def rowMetaRanges (rd : Nat → Nat) (d : Desc) (o : Opnd) (h : Hdr) (st : Stream) (all : Bool) (us : List (Nat × Nat)) (q : Nat) :
    List (Nat × Nat) :=
  let hb := o.base
  let ps := (us.filter fun u => rowKey h u.1 == q).map (·.2)
  match h.fmt with
  | 1 =>
    let gs := dedup (ps.map (· / h.p1))
    (gs.map fun g => bitRange (8 * (hb + h.metaOff + q * ceilDiv (hG h * h.p1) 8) + g * h.p1) h.p1)
      ++ (if d.spill && hSpill h && gs.any fun g => decide ((nmGroup rd hb h q g).1.length > h.p0) then [(hb + metaOffs h 1 + 4 * q, 8)] else [])
  | 2 =>
    let runs := dedup (ps.map (· / 64))
    let counted : List Nat :=
      if o.w == .x then []
      else if all && wholeRows d o h then
        (match st with | .scan => (List.range (hU h)).filter fun u => decide (u ≤ (runs.foldl max 0)) | _ => List.range (hU h))
      else runs
    (hb + metaOffs h 0 + 4 * q, 8)
      :: (if all then [(hb + metaOffs h 1 + 8 * (q * hU h), 8 * hU h)] else runs.map fun u => (hb + metaOffs h 1 + 8 * (q * hU h + u), 8))
      ++ counted.map fun u => (hb + metaOffs h 2 + (q * hU h + u), 1)
  | 3 =>
    if hBlockList h then [(hb + metaOffs h 0 + 4 * q, 8)]
    else if all then [(hb + h.metaOff, 8 * ((q + 1) * hBWords h))]
    else [(hb + h.metaOff + 8 * (q * hBWords h), 8 * hBWords h)]
  | 4 => [(hb + metaOffs h 0 + 4 * q, 8)]
  | _ => []

/-- Byte ranges that reading a compressed or DENSE operand touches, for the sites read. -/
def readRangesOf (rd : Nat → Nat) (d : Desc) (o : Opnd) (h : Hdr) (st : Stream) (us : List (Nat × Nat)) : List (Nat × Nat) :=
  ((keysRead d o h st us).flatMap fun q =>
      rowMetaRanges rd d o h st true us q ++ (itemsRead d rd o h st us q).flatMap (itemRanges o.base h))
    ++ valueRanges rd d o h st us

/-- Byte ranges that hold or describe what is used at the sites `used`, of an operand read at the sites `us` (R112, R167). -/
def usedRangesOf (rd : Nat → Nat) (d : Desc) (o : Opnd) (h : Hdr) (st : Stream) (us used : List (Nat × Nat)) : List (Nat × Nat) :=
  ((dedup (used.map fun u => rowKey h u.1)).flatMap fun q =>
      rowMetaRanges rd d o h st false used q
        ++ ((itemsRead d rd o h st us q).filter fun it =>
            if isEntry it then (if h.fmt = 3 then touched h used q (it.pos * hB h) (it.pos * hB h + hB h) else touched h used q it.pos (it.pos + 1))
            else faultTouches h used q it).flatMap (itemRanges o.base h))
    ++ valueRanges rd d o h st used

/-- Byte ranges that a tile reads of one operand, and those of what it uses. -/
def TileEnv.ranges (e : TileEnv) (o : Opnd) : List (Nat × Nat) :=
  match o.hdr with
  | none => (e.pointsRead o.w).map fun p => bitRange (rawBitPos e.d e.n o p) (elBits o.ty)
  | some h => readRangesOf e.rd e.d o h (e.stream o e.rowPairs) (e.uses o h)
def TileEnv.usedRanges (e : TileEnv) (o : Opnd) : List (Nat × Nat) :=
  match o.hdr with
  | none => (e.pointsUsed o.w).map fun p => bitRange (rawBitPos e.d e.n o p) (elBits o.ty)
  | some h => usedRangesOf e.rd e.d o h (e.stream o e.rowPairs) (e.uses o h) (e.used o h)

/-- Unwritten rows among the bytes of the ranges, each once. -/
def unwrittenIn (sp : Spad) (rs : List (Nat × Nat)) : List Nat := unwrittenRows sp (dedup (rs.flatMap fun r => rowsOf r.1 r.2))

/-- Unwritten rows that the tile reads, and whether one holds or describes what it uses. -/
def TileEnv.unwritten (e : TileEnv) : List Nat := unwrittenIn e.sp (e.operands.flatMap e.ranges)
def TileEnv.usesUnwritten (e : TileEnv) : Bool := !(unwrittenIn e.sp (e.operands.flatMap e.usedRanges)).isEmpty

end Sys2Proof.Machine
end

