-- ==== Sys2Proof/Machine/Flags.lean ====
section
/-! DEFINITION. Machine/Flags.lean: per-tile flag words (R148), SUMMARY (R145), and the ECC findings of a descriptor (R147,
R170). -/

namespace Sys2Proof.Machine

open Sys2Proof

/-- Flag-word bits of R148; a metadata kind is its own bit. -/
def flSat : Nat := 8
def flNonfin : Nat := 9
def flSkipped : Nat := 10
def flUnwritten : Nat := 11
def flPartial : Nat := 12

/-- The flag word with the given bits. -/
def flagBits (bs : List Nat) : Nat := (dedup bs).foldl (fun w b => w ||| 2 ^ b) 0

/-- OR bits into flag word `num` of a run, unless the word does not lie within FLAGS_LEN (R148). -/
def orFlagWord (k : Core) (r : Run) (num bits : Nat) : Core :=
  let d := descOf r.desc
  if 4 * num + 4 > d.flagsLen then k
  else
    let a := r.base + d.flagsAddr + 4 * num
    { k with spad := spadWrite k.spad a (leBytes 4 (leNum (spadBytes k.spad a 4) ||| bits)) }

def countsZero (c : MetaCounts) : Bool := c == {}

/-- SUMMARY of a run as it stands (R145); PARTIAL is in `r.summary`. -/
def runSummary (r : Run) : Nat :=
  (if r.satTiles = 0 then 0 else 1) + (if r.nonfinTiles = 0 then 0 else 2) + (if countsZero r.counts then 0 else 4)
    + (if r.skippedOut = 0 then 0 else 8) + (if r.unwritten = 0 then 0 else 16) + (if r.summary.getLsbD 5 then 32 else 0)

/-- The record of a run. -/
def runRecord (s : State) (c : Nat) (r : Run) : RecFields :=
  { status := r.status.toNat, op := (descOf r.desc).op, summary := runSummary r, seq := r.seq, counts := r.counts
    skipped := r.skippedOut, unwritten := r.unwritten, satTiles := r.satTiles, nonfinTiles := r.nonfinTiles, tiles := r.tiles
    waitSclk := r.waitSclk, runAclk := coreAclk s c - r.dispAclk }

/-- Set a status unless another stands. -/
def setStatus (r : Run) (st : Nat) : Run := if r.status = 0 then { r with status := BitVec.ofNat 16 st } else r

/-- Physical scratchpad ranges of a run. -/
def runRanges (r : Run) : List (Nat × Nat) :=
  let d := descOf r.desc
  (readRanges d ++ writeRanges d).map fun p => (r.base + p.1, p.2)

/-- ECC findings that lie in a run's ranges. -/
def runHits (r : Run) (hits : EccHits) : EccHits :=
  hits.filter fun h => (runRanges r).any fun p => overlaps (h.1 / 8 * 8) 8 p.1 p.2

/-- A run with UNCORRECTABLE where its findings hold an uncorrectable word (R147, R221). -/
def eccRun (sp : Spad) (r : Run) (hits : EccHits) : Run := if hitsUe sp (runHits r hits) then setStatus r stUncorr else r

end Sys2Proof.Machine
end

