-- ==== Sys2Proof/Machine/Tiles.lean ====
section
/-! DEFINITION. Machine/Tiles.lean: dispatch to the units (R139, R198, R227), and the tiles of matmul, matvec and predict: their
sums, their writeback (R68 to R75, R189, R194, R210, R231), mask selection (R285 to R288, R317 to R320) and TILE_CLOSE. -/

namespace Sys2Proof.Machine

open Sys2Proof

/-! ### Dispatch -/

/-- A matmul holds the fairlead (R198). -/
def usesFairlead (d : Desc) : Bool :=
  match modeOf d with
  | some .dense => false
  | some .nm => d.spill
  | _ => true

/-- The DMA engine runs the descriptor (R137, R328). -/
def isDma (d : Desc) : Bool :=
  (d.op == opCopy && !(d.a.loc == 1 && d.d.loc == 1)) || d.op == opTranspose || d.op == opCompact || d.op == opLoad || d.op == opSend

/-- Units that a descriptor holds from dispatch to completion (R137, R198, R317). -/
def unitsOf (d : Desc) : List Engine :=
  match d.op with
  | 1 => if usesFairlead d then [.array, .fairlead] else [.array]
  | 2 => [.mvp]
  | 3 | 4 => [.fairlead]
  | 10 => [.array, .accPath]
  | 11 => [.accPath]
  | _ => if isDma d then [] else [.memOp]

/-- The small path runs it: a copy or send without headers whose executions move at most 256 bytes of their source (R162, R338). -/
def isSmall (d : Desc) (ns : List Nest) : Bool :=
  (d.op == opCopy || d.op == opSend) && !d.a.hdr && !d.d.hdr && ns.all fun n => decide (bytesRead d n ≤ 256)

/-- Its unit accepts the descriptor: no run holds a unit it needs; a DMA queue has room (R198, R227, R336). -/
def unitFree (k : Core) (q : QDesc) : Bool :=
  let d := descOf q.desc
  if isDma d then
    isSmall d (q.nests.map nestOf) || decide ((k.runs.filter fun r => r.eng == .dma && !r.small && (descOf r.desc).queue == d.queue).length < 8)
  else k.runs.all fun r => r.eng == .dma || (unitsOf d).all fun u => !(unitsOf (descOf r.desc)).contains u

/-- Adds of its group still wait in the accumulator buffer. -/
def addsHold (k : Core) (d : Desc) : Bool :=
  match descGroup d with
  | some (true, g) => addsPending k g
  | _ => false

/-- The head of context `n` is free to go (R139): its unit accepts it, and the group that it names is not open under another context or
folding (R140, R259). -/
def freeToGo (k : Core) (n : Nat) : Option QDesc :=
  match (getCtx k n).queue.head? with
  | some q =>
    if q.passed && unitFree k q && !addsHold k (descOf q.desc) && !groupBlocks k n (descOf q.desc) then some q else none
  | none => none

/-- The head of context `n`, when it is free to go, comes first among such heads and satisfies `p`, and no selected head wants entries
(R139, R142). -/
def dispatchable (s : State) (c n : Nat) (p : Desc → Bool) : Option QDesc :=
  let k := getCore s c
  match freeToGo k n with
  | none => none
  | some q =>
    if p (descOf q.desc) && coreServes s c && !entryShortage s c && (List.range 8).all fun m =>
      m == n || (match freeToGo k m with | some h => !before h q | none => true) then some q else none

def engineOf (d : Desc) : Engine := if isDma d then .dma else (unitsOf d).headD .memOp

/-- The run that a head becomes. -/
def runOf (s : State) (c : Nat) (k : Core) (n : Nat) (q : QDesc) : Run :=
  { ctx := n, seq := q.seq, base := q.base, desc := q.desc, nests := q.nests, caps := q.caps, hdrs := q.hdrs, holds := q.holds
    eng := engineOf (descOf q.desc), order := k.dispatches, dispAclk := coreAclk s c, dispAon := s.aon, dispNclk := coreNclk s c
    waitSclk := headWait (coreSclk s c) q
    small := isSmall (descOf q.desc) (q.nests.map nestOf), status := if q.ue then BitVec.ofNat 16 stUncorr else 0 }

/-- Take the head of context `n` to its unit: `f` begins it. What the checks of the scratchpad words in its ranges find is counted, and
`pre` does the same for the accumulator buffer (R170, R274). -/
def dispatch (s : State) (c n : Nat) (ecc : EccHits) (p : Desc → Bool) (f : State → Core → Run → Core × Run)
    (pre : State → Run → State := fun s _ => s) : Out :=
  onCtx c n <|
    match dispatchable s c n p with
    | none => .next s
    | some q =>
      let k := getCore s c
      let r0 := runOf s c k n q
      let s1 := pre (spadEcc s c (runHits r0 ecc)) r0
      let k1 := popHead (coreSclk s1 c) { getCore s1 c with dispatches := k.dispatches + 1 } n
      let res := f s1 k1 (eccRun k1.spad r0 ecc)
      .next (setCore s1 c { res.1 with runs := res.1.runs ++ [res.2] })

/-! ### Sums of a tile -/

/-- Key of output position (i, j) in the group: within its sub-array under packing (R244, R247), one entry a row for matvec. -/
def entryKey (d : Desc) (prob i j : Nat) : Nat :=
  if d.op = opMatvec then i
  else
    let sz := packSize d
    let q := 64 / sz
    64 * (sz * (prob / q) + i) + sz * (prob % q) + j

/-- Pairs that the pair input takes in one cycle: 16 × min(1, d) (R215). -/
def pairLanes (d : Desc) : Nat := 16 * min 16 (pairDepth16 d) / 16

/-- Adds of a Row product tile in the order of R216, in the batches of its cycles: those of one entry of A, at the rate of the pair
input. -/
def rowProductAdds (e : TileEnv) (prob : Nat) (ty : AccType) : List (List AbufAdd) :=
  (List.range e.rows).flatMap fun i => e.red.flatMap fun p =>
    let adds := (List.range e.cols).filterMap fun j => (e.product i j p).map fun v =>
      ({ group := e.d.agroup, entry := entryKey e.d prob i j, value := v, ty := ty } : AbufAdd)
    batches (pairLanes e.d) adds.length adds

/-- The products of the tile added into the cells. -/
def addTile (e : TileEnv) (prob : Nat) (x : Group) : Group :=
  e.live.foldl (fun x q => if e.on q.1 q.2 then addEntry x (entryKey e.d prob q.1 q.2) (e.products q.1 q.2) else x) x

/-- Entries of A in the tile's reduction range with the row of B that each scans, in Row product mode (R216). -/
def scannedRows (e : TileEnv) (hb : Hdr) : List Nat :=
  (List.range e.rows).flatMap fun i => (e.red.filter fun p => e.holds e.a (posPoint e.n e.t i 0 p)).map fun p =>
    (opSite e.n e.b hb (posPoint e.n e.t i 0 p)).1

/-- Entries and matches of the fairlead's streams in the tile (R222). An entry of a BLOCK operand is an element of a matrix row, and a group
under SPILL counts none (assumption 128). -/
def fairleadStats (e : TileEnv) : Nat × Nat :=
  match e.mode with
  | .dense | .packedMask => (0, 0)
  | .nm => (0, 0)
  | .inner =>
    match e.a.hdr, e.b.hdr with
    | some ha, some hb =>
      e.rowPairs.foldl (fun (acc : Nat × Nat) p =>
        let r := intersectCount (entryPos (keyItems e.rd e.a.base ha e.d.spill p.1)) (entryPos (keyItems e.rd e.b.base hb e.d.spill p.2))
        (acc.1 + r.1 + r.2.1, acc.2 + r.2.2)) (0, 0)
    | _, _ => (0, 0)
  | .rowProduct =>
    match e.a.hdr, e.b.hdr with
    | some ha, some hb =>
      let us := e.uses e.b hb
      let na (i : Nat) : Nat := (entryPos (rowItems e.rd e.a.base ha e.d.spill (e.streamRow e.a ha i))).length
      let nb (r : Nat) : Nat := (entryPos (itemsRead e.d e.rd e.b hb .scan us r)).length
      (((List.range e.rows).map na ++ (scannedRows e hb).map nb).foldl (· + ·) 0, 0)
    | _, _ => (0, 0)
  | _ =>
    (([e.a, e.b].map fun o =>
      match o.hdr with
      | some h => if unstructured h.fmt || h.fmt == 3 then
          (((dedup ((e.uses o h).map (·.1))).map fun r => (entryPos (rowItems e.rd o.base h e.d.spill r)).length).foldl (· + ·) 0) else 0
      | none => 0).foldl (· + ·) 0, 0)

def addFldStats (k : Core) (en ma : Nat) : Core :=
  { k with acc := { k.acc with fldEntries := satAdd k.acc.fldEntries en, fldMatches := satAdd k.acc.fldMatches ma } }

def isArr (d : Desc) : Bool := d.op != opMatvec

/-- Tile `i` of the run begins: its group opens or is joined, and its products are added (R187, R190, R259, R275). -/
def beginTile (k : Core) (r : Run) (i : Nat) : Core × Run :=
  let d := descOf r.desc
  let tiles := tilesOf d (r.nests.map nestOf) r.caps
  match tiles[i]? with
  | none => (k, r)
  | some ti =>
    let e := tileEnv k r ti
    let ty := descAccType d
    let arr := isArr d
    let k1 := joinGroup k arr d.agroup r.ctx ty (d.open_ || decide (i > 0))
    let x := getGroup k1 arr d.agroup
    let k2 :=
      if e.red.isEmpty then k1
      else if e.mode = .rowProduct then
        offerAdds (putGroup k1 arr d.agroup { x with received := true, buffered := true }) (rowProductAdds e ti.prob ty)
      else putGroup k1 arr d.agroup (addTile e ti.prob { x with received := true, buffered := false })
    let st := fairleadStats e
    let done := (tiles.take (i + 1)).map (tileEnv k r)
    (addFldStats k2 st.1 st.2,
     { r with tile := i, openTile := true, counts := runCounts done, unwritten := (dedup (done.flatMap TileEnv.unwritten)).length })

/-! ### Writeback -/

/-- Where an output element goes: its bit position in scratchpad, its linear index (R75), its MX block and the address of that
block's scale byte, and the unused bits at the end of a short last block's row (R74). -/
structure Site where
  pos : Nat
  idx : Nat
  blk : Nat
  scaleAt : Option Nat
  tail : Option (Nat × Nat)

/-- Site of position (i, j) of the tile in slot D (R75, R183, R675). -/
def outSite (r : Run) (e : TileEnv) (i j : Nat) : Site :=
  let d := e.d
  let o := { opnd r d .d with ty := (elTypeOf d.outType).getD .fp32 }
  let p := posPoint e.n e.t i j []
  let w := elBits o.ty
  match o.hdr with
  | some h =>
    let s := opSite e.n o h p
    let rowBits := 8 * ceilDiv (hC h * w) 8
    let row0 := 8 * (o.base + h.payOff) + s.1 * rowBits
    let blk := s.1 * ceilDiv (hC h) 32 + s.2 / 32
    { pos := row0 + s.2 * w, idx := s.1 * hC h + s.2, blk := blk
      scaleAt := if isMx o.ty then some (o.base + h.scaleOff + blk) else none
      tail := if isMx o.ty ∧ hC h % 32 ≠ 0 ∧ s.2 / 32 = (hC h - 1) / 32 then some (row0 + hC h * w, rowBits - hC h * w) else none }
  | none =>
    let el := (rawOffset d e.n .d p).toNat
    -- a raw MX output: blocks are taken by element offset div 32 (assumption 122)
    { pos := 8 * o.base + el * w, idx := el, blk := el / 32, scaleAt := none, tail := none }

/-- What the writeback does at a live position: a computed value, a zero, or nothing. A skipped
position follows SKIP_ZERO (R210), the others R194. -/
inductive Cell where
  | value (acc : W64)
  | zero
  | keep

def cellOf (e : TileEnv) (x : Group) (prob i j : Nat) : Cell :=
  let on := e.on i j
  if !on then (if e.d.skipZero then .zero else .keep)
  else if x.received then .value (Tab.get 0 x.acc (entryKey e.d prob i j))
  else if e.d.woe then .zero else .keep

def isKeep : Cell → Bool
  | .keep => true
  | _ => false

/-- A computed value as an exact value after OUT_SCALE (R70). -/
def scaledVal (d : Desc) (ty : AccType) (a : W64) : FVal := fMul (fmtDecode (accFmt ty) a.toNat) (fmtDecode fmtFp32 d.outScale)

/-- Bits of a computed value in a type that is not MX, and whether the conversion is non-finite (R69 to R73). -/
def outBits (d : Desc) (ty : AccType) (t : ElType) (idx : Nat) (a : W64) : Nat × Bool :=
  match ty with
  | .int32 => (intOutput t a.toNat d.outShift, false)
  | _ => writebackFp (accFmt ty) a.toNat d.outScale t (roundMode d.round d.srSeed (idx % 2 ^ 32))

/-- Write the cells of a tile in a type that is not MX; whether some conversion is non-finite. -/
def writeCells (d : Desc) (ty : AccType) (t : ElType) (sp : Spad) (cells : List (Site × Cell)) : Spad × Bool :=
  cells.foldl (fun (acc : Spad × Bool) sc =>
    match sc.2 with
    | .keep => acc
    | .zero => (spadWriteBits acc.1 0 sc.1.pos (elBits t) 0, acc.2)
    | .value a => let b := outBits d ty t sc.1.idx a; (spadWriteBits acc.1 0 sc.1.pos (elBits t) b.1, acc.2 || b.2)) (sp, false)

/-- Write one MX block of a tile (R74). Its scale is that of the positions which R210 lets it compute, also under a mask, where R324 would have
each computed output as without one (DESIGN CHOICE, assumption 158). -/
def writeBlock (d : Desc) (ty : AccType) (t : ElType) (sp : Spad) (cells : List (Site × Cell)) : Spad :=
  let vals := cells.filterMap fun sc => match sc.2 with | .value a => some (scaledVal d ty a) | _ => none
  let scale := if vals.isEmpty then 0 else mxScale t vals
  let sp1 := cells.foldl (fun sp sc =>
    match sc.2 with
    | .keep => sp
    | .zero => spadWriteBits sp 0 sc.1.pos (elBits t) 0
    | .value a => spadWriteBits sp 0 sc.1.pos (elBits t)
        (mxElement t scale (roundMode d.round d.srSeed (sc.1.idx % 2 ^ 32)) (scaledVal d ty a))) sp
  let written := cells.filter fun sc => !isKeep sc.2
  match written with
  | [] => sp1
  | (site, _) :: _ =>
    let sp2 := match site.scaleAt with | some a => spadWrite sp1 a [BitVec.ofNat 8 scale] | none => sp1
    match site.tail with | some (p, w) => if w = 0 then sp2 else spadWriteBits sp2 0 p w 0 | none => sp2

def writeMx (d : Desc) (ty : AccType) (t : ElType) (sp : Spad) (cells : List (Site × Cell)) : Spad × Bool :=
  ((dedup (cells.map fun sc => sc.1.blk)).foldl (fun sp b => writeBlock d ty t sp (cells.filter fun sc => sc.1.blk == b)) sp,
   cells.any fun sc => match sc.2 with | .value a => !(scaledVal d ty a).isFin | _ => false)

/-- Write back a tile (R231). -/
def writeTile (d : Desc) (ty : AccType) (sp : Spad) (cells : List (Site × Cell)) : Spad × Bool :=
  let t := (elTypeOf d.outType).getD .fp32
  if isMx t then writeMx d ty t sp cells else writeCells d ty t sp cells

/-! ### The top-k selector (R285 to R287) -/

/-- Magnitude of a value. -/
def absVal : FVal → FVal
  | .fin _ m e => .fin false m e
  | .inf _ => .inf false
  | .nan => .nan

/-- Value `a` at position `p` ranks above `b` at `q` (R285). -/
def outranks (a : FVal) (p : Nat) (b : FVal) (q : Nat) : Bool :=
  if a.isNan then (!b.isNan || decide (p < q))
  else if b.isNan then false
  else fLt (absVal b) (absVal a) || (!fLt (absVal a) (absVal b) && decide (p < q))

/-- Positions that the selector takes of (position, value) pairs (R286). -/
def selectPos (d : Desc) (vs : List (Nat × FVal)) : List Nat :=
  let k := argTopk d
  let thr := fmtDecode fmtFp32 (argThreshold d)
  (vs.filter fun v =>
    if k = 0 then v.2.isNan || (!thr.isNan && !fLt (absVal v.2) (absVal thr))
    else decide ((vs.filter fun u => outranks u.2 u.1 v.2 v.1).length < k)).map (·.1)

/-! ### The mask of a predict (R318, R320) -/

/-- Header of the mask with `nnz` set bits (R318). -/
def maskHdr (c r nnz : Nat) : Hdr :=
  canonical { magic := 0x4E4B, fmt := 2, ety := 0, rank := 2, flags := 0, p0 := 0, p1 := 0, ext := [c, r, 0, 0, 0, 0], payOff := 0
              metaOff := 64, scaleOff := 0, nnz := nnz, total := 0, version := 1, valid := 0xA5 }

def maskHdrOf (r : Run) (nnz : Nat) : Hdr :=
  let d := descOf r.desc
  let ex := maskExtents d (nestAt (r.nests.map nestOf) 0) r.caps
  maskHdr ex.1 ex.2 nnz

def maskBase (r : Run) : Nat := r.base + (descOf r.desc).d.addr

/-- Write the BITMAP word and COUNT byte of run `u` of row `row`. -/
def writeMaskWord (sp : Spad) (r : Run) (row u w : Nat) : Spad :=
  let h := maskHdrOf r 0
  let sp1 := spadWrite sp (maskBase r + metaOffs h 1 + 8 * (row * hU h + u)) (leBytes 8 w)
  spadWrite sp1 (maskBase r + metaOffs h 2 + (row * hU h + u)) (leBytes 1 (popBits w 64))

/-- Step 2 of R320 for one tile: the words that it covers. -/
def writeMaskTile (sp : Spad) (r : Run) (e : TileEnv) (sel : List Nat) : Spad :=
  let r0 := (tileExtent e.n e.caps .outRow e.t).1
  let c0 := (tileExtent e.n e.caps .outCol e.t).1
  (List.range e.rows).foldl (fun sp i =>
    writeMaskWord sp r (r0 + i) (c0 / 64) (posBits ((sel.filter fun p => p / 64 == i).map (· % 64)))) sp

/-- Zero padding after each metadata array of a tensor with its header at `b` (R91). -/
def padArrays (sp : Spad) (b : Nat) (h : Hdr) : Spad :=
  let os := arrayOffs h.metaOff (metaSizes h)
  ((os.zip (metaSizes h)).zip (os.drop 1 ++ [h.payOff])).foldl (fun sp (x : (Nat × Nat) × Nat) =>
    spadWrite sp (b + x.1.1 + x.1.2) (List.replicate (x.2 - (x.1.1 + x.1.2)) 0)) sp

/-- Step 3 of R320 up to VALID: zero words that no tile covered, then ROWOFF, payload and header; VALID is written as the descriptor
completes (R320, R322). -/
def finishMask (sp : Spad) (r : Run) : Spad :=
  let n := nestAt (r.nests.map nestOf) 0
  let start (ro : Role) : Nat := match findRole n r.caps ro with | some l => l.start | none => 0
  let h0 := maskHdrOf r 0
  let sp1 := (List.range (hRows h0)).foldl (fun sp row => (List.range (hU h0)).foldl (fun sp u =>
    if row < start .outRow ∨ 64 * u < start .outCol then writeMaskWord sp r row u 0 else sp) sp) sp
  let b := maskBase r
  let pops := (List.range (hRows h0)).map fun row => bmapRowPop (spadReader sp1) b h0 row (hU h0)
  let nnz := pops.foldl (· + ·) 0
  let h := maskHdrOf r nnz
  let sp2 := padArrays (spadWrite sp1 (b + metaOffs h 0) (u32s (rowOffsets 0 pops))) b h
  let sp3 := spadWrite sp2 (b + h.payOff) (packBits 4 (List.replicate nnz 1))
  spadWrite sp3 b (hdrBytes h 0)

/-! ### Closing a tile -/

/-- Report a tile of the run whose group stands as `x`: flag word, SAT and NONFINITE tiles, skipped outputs (R148, R210,
R268). -/
def reportTile (k : Core) (r : Run) (ti : TileAt) (e : TileEnv) (x : Group) (nonfin : Bool) (skipped written : Nat) : Core × Run :=
  let nf := x.nonfin || nonfin
  let bits := flagBits ((if x.sat then [flSat] else []) ++ (if nf then [flNonfin] else []) ++ (if skipped = 0 then [] else [flSkipped])
    ++ (if e.usesUnwritten then [flUnwritten] else []) ++ e.metaKinds)
  let r1 := { r with
    satTiles := r.satTiles + (if x.sat then 1 else 0), nonfinTiles := r.nonfinTiles + (if nf then 1 else 0)
    skippedOut := r.skippedOut + skipped, tiles := r.tiles + (if written = 0 then 0 else 1), openTile := false
    wrote := r.wrote || written != 0, written := if written = 0 then r.written else ti.num :: r.written }
  (orFlagWord k r ti.num bits, if x.ue then setStatus r1 stUncorr else r1)

/-- Positions of the tile that a mask skips (R210). -/
def skippedIn (e : TileEnv) : Nat := (e.live.filter fun q => !e.on q.1 q.2).length

/-- The tile in work closes: it is written back, or its estimates go to the selector, and its group is free (R231, R317). -/
def closeTile (k : Core) (r : Run) : Core × Run :=
  let d := descOf r.desc
  match (tilesOf d (r.nests.map nestOf) r.caps)[r.tile]? with
  | none => (k, r)
  | some ti =>
    let e := tileEnv k r ti
    let arr := isArr d
    let x := getGroup k arr d.agroup
    if d.op = opPredict then
      let vs := e.live.map fun q => (64 * q.1 + q.2, fmtDecode fmtFp32 (Tab.get 0 x.acc (entryKey d 0 q.1 q.2)).toNat)
      let sp := writeMaskTile k.spad r e (selectPos d vs)
      reportTile (closeGroup { k with spad := sp } arr d.agroup) r ti e x false 0 1
    else
      let cells := e.live.map fun q => (outSite r e q.1 q.2, cellOf e x ti.prob q.1 q.2)
      let out := writeTile d x.ty k.spad cells
      reportTile (closeGroup { k with spad := out.1 } arr d.agroup) r ti e x out.2 (skippedIn e)
        (cells.filter fun sc => !isKeep sc.2).length

/-- After a tile has closed: the next one begins, or the run is finished. -/
def nextTile (k : Core) (r : Run) : Core × Run :=
  let d := descOf r.desc
  if r.tile + 1 < (tilesOf d (r.nests.map nestOf) r.caps).length then beginTile k r (r.tile + 1)
  else
    let k1 := if d.op = opPredict then { k with spad := finishMask k.spad r } else k
    (k1, { r with finished := true })

def findRun (k : Core) (n seq : Nat) : Option Run := k.runs.find? fun r => r.ctx == n && r.seq == seq
def putRun (k : Core) (r : Run) : Core := { k with runs := k.runs.map fun x => if x.ctx = r.ctx ∧ x.seq = r.seq then r else x }
def dropRun (k : Core) (n seq : Nat) : Core := { k with runs := k.runs.filter fun r => !(r.ctx == n && r.seq == seq) }

/-- A tile operation begins at its unit: its first tile, or, with no tile, only its OPEN and CLOSE where it is carried
(R193); closing a group that holds an uncorrectable word, it ends with UNCORRECTABLE (R274). -/
def startTiles (k : Core) (r : Run) : Core × Run :=
  let d := descOf r.desc
  let arr := isArr d
  if (tilesOf d (r.nests.map nestOf) r.caps).isEmpty then
    if d.open_ && d.close then (k, { r with finished := true })
    else
      let k1 := joinGroup k arr d.agroup r.ctx (descAccType d) d.open_
      let r1 := if d.close && (getGroup k1 arr d.agroup).ue then setStatus r stUncorr else r
      (if d.close then closeGroup k1 arr d.agroup else k1, { r1 with finished := true })
  else
    let k1 := if d.op = opPredict then { k with spad := spadWrite k.spad (maskBase r + 63) [0] } else k
    let b := beginTile k1 { r with wrote := d.op == opPredict } 0
    (b.1, { b.2 with finished := !d.close })

/-- The first tile's products join a group that lives in the accumulator buffer, which moves into the cells (R275, R277). -/
def movesArea (k : Core) (r : Run) : Bool :=
  let d := descOf r.desc
  let x := getGroup k true d.agroup
  d.op == opMatmul && x.st == .opened && x.buffered && !d.open_ && x.ty == descAccType d && modeOf d != some .rowProduct
    && !(redPoints (nestAt (r.nests.map nestOf) 0) r.caps).isEmpty && !(tilesOf d (r.nests.map nestOf) r.caps).isEmpty

/-- A matmul; `abuf` are findings of the words of a buffered group that moves into the cells (R274). -/
def execMatmul (c n : Nat) (ecc abuf : EccHits) (s : State) : Out :=
  dispatch s c n ecc (fun d => d.op == opMatmul) (fun _ k r => startTiles k r)
    fun s r => if movesArea (getCore s c) r then readArea s c (descOf r.desc).agroup abuf else s
def execMatvec (c n : Nat) (ecc : EccHits) (s : State) : Out :=
  dispatch s c n ecc (fun d => d.op == opMatvec) fun _ k r => startTiles k r
def execPredict (c n : Nat) (ecc : EccHits) (s : State) : Out :=
  dispatch s c n ecc (fun d => d.op == opPredict) fun _ k r => startTiles k r

/-- The run's tile in work may close: every add of its group has retired (R272), the descriptor closes its group, and no top-k select
holds the array's writeback path (R317). -/
def mayCloseTile (k : Core) (r : Run) : Bool :=
  let d := descOf r.desc
  r.openTile && d.close && !r.finished && !r.stopped && !(isArr d && addsPending k d.agroup)
    && !(isArr d && k.runs.any fun x => (descOf x.desc).op == opTopk)

/-- The area of a buffered group is read as its tile closes (R274, R276). -/
def closesArea (k : Core) (r : Run) : Bool := isArr (descOf r.desc) && (getGroup k true (descOf r.desc).agroup).buffered

/-- TILE_CLOSE (R231). -/
def execTileClose (c n seq : Nat) (ecc abuf : EccHits) (s : State) : Out :=
  onCtx c n <|
    match findRun (getCore s c) n seq with
    | none => .next s
    | some r =>
      if mayCloseTile (getCore s c) r then
        let s0 := if closesArea (getCore s c) r then readArea s c (descOf r.desc).agroup abuf else s
        let s1 := spadEcc s0 c (runHits r ecc)
        let a := closeTile (getCore s1 c) (eccRun (getCore s1 c).spad r ecc)
        let b := nextTile a.1 a.2
        .next (setCore s1 c (putRun b.1 b.2))
      else .next s

end Sys2Proof.Machine
end

