-- ==== Sys2Proof/Machine/WholeOps.lean ====
section
/-! DEFINITION. Machine/WholeOps.lean: operations that a unit carries out whole at dispatch: merge and intersect (R218 to R221),
fill and scratchpad copy (R161, R162), top-k select (R287, R321); and DESCRIPTOR_COMPLETE (R144). -/

namespace Sys2Proof.Machine

open Sys2Proof

/-- Executions of a run: number and point (R181, R195). -/
def execsOf (r : Run) : List (Nat × Point) :=
  ((pointsOf (nestAt (r.nests.map nestOf) 0) r.caps).zipIdx).map fun (pk : Point × Nat) => (pk.2, pk.1)

def runNest (r : Run) : Nest := nestAt (r.nests.map nestOf) 0

/-- Report execution `num`: its flag word; it counts as a tile where it `wrote` (R145, R195). -/
def reportExec (k : Core) (r : Run) (num : Nat) (bits : List Nat) (wrote : Bool) : Core × Run :=
  (orFlagWord k r num (flagBits bits),
   { r with tiles := r.tiles + (if wrote then 1 else 0)
            nonfinTiles := r.nonfinTiles + (if bits.contains flNonfin then 1 else 0)
            satTiles := r.satTiles + (if bits.contains flSat then 1 else 0) })

/-- Add unwritten rows of executions, each row once a descriptor (R167). -/
def withUnwritten (r : Run) (rows : List Nat) : Run := { r with unwritten := (dedup rows).length }

/-! ### Writes of a whole operation, and a cancel among them (R351) -/

/-- Write packed elements of `w` bits from byte `a` on, keeping the other bits of a partly written last byte (R162). -/
def writePacked (sp : Spad) (a w : Nat) (vs : List Nat) : Spad :=
  if vs.isEmpty then sp else spadWriteBits sp a 0 (vs.length * w) (packNum w vs)

/-- A write of bytes. -/
def putBytes (exec a : Nat) (bs : List Byte) : Put := { exec := exec, addr := a, vals := bs.map BitVec.toNat }

def doPuts (sp : Spad) (ps : List Put) : Spad :=
  ps.foldl (fun sp p => if p.width = 8 then spadWrite sp p.addr (p.vals.map (BitVec.ofNat 8)) else writePacked sp p.addr p.width p.vals) sp

/-- Wide lines that a write touches (R153). -/
def putLines (p : Put) : Nat :=
  let n := ceilDiv (p.vals.length * p.width) 8
  if n = 0 then 0 else (p.addr + n - 1) / 512 - p.addr / 512 + 1

/-- The first `m` wide lines of the writes, in their order, and the rest. -/
def splitPuts : Nat → List Put → List Put × List Put
  | _, [] => ([], [])
  | m, p :: t =>
    if putLines p ≤ m then let x := splitPuts (m - putLines p) t; (p :: x.1, x.2)
    else if m = 0 then ([], p :: t)
    else
      let n := (512 * m - p.addr % 512) * 8 / p.width
      ([{ p with vals := p.vals.take n }], { p with addr := p.addr + n * p.width / 8, vals := p.vals.drop n } :: t)

/-- The unit carries out a whole operation: `ps` are its writes in order, `notes` what its executions report, `wrote` which of them write. With
`lines` it has issued the writes of only so many wide lines before the next command, which may be a cancel (R351; assumption 149). -/
def carryOut (k : Core) (r : Run) (ps : List Put) (notes : List ExecNote) (wrote : Bool) (lines : Option Nat) : Core × Run :=
  let x := match lines with | some m => splitPuts m ps | none => (ps, [])
  let k1 := { k with spad := doPuts k.spad x.1 }
  if x.2.isEmpty then
    let a := notes.foldl (fun (a : Core × Run) e => reportExec a.1 a.2 e.exec e.bits wrote) (k1, r)
    (a.1, { a.2 with finished := true, wrote := true })
  else (k1, { r with rest := x.2, notes := notes, wrote := r.wrote || !x.1.isEmpty, written := dedup (x.1.map (·.exec)) })

/-- The writes that are still to be issued are issued. -/
def carryRest (k : Core) (r : Run) : Core × Run :=
  if r.rest.isEmpty || r.stopped then (k, r)
  else ({ k with spad := doPuts k.spad r.rest }, { r with rest := [], finished := true, wrote := true, written := r.notes.map (·.exec) })

/-! ### Fill and copy -/

/-- Bytes of a fill of `n` bytes (R161). -/
def fillBytes (v n : Nat) : List Byte := (List.range n).map fun i => BitVec.ofNat 8 (v / 256 ^ (i % 8))

def startFill (lines : Option Nat) (k : Core) (r : Run) : Core × Run :=
  let d := descOf r.desc
  let n := runNest r
  carryOut k r ((execsOf r).map fun x => putBytes x.1 (r.base + startOf d n .d x.2) (fillBytes (argFill d) (lenOf d n .d)))
    ((execsOf r).map fun x => { exec := x.1, bits := [], rows := [] }) (lenOf d n .d != 0) lines

/-- Bytes of one execution of a raw copy: what is written from the start of D, the number of bits, and whether some conversion is
non-finite (R76, R162). -/
def copyData (d : Desc) (n : Nest) (p : Point) (src : List Byte) : List Nat × Nat × Bool :=
  let wa := slotBits d .a
  let wd := slotBits d .d
  if d.a.ty = d.d.ty then
    let len := min (lenOf d n .a) (lenOf d n .d)
    ((src.take len).map BitVec.toNat, 8, false)
  else
    let num := leNum src
    let idx0 := 8 * (startOf d n .d p - d.d.addr) / wd
    let a := (tyOf d.a).getD .int8
    let o := (tyOf d.d).getD .int8
    let outs := (List.range (convertCount d n)).map fun i =>
      copyConvert a o (bf num (i * wa) wa) d.round d.srSeed ((idx0 + i) % 2 ^ 32) d.outScale d.outShift
    (outs.map (·.1), wd, outs.any (·.2))

/-- A scratchpad copy: what its executions write and report, from the scratchpad as each begins. -/
def copyPuts (r : Run) : Spad → List (Nat × Point) → List (Put × ExecNote)
  | _, [] => []
  | sp, x :: t =>
    let d := descOf r.desc
    let n := runNest r
    let src := r.base + startOf d n .a x.2
    let out := copyData d n x.2 (spadBytes sp src (lenOf d n .a))
    let un := unwrittenIn sp [(src, bytesRead d n)]
    let p : Put := { exec := x.1, addr := r.base + startOf d n .d x.2, width := out.2.1, vals := out.1 }
    (p, { exec := x.1, bits := (if out.2.2 then [flNonfin] else []) ++ (if un.isEmpty then [] else [flUnwritten]), rows := un })
      :: copyPuts r (doPuts sp [p]) t

def startCopy (lines : Option Nat) (k : Core) (r : Run) : Core × Run :=
  let d := descOf r.desc
  let ps := copyPuts r k.spad (execsOf r)
  carryOut k (withUnwritten r (ps.flatMap (·.2.rows))) (ps.map (·.1)) (ps.map (·.2)) (bytesRead d (runNest r) != 0) lines

/-! ### Top-k select (R287, R321) -/

def startTopk (lines : Option Nat) (k : Core) (r : Run) : Core × Run :=
  let d := descOf r.desc
  let n := runNest r
  let w := slotBits d .a
  let cnt := 8 * lenOf d n .a / w
  let ty := (tyOf d.a).getD .fp32
  let xs := execsOf r
  if xs.isEmpty then (k, { r with finished := true })
  else
    let rd := spadReader k.spad
    let rows : Rows := xs.map fun x =>
      let b := 8 * (r.base + startOf d n .a x.2)
      (selectPos d ((List.range cnt).map fun i => (i, elValue ty (bitsAt rd (b + i * w) w) 127))).map fun p => (p, 1)
    let h := maskHdr cnt xs.length ((rows.map List.length).foldl (· + ·) 0)
    let un (x : Nat × Point) : List Nat := unwrittenIn k.spad [(r.base + startOf d n .a x.2, ceilDiv (cnt * w) 8)]
    carryOut k (withUnwritten r (xs.flatMap un))
      [putBytes 0 (maskBase r + 63) [0], putBytes 0 (maskBase r + 64) (tensorBody h rows [] [] []), putBytes 0 (maskBase r) (hdrBytes h 0)]
      (xs.map fun x => { exec := x.1, bits := if (un x).isEmpty then [] else [flUnwritten], rows := un x }) true lines

/-! ### Merge and intersect (R218 to R220) -/

/-- Entries of a row with their exact values. -/
def rowVals (rd : Nat → Nat) (d : Desc) (o : Opnd) (h : Hdr) (row : Nat) : List (Nat × FVal) :=
  ((rowItems rd o.base h d.spill row).filter isEntry).map fun it => (it.pos, elValue o.ty it.val (scaleAt rd o.base h row it.pos))

/-- The value of a merge or intersect at an index before writeback (R218): an exact value, or one already in the accumulator. -/
def mergeVal (ty : AccType) (a b : FVal) : FVal × AccFlags :=
  match ty with
  | .int32 => let c := clampInt 32 (fToInt (fAdd false a b)); (fOfInt c.1, ⟨c.2, false⟩)
  | t =>
    match fAdd false a b with
    | .fin n m e =>
      let bits := (magBits (accFmt t) .rne n m e).1
      (fmtDecode (accFmt t) (fmtSign (accFmt t) n + min bits (fmtMaxFin (accFmt t))), ⟨decide (bits > fmtMaxFin (accFmt t)), false⟩)
    | v => (v, ⟨false, true⟩)

/-- Merge two rising streams; `fuel` is the sum of their lengths. -/
def mergeRows (ty : AccType) : Nat → List (Nat × FVal) → List (Nat × FVal) → List (Nat × FVal) × AccFlags
  | 0, _, _ => ([], {})
  | fuel + 1, as, bs =>
    match as, bs with
    | [], [] => ([], {})
    | [], _ => (bs, {})
    | _, [] => (as, {})
    | (i, a) :: at_, (j, b) :: bt =>
      if i < j then let r := mergeRows ty fuel at_ bs; ((i, a) :: r.1, r.2)
      else if j < i then let r := mergeRows ty fuel as bt; ((j, b) :: r.1, r.2)
      else
        let v := mergeVal ty a b
        let r := mergeRows ty fuel at_ bt
        ((i, v.1) :: r.1, v.2.or r.2)

def intersectRows (as bs : List (Nat × FVal)) : List (Nat × FVal) :=
  as.filterMap fun a => (bs.find? (·.1 == a.1)).map fun b => (a.1, fMul a.2 b.2)

/-- The output rows of a merge or intersect before conversion. -/
def joinedRows (rd : Nat → Nat) (d : Desc) (oa ob : Opnd) (ha hb : Hdr) : List (List (Nat × FVal)) :=
  (List.range (hRows ha)).map fun r =>
    let a := rowVals rd d oa ha r
    let b := rowVals rd d ob hb r
    if d.op = opMerge then (mergeRows (descAccType d) (a.length + b.length) a b).1 else intersectRows a b

/-- A sum among the first `ns[r]` entries of the rows of a merge saturates (R66, R67). -/
def joinSat (rd : Nat → Nat) (d : Desc) (oa ob : Opnd) (ha hb : Hdr) (ns : List Nat) : Bool :=
  d.op == opMerge && ns.zipIdx.any fun x =>
    (mergeRows (descAccType d) x.1 (rowVals rd d oa ha x.2) (rowVals rd d ob hb x.2)).2.sat

/-- The output header for a capacity of `cap` entries, before NNZ is set (R219). -/
def mergeHdr (d : Desc) (ha : Hdr) (cap : Nat) : Hdr :=
  canonical { ha with fmt := d.outFmt, ety := d.outType, flags := if d.outFmt = 4 ∧ hC ha > 65536 then 4 else 0, p0 := 0, p1 := 0
                      nnz := if d.outFmt = 0 then prodList (ha.ext.take ha.rank) else cap, valid := 0xA5, version := 1, magic := 0x4E4B }

/-- The largest count up to `hi` whose arrays fit within `len`, by halving (R219). -/
def largestFit (fits : Nat → Bool) : Nat → Nat → Nat → Nat
  | 0, lo, _ => lo
  | fuel + 1, lo, hi =>
    if hi ≤ lo then lo
    else
      let mid := (lo + hi + 1) / 2
      if fits mid then largestFit fits fuel mid hi else largestFit fits fuel lo (mid - 1)

/-- Keep the first `cap` entries in row order (R220). -/
def capRows {α : Type} : Nat → List (List α) → List (List α)
  | _, [] => []
  | cap, r :: t => r.take cap :: capRows (cap - r.length) t

/-- Value bits of one output row in a type that is not MX, and whether some conversion is non-finite. -/
def convertRow (d : Desc) (ty : AccType) (t : ElType) (idx : Nat → Nat) (row : List (Nat × FVal)) : List (Nat × Nat) × Bool :=
  let outs := row.map fun e =>
    match ty with
    | .int32 => (e.1, (intBits (elBits t) (clampInt (elBits t) (shiftRne (fToInt e.2) d.outShift)).1, false))
    | _ => (e.1, fpOutput t (roundMode d.round d.srSeed (idx e.1 % 2 ^ 32)) (fMul e.2 (fmtDecode fmtFp32 d.outScale)))
  (outs.map fun o => (o.1, o.2.1), outs.any (·.2.2))

/-- One output row in an MX type: elements and the scale bytes of its blocks (R74). -/
def convertRowMx (d : Desc) (t : ElType) (c : Nat) (idx : Nat → Nat) (row : List (Nat × FVal)) : List (Nat × Nat) × List Byte × Bool :=
  let vs := row.map fun e => (e.1, fMul e.2 (fmtDecode fmtFp32 d.outScale))
  let scales := (List.range (ceilDiv c 32)).map fun b =>
    let bv := (vs.filter fun e => e.1 / 32 == b).map (·.2)
    if bv.isEmpty then 0 else mxScale t bv
  (vs.map fun e => (e.1, mxElement t (scales.getD (e.1 / 32) 0) (roundMode d.round d.srSeed (idx e.1 % 2 ^ 32)) e.2),
   scales.map (BitVec.ofNat 8), vs.any fun e => !e.2.isFin)

/-- Rows as DENSE rows: zero where no entry exists. -/
def denseRow (c : Nat) (row : List (Nat × Nat)) : List (Nat × Nat) :=
  (List.range c).map fun i => (i, (row.find? (·.1 == i)).elim 0 (·.2))

/-- How merge and intersect read the rows of operand `o`, whose partner is `o2` (R213). -/
def joinStream (d : Desc) (o2 : Opnd) (h h2 : Hdr) : Stream :=
  if d.op = opIntersect then .meets o2 h2 ((List.range (hRows h)).map fun r => (r, r)) else .whole

/-- Faults of one operand of a merge (read whole) or an intersect (read until a stream ends): kinds over its rows. -/
def joinFaults (rd : Nat → Nat) (d : Desc) (o o2 : Opnd) (h h2 : Hdr) : List Nat :=
  let ks := (List.range (hRows h)).flatMap fun r => (itemsRead d rd o h (joinStream d o2 h h2) [] r).filterMap (·.fault)
  ks ++ (if h.fmt = 5 then (coordRow rd o.base h (hRows h)).filterMap (·.fault) else [])

/-- Stochastic rounding's index of element `c` of row `r`: row-major in a tensor with a header; in a raw one its position in elements from
bit 0 of slot D (R75), the execution writing from byte `at_` of it on, rounded down where a row of MXFP6 begins within an element (DESIGN CHOICE, assumption 147). -/
def outIdx (d : Desc) (h : Hdr) (w at_ r c : Nat) : Nat :=
  if d.d.hdr then r * hC h + c else (8 * at_ + r * (8 * ceilDiv (hC h * w) 8) + c * w) / w

/-- Items of row `q` that a merge or intersect reads. -/
def joinItems (rd : Nat → Nat) (d : Desc) (o o2 : Opnd) (h h2 : Hdr) (q : Nat) : List Item :=
  itemsRead d rd o h (joinStream d o2 h h2) [] q

/-- Byte ranges that a merge or intersect reads of operand `o`. -/
def joinRanges (rd : Nat → Nat) (d : Desc) (o o2 : Opnd) (h h2 : Hdr) : List (Nat × Nat) :=
  let st := joinStream d o2 h h2
  let rows := List.range (hRows h)
  readRangesOf rd d o h st (rows.map fun r => (r, 0))
    ++ valueRanges rd d o h st (rows.flatMap fun r => (entryPos (joinItems rd d o o2 h h2 r)).map fun p => (r, p))

/-- The rows of a merge or intersect in the output type, with MX scale bytes and whether some conversion is non-finite, of the execution that
writes from byte `at_` of slot D on. -/
def joinConv (d : Desc) (ha : Hdr) (kept : List (List (Nat × FVal))) (at_ : Nat) : List (List (Nat × Nat) × List Byte × Bool) :=
  let t := (elTypeOf d.outType).getD .fp32
  (kept.zipIdx).map fun (x : List (Nat × FVal) × Nat) =>
    if isMx t then convertRowMx d t (hC ha) (outIdx d ha (elBits t) at_ x.2) x.1
    else let c := convertRow d (descAccType d) t (outIdx d ha (elBits t) at_ x.2) x.1; (c.1, [], c.2)

/-- The output header with its count of entries, whose arrays stand where the capacity of `h0` places them (R219). -/
def joinHdr (d : Desc) (h0 : Hdr) (nnz : Nat) : Hdr :=
  if d.outFmt = 0 then h0
  else
    let p := { h0 with nnz := nnz }
    let pEnd := p.payOff + payloadSize p
    if isMx ((elTypeOf d.outType).getD .fp32) then { p with scaleOff := align64 pEnd, total := align64 pEnd + scaleSize p } else { p with total := pEnd }

/-- The writes of one execution of a merge or intersect, in order: of a tensor VALID first to zero and last to 0xA5 (R90, R219). -/
def joinPuts (r : Run) (ha h : Hdr) (conv : List (List (Nat × Nat) × List Byte × Bool)) (x : Nat × Point) : List Put :=
  let d := descOf r.desc
  let rows : Rows := if d.outFmt = 0 then conv.map fun c => denseRow (hC ha) c.1 else conv.map (·.1)
  if d.outFmt = 0 ∧ !d.d.hdr then [putBytes x.1 (r.base + startOf d (runNest r) .d x.2) (payloadBytes h rows [])]
  else
    let b := r.base + d.d.addr
    [putBytes x.1 (b + 63) [0], putBytes x.1 (b + 64) (tensorBody h rows [] [] (conv.flatMap (·.2.1))), putBytes x.1 b ((hdrBytes h 0).take 63),
      putBytes x.1 (b + 63) [0xA5]]

def startJoin (lines : Option Nat) (k : Core) (r : Run) : Core × Run :=
  let d := descOf r.desc
  let oa := opnd r d .a
  let ob := opnd r d .b
  match oa.hdr, ob.hdr with
  | some ha, some hb =>
    let rd := spadReader k.spad
    let rows := joinedRows rd d oa ob ha hb
    let fits (n : Nat) : Bool := decide ((mergeHdr d ha n).total ≤ d.d.len)
    let cap := if d.outFmt = 0 then 0 else largestFit fits 33 0 (argOutCap d)
    let h0 := mergeHdr d ha cap
    let raw : Bool := d.outFmt == 0 && !d.d.hdr
    let size := if raw then payloadSize h0 else h0.total
    if (execsOf r).isEmpty then (k, { r with finished := true })
    else if size > (if raw then lenOf d (runNest r) .d else d.d.len) then (k, { setStatus r stShape with finished := true })
    else
      let total := (rows.map List.length).foldl (· + ·) 0
      let kept := if d.outFmt = 0 then rows else capRows cap rows
      let h := joinHdr d h0 ((kept.map List.length).foldl (· + ·) 0)
      let conv (x : Nat × Point) := joinConv d ha kept (if raw then startOf d (runNest r) .d x.2 - d.d.addr else 0)
      let kinds := joinFaults rd d oa ob ha hb ++ joinFaults rd d ob oa hb ha
      let un := unwrittenIn k.spad (joinRanges rd d oa ob ha hb ++ joinRanges rd d ob oa hb ha)
      let partialOut := d.outFmt != 0 && decide (total > cap)
      let ents (o o2 : Opnd) (h h2 : Hdr) : Nat :=
        ((List.range (hRows h)).map fun q => (entryPos (joinItems rd d o o2 h h2 q)).length).foldl (· + ·) 0
      let k1 := addFldStats k (ents oa ob ha hb + ents ob oa hb ha) (if d.op = opIntersect then total else 0)
      let bits := kinds ++ (if joinSat rd d oa ob ha hb (kept.map List.length) then [flSat] else []) ++ (if un.isEmpty then [] else [flUnwritten])
      carryOut k1 { withUnwritten r un with counts := kinds.foldl addKind {}, summary := if partialOut then 32 else 0 }
        ((execsOf r).flatMap fun x => joinPuts r ha h (conv x) x)
        ((execsOf r).map fun x =>
          { exec := x.1, bits := bits ++ (if (conv x).any (·.2.2) then [flNonfin] else []) ++ (if partialOut && x.1 == 0 then [flPartial] else [])
            rows := un }) (size != 0) lines
  | _, _ => (k, { r with finished := true })

def execMerge (c n : Nat) (ecc : EccHits) (lines : Option Nat) (s : State) : Out :=
  dispatch s c n ecc (fun d => d.op == opMerge) fun _ k r => startJoin lines k r
def execIntersect (c n : Nat) (ecc : EccHits) (lines : Option Nat) (s : State) : Out :=
  dispatch s c n ecc (fun d => d.op == opIntersect) fun _ k r => startJoin lines k r
def execFill (c n : Nat) (ecc : EccHits) (lines : Option Nat) (s : State) : Out :=
  dispatch s c n ecc (fun d => d.op == opFill) fun _ k r => startFill lines k r
def execTopKSelect (c n : Nat) (ecc : EccHits) (lines : Option Nat) (s : State) : Out :=
  dispatch s c n ecc (fun d => d.op == opTopk) fun _ k r => startTopk lines k r

/-! ### DESCRIPTOR_COMPLETE (R144) -/

/-- A carried descriptor's tile is reported when its work on it has ended (R268). -/
def reportCarried (k : Core) (r : Run) : Core × Run :=
  let d := descOf r.desc
  match (if r.openTile && !d.close then (tilesOf d (r.nests.map nestOf) r.caps)[r.tile]? else none) with
  | none => (k, r)
  | some ti =>
    let e := tileEnv k r ti
    reportTile k r ti e (getGroup k (isArr d) d.agroup) false (skippedIn e) 0

/-- The next tile enters the chain at its head. -/
def enterNext (h : Hal) : Hal :=
  let t := h.tile.toNat + 1
  { h with tile := BitVec.ofNat 32 t, slots := Tab.set h.slots ((t - 1) % 2) { tile := some t } }

/-- A completed head fill enters its tile into the chain, and after it the tile of a later fill that has completed before it (R336, R358). -/
def enterTile (k : Core) (r : Run) : Core :=
  let h := k.dma.hal
  let i := h.tile.toNat % 2
  let fills := fillsSlot k r.ctx r.base (descOf r.desc)
  let put (h : Hal) : Core := { k with dma := { k.dma with hal := h } }
  if r.status ≠ 0 ∨ h.st ≠ .running then k
  else if fills i then put (if (relaySlot h (1 - i)).arrived then enterNext (enterNext h) else enterNext h)
  else if fills (1 - i) then put { h with slots := Tab.set h.slots (1 - i) { arrived := true } }
  else k

/-- The mask of a predict or top-k select becomes valid as it completes, unless it was cancelled or its context killed (R320, R322). -/
def publishMask (k : Core) (r : Run) : Core :=
  let op := (descOf r.desc).op
  if (op = opPredict ∨ op = opTopk) ∧ r.wrote ∧ !r.stopped ∧ !r.killed then { k with spad := spadWrite k.spad (maskBase r + 63) [0xA5] } else k

/-- The run completes: record, entries, token window; waiting contexts wake (R122, R144). -/
def completeRun (s : State) (c : Nat) (k : Core) (r : Run) : Core :=
  let k1 := sbRelease (dropRun (enterTile (publishMask k r) r) r.ctx r.seq) r.holds
  writeRecord k1 r.ctx (r.base + (descOf r.desc).tokenAddr) (runRecord s c r)

/-- Every write that a stopped run issued is visible, and its issued messages have been accepted or refused (R352, R374). -/
def stoppedQuiet (k : Core) (r : Run) : Bool :=
  r.bursts.all (fun b => !b.issued || b.done) &&
    !(k.mesh.sends.any fun e => e.ctx == r.ctx && e.seq == r.seq && e.kind == 0 && e.st == .sent)

/-- A run whose last write is visible may complete. -/
def mayComplete (k : Core) (r : Run) : Bool :=
  let d := descOf r.desc
  if r.stopped then stoppedQuiet k r else (r.finished || !r.rest.isEmpty) && !(d.op == opMatmul && r.openTile && addsPending k d.agroup)

/-- The executions of a copy or send that have written are reported as it completes (R195); one that ends with SLOT_TIMEOUT
after filled slots is PARTIAL (R386). -/
def reportNotes (k : Core) (r : Run) : Core × Run :=
  let done := r.notes.filter fun x => r.written.contains x.exec
  let a := done.foldl (fun (a : Core × Run) x => reportExec a.1 a.2 x.exec x.bits true) (k, r)
  let cut := r.status.toNat == stSlotTo && !r.written.isEmpty
  if r.notes.isEmpty then a
  else (a.1, { withUnwritten a.2 (done.flatMap (·.rows)) with summary := if cut then r.summary ||| 32 else r.summary })

/-- PARTIAL in the flag word of every tile or execution that a stopped run has partly or wholly written; the execution in work of
a tensor operation is a tile written (R352). -/
def reportStopped (k : Core) (r : Run) : Core × Run :=
  let a := reportNotes k r
  let open_ := r.notes.isEmpty && r.eng == .dma && r.written.contains r.tile
  ((dedup r.written).foldl (fun k i => orFlagWord k r i (flagBits [flPartial])) a.1,
   { a.2 with tiles := a.2.tiles + (if open_ then 1 else 0) })

/-- The send executions of a run leave with it. -/
def dropSends (k : Core) (r : Run) : Core :=
  { k with mesh := { k.mesh with sends := k.mesh.sends.filter fun e => !(e.ctx == r.ctx && e.seq == r.seq) } }

/-- A stopped run as its record shows it: CANCELLED, PARTIAL where a destination byte was written (R352). -/
def asStopped (r : Run) : Run := { r with status := BitVec.ofNat 16 stCancelled, summary := if r.wrote then r.summary ||| 32 else r.summary }

/-- A completing run whose flag words are merged finds what the check of their words finds (R148, R170). -/
def flagHits (r : Run) (hits : EccHits) : EccHits :=
  let d := descOf r.desc
  if d.flagsLen = 0 ∨ (r.notes.isEmpty ∧ !r.stopped ∧ (!r.openTile ∨ d.close)) then []
  else hitsIn [(r.base + d.flagsAddr, d.flagsLen)] hits

end Sys2Proof.Machine
end

