-- ==== Sys2Proof/Machine/Compact.lean ====
section
/-! DEFINITION. Machine/Compact.lean: what a load, a transpose-copy and a compaction store write (R332, R333, R344 to R347), as
pure functions of the source bytes. -/

namespace Sys2Proof.Machine

open Sys2Proof

/-- A piece of a transfer: data from a place, or the bytes themselves, to an offset of the destination. `at_` and `to_` give for each of those
bytes the source addresses, first and past the last, that it is made from; bytes that the engine makes itself have none (assumption 130).
With `made` the bytes are made as that place's data comes. -/
structure Piece where
  src : Option Loc
  data : List Byte := []
  off : Nat
  len : Nat
  at_ : List Nat := []
  to_ : List Nat := []
  made : Option Loc := none

/-- A destination tensor: its header with VALID zero, and its pieces after the header in offset order. -/
structure Image where
  hdr : List Byte
  body : List Piece
  total : Nat
  counts : MetaCounts := {}
  kinds : List Nat := []
  nonfin : Bool := false

def literal (off : Nat) (bs : List Byte) : List Piece := if bs.isEmpty then [] else [{ src := none, data := bs, off := off, len := bs.length }]

/-- `n` bytes further on. -/
def Loc.add : Loc → Nat → Loc
  | .spad c a, n => .spad c (a + n)
  | .device a, n => .device (a + n)
  | .remote m a, n => .remote m (a + n)
  | .slot c t q o, n => .slot c t q (o + n)
  | .tree t, _ => .tree t
  | .engine, _ => .engine

/-- The same kind of place at another address. -/
def Loc.moved : Loc → Nat → Loc
  | .spad c _, n => .spad c n
  | .device _, n => .device n
  | .remote m _, n => .remote m n
  | l, _ => l

/-! ### Tensor copy and load (R330, R332) -/

/-- A tensor copy: the TOTAL_BYTES bytes unchanged. -/
def copyImage (h : Hdr) (src : Loc) : Image :=
  { hdr := hdrBytes h 0, total := h.total
    body := if h.total ≤ 64 then [] else [{ src := some (src.add 64), off := 64, len := h.total - 64 }] }

/-- The arrays of a header as (offset, size), the parts of an NM payload apart, in the order of the canonical layout. -/
def arrayParts (h : Hdr) : List (Nat × Nat) :=
  (arrayOffs h.metaOff (metaSizes h)).zip (metaSizes h)
    ++ (if h.fmt = 1 ∧ hSpill h then [(h.payOff, hRows h * hSlotRow h), (spillOff h, ceilDiv (hS h * hElBits h) 8)]
        else [(h.payOff, payloadSize h)])
    ++ (if hIsMx h then [(h.scaleOff, scaleSize h)] else [])

/-- Array parts at their canonical offsets, zero padding between them and up to TOTAL_BYTES. -/
def loadPieces (src : Loc) (total : Nat) : Nat → List ((Nat × Nat) × (Nat × Nat)) → List Piece
  | pos, [] => literal pos (List.replicate (total - pos) 0)
  | pos, (a, b) :: t =>
    if b.2 = 0 then loadPieces src total pos t
    else literal pos (List.replicate (b.1 - pos) 0)
      ++ { src := some (src.add a.1), off := b.1, len := b.2 } :: loadPieces src total (b.1 + b.2) t

/-- A load: the source in canonical layout. -/
def loadImage (h : Hdr) (src : Loc) : Image :=
  let g := canonical h
  { hdr := hdrBytes g 0, total := g.total, body := loadPieces src g.total 64 ((arrayParts h).zip (arrayParts g)) }

/-! ### Transpose-copy (R333) -/

def transHdr (d : Desc) (h : Hdr) : Hdr :=
  canonical { h with ety := d.d.ty, ext := hExt h 1 :: hExt h 0 :: h.ext.drop 2, flags := 0, p0 := 0, p1 := 0 }

/-- Source addresses, from the tensor's address `src`, of the bytes of output row `r`: that of the first element in each (R335). -/
def transAddrs (h : Hdr) (o w src r n : Nat) : List Nat :=
  (List.range n).map fun j => src + h.payOff + (r / hC h * hE1 h + 8 * j / o) * ceilDiv (hC h * w) 8 + r % hC h * w / 8

/-- The transposed tensor; `rd` reads the source, whose header stands at `hb`, and which was read from address `src`. -/
def transImage (d : Desc) (h : Hdr) (rd : Nat → Nat) (hb src : Nat) : Image :=
  let g := transHdr d h
  let a := (elTypeOf h.ety).getD .int8
  let o := (elTypeOf d.d.ty).getD .int8
  let rows := (List.range (hRows g)).map fun r => (List.range (hC g)).map fun c =>
    let bits := denseBits rd hb h (r / hC h * hE1 h + c) (r % hC h)
    if a = o then (bits, false) else copyConvert a o bits d.round d.srSeed ((r * hC g + c) % 2 ^ 32) d.outScale d.outShift
  { hdr := hdrBytes g 0, total := g.total, nonfin := rows.any fun r => r.any (·.2)
    body := (literal 64 (rows.flatMap fun r => packBits (elBits o) (r.map (·.1)))).map fun p =>
      let from_ := (List.range (hRows g)).flatMap fun r => transAddrs h (elBits o) (elBits a) src r (ceilDiv (hC g * elBits o) 8)
      { p with at_ := from_, to_ := from_.map (· + elBits a / 8) } }

/-! ### Compaction store (R344 to R347) -/

/-- An element of a DENSE source: position, bits, value. -/
abbrev DElem := Nat × Nat × FVal

def denseRowOf (h : Hdr) (rd : Nat → Nat) (hb r : Nat) : List DElem :=
  let t := (elTypeOf h.ety).getD .int8
  (List.range (hC h)).map fun c => let b := denseBits rd hb h r c; (c, b, elValue t b (scaleAt rd hb h r c))

/-- Magnitude of a value; a NaN stays a NaN. -/
def fAbs : FVal → FVal
  | v => if v.neg then v.negate else v

/-- A value is kept (R345). -/
def keptVal (thresh : FVal) (v : FVal) : Bool :=
  v.isNan || (thresh.neg && !thresh.isZero) || fLt (if thresh.isZero then .zero else thresh) (fAbs v)

/-- `a` ranks above `b` in magnitude; a NaN ranks above every number (assumption 15). -/
def magAbove (a b : FVal) : Bool := if b.isNan then false else if a.isNan then true else fLt (fAbs b) (fAbs a)

/-- The `n` elements of largest magnitude, the lower position winning a tie, in position order (R346). -/
def largestN (n : Nat) (l : List DElem) : List DElem :=
  l.filter fun x => decide ((l.filter fun y => magAbove y.2.2 x.2.2 || (!magAbove x.2.2 y.2.2 && decide (y.1 < x.1))).length < n)

/-- Stored elements of a row for an NM target without spill, and the groups that lose values. -/
def nmStored (n m c : Nat) (kept : List DElem) : List DElem × Nat :=
  let gs := (List.range (ceilDiv c m)).map fun g => kept.filter fun x => x.1 / m == g
  (gs.flatMap (largestN n), (gs.filter fun g => decide (g.length > n)).length)

/-- Pairs of a position and an aligned group of four rows of a matrix that hold more than two stored rows (R346). -/
def xposeBad (h : Hdr) (rows : List (List Nat)) : Nat :=
  let e := hE1 h
  ((List.range (hMats h)).flatMap fun m => (List.range (ceilDiv e 4)).map fun q =>
    let ps := ((List.range 4).filter fun i => decide (4 * q + i < e)).map fun i => rows.getD (m * e + 4 * q + i) []
    ((List.range (hC h)).filter fun p => decide ((ps.filter (·.contains p)).length > 2)).length).foldl (· + ·) 0

/-- Block columns that hold a kept value, by block row, and the values of every stored block as read. -/
def blockStored (h : Hdr) (b : Nat) (rows : List (List DElem)) (kept : List (List Nat)) : List (List Nat) × List Nat :=
  let e := hE1 h
  let brs := (List.range (hMats h)).flatMap fun m => (List.range (ceilDiv e b)).map fun q =>
    ((List.range b).filter fun i => decide (q * b + i < e)).map fun i => m * e + q * b + i
  let cols := brs.map fun rs => (List.range (ceilDiv (hC h) b)).filter fun j =>
    rs.any fun r => (kept.getD r []).any fun p => p / b == j
  (cols, (brs.zip cols).flatMap fun (x : List Nat × List Nat) => x.2.flatMap fun j =>
    (List.range b).flatMap fun i => (List.range b).map fun k =>
      match x.1[i]? with
      | some r => (((rows.getD r [])[j * b + k]?).map (·.2.1)).getD 0
      | none => 0)

/-- Header fields of the target before the sizes are known. -/
def compactBase (d : Desc) (h : Hdr) : Hdr :=
  let idx := if (argTgtFmt d = 4 ∨ argTgtFmt d = 5) ∧ hC h > 65536 then 4 else 0
  { h with fmt := argTgtFmt d, p0 := argTgtP0 d, p1 := argTgtP1 d, flags := argTgtFlags d &&& 0xFA ||| idx }

/-- The compressed tensor (R344 to R347). -/
def compactImage (d : Desc) (h : Hdr) (rd : Nat → Nat) (hb : Nat) : Image :=
  let th := fmtDecode fmtFp32 (argZeroThresh d)
  let dense := (List.range (hRows h)).map (denseRowOf h rd hb)
  let kept := dense.map fun r => r.filter fun x => keptVal th x.2.2
  let g0 := compactBase d h
  let nm := g0.fmt == 1 && !hSpill g0
  let sel := kept.map fun r => if nm then nmStored g0.p0 g0.p1 (hC h) r else (r, 0)
  let rows : Rows := sel.map fun r => r.1.map fun x => (x.1, x.2.1)
  let overfull := (sel.map (·.2)).foldl (· + ·) 0
  let wantX := g0.fmt == 1 && (argTgtFlags d).testBit 0
  let bad := if wantX then xposeBad h (rows.map rowPos) else 0
  let g1 := { g0 with flags := (if wantX && bad == 0 && hExt h 0 % 4 == 0 && hExt h 1 % 4 == 0 then 1 else 0) + g0.flags }
  let blk := if g0.fmt = 3 then blockStored h (hB g0) dense (kept.map fun r => r.map (·.1)) else ([], [])
  let n := (rows.map List.length).foldl (· + ·) 0
  let spills := if hSpill g0 ∧ g0.fmt = 1 then (rows.map fun r => (nmSpills g1 r).length).foldl (· + ·) 0 else 0
  let g := canonical { g1 with nnz := if g0.fmt = 1 then hRows h * hG g1 * g1.p0 + spills else if g0.fmt = 3 then blk.2.length else n }
  let scales := if hIsMx h then (List.range (scaleSize h)).map fun i => BitVec.ofNat 8 (rd (hb + h.scaleOff + i)) else []
  { hdr := hdrBytes g 0, total := g.total, body := literal 64 (tensorBody g rows blk.1 blk.2 scales)
    counts := { overfull := overfull, xpose := bad }
    kinds := (if overfull = 0 then [] else [3]) ++ (if bad = 0 then [] else [6]) }

end Sys2Proof.Machine
end

