-- ==== Sys2Proof/Machine/Decide.lean ====
section
/-! DEFINITION. Machine/Decide.lean: the register sets of the arbiters and the decision of the common arbiter (R391 to R395). -/

namespace Sys2Proof.Machine

open Sys2Proof

/-! ### Register sets: 0 MSH_ of spar 0, 1 MSH_ of spar 1, 2 HUB_D2D_ARB_, 3 HBM_ARB_, 4 OPT_ARB_ (R611) -/

/-- Reset values of a set (R404, R406, R466). -/
def resetPar (set : Nat) : ArbPar :=
  if set = 3 then { boost := [0x300, 0x0C0, 0x030, 0], limit := [8, 8, 8, 8], window := 0x400, quota := 0x40 }
  else if set = 4 then { boost := [0x400, 0x100, 0x040, 0], limit := [5, 5, 5, 5], window := 0x400, quota := 0x40 }
  else { boost := [0x200, 0x080, 0x020, 0], limit := [4, 4, 4, 4], window := 0x100, quota := 0x20 }

def getArbSet (s : State) (set : Nat) : ArbSet := Tab.get { shadow := resetPar set, live := resetPar set } s.arb.sets set
def setArbSet (s : State) (set : Nat) (x : ArbSet) : State := { s with arb := { s.arb with sets := Tab.set s.arb.sets set x } }

/-- Key of a point of a set. -/
def pointKey (set point : Nat) : Nat := set + 8 * point
def getPoint (s : State) (set point : Nat) : ArbPoint := Tab.get { par := resetPar set } s.arb.points (pointKey set point)
def setPoint (s : State) (set point : Nat) (x : ArbPoint) : State :=
  { s with arb := { s.arb with points := Tab.set s.arb.points (pointKey set point) x } }

/-- LIMIT of a class in beats: 0 acts as 1, values above 64 as 64 (R404). -/
def arbLimit (p : ArbPar) (cls : Nat) : Nat := max 1 (min 64 (p.limit.getD cls 4#7).toNat)
def arbBoost (p : ArbPar) (cls : Nat) : Nat := (p.boost.getD cls 0#12).toNat
def arbWindow (p : ArbPar) : Nat := if p.window = 0 then 65536 else p.window.toNat

/-! ### The decision (R393) -/

/-- Effective age of a request. -/
def effAge (p : ArbPar) (now : Nat) (r : ArbReq) : Nat := min (now - r.stamp) 4095 + arbBoost p r.cls

/-- `a` wins over `b`: higher effective age, then lower class, then lower input; the first in the list where all are equal. -/
def beats_ (p : ArbPar) (now : Nat) (a b : ArbReq) : Bool :=
  let x := effAge p now a
  let y := effAge p now b
  decide (x > y) || (x == y && (decide (a.cls < b.cls) || (a.cls == b.cls && decide (a.input < b.input))))

def winner (p : ArbPar) (now : Nat) : List ArbReq → Option ArbReq
  | [] => none
  | r :: t => match winner p now t with
    | none => some r
    | some w => if beats_ p now w r then some w else some r

/-- The point takes the values of the latest COMMIT at its next decision, which restarts the window (R395). -/
def takeCommit (s : State) (set now : Nat) (p : ArbPoint) : ArbPoint :=
  let a := getArbSet s set
  if a.commits = p.taken then p else { p with par := a.live, taken := a.commits, c0Grants := 0, window := now }

/-- The C0 grants return to zero where a window of WINDOW cycles has ended (R394). -/
def freshWindow (now : Nat) (p : ArbPoint) : ArbPoint :=
  let w := arbWindow p.par
  if now ≥ p.window + w then { p with c0Grants := 0, window := p.window + (now - p.window) / w * w } else p

/-- One decision of a point. -/
def decideArb (now : Nat) (p : ArbPoint) (reqs : List ArbReq) : ArbPoint :=
  let continues : Option ArbReq := match p.owner with
    | some o => (reqs.find? fun (r : ArbReq) => (r.cls, r.input, r.resp) == o).filter fun (r : ArbReq) => decide (p.beats + r.beats ≤ arbLimit p.par r.cls)
    | none => none
  match continues with
  | some r => { p with beats := p.beats + r.beats }
  | none =>
    let live := reqs.filter fun (r : ArbReq) => !(r.cls == 0 && decide (p.c0Grants ≥ p.par.quota.toNat))
    match winner p.par now (if live.isEmpty then reqs else live) with
    | none => { p with owner := none, beats := 0 }
    | some w => { p with owner := some (w.cls, w.input, w.resp), beats := w.beats
                         c0Grants := if w.cls = 0 ∧ !live.isEmpty then p.c0Grants + 1 else p.c0Grants }

/-- The decision of a point at `now`, after the latest COMMIT and the end of a window (R394, R395), and the point after it, which goes idle where
no request is left. -/
def decideAt (s : State) (set point now : Nat) (reqs : List ArbReq) : ArbPoint :=
  decideArb now (freshWindow now (takeCommit s set now (getPoint s set point))) reqs
def putDecision (s : State) (set point : Nat) (x : ArbPoint) (idle : Bool) : State :=
  setPoint s set point (if idle then { x with owner := none, beats := 0 } else x)

end Sys2Proof.Machine
end

