-- ==== Sys2Proof/Machine/Network.lean ====
section
/-! DEFINITION. Machine/Network.lean: the mesh (R366 to R370): nodes, packets, planes, virtual channels and routes, the arbitration points that
a route passes (R391), and the clock-crossing queues (R396 to R403, R651). A packet stands in the state as what it carries: a burst or an
execution of a send on its way, with its number among the packets of its source (assumption 132). -/

namespace Sys2Proof.Machine

open Sys2Proof

/-! ### Nodes and packets -/

/-- An end of a packet's way: a core, the control core of a cluster, an HBM channel (stack × 32 + channel), the mast die, the host, or a
firmware core of the mast die (0 security, 1 power-management, 2 scheduler core). -/
inductive Node where
  | core (c : Nat)
  | control (cl : Nat)
  | chan (n : Nat)
  | mast
  | host
  | firmware (n : Nat)
deriving DecidableEq, Repr

/-- What a packet, or the packets of a burst, carry (R366). -/
inductive Carries where
  | message
  | data (len : Nat)
  /-- A read request, an acknowledgement, a credit request or a credit answer. -/
  | single
deriving DecidableEq, Repr

/-- Beats of a mesh link, of 32 bytes, that `n` bytes take. -/
def beatsOf (n : Nat) : Nat := ceilDiv n 32

/-- Where the packets of a source start: a core, the mast die for the ring engine, or the control or scheduler core of R373. -/
def sourceNode (src : Nat) : Node :=
  if src < 256 then .core src else if src < 0x110 then .control (src - 0x100) else if src = 0x1FF then .firmware 2 else .mast

/-- The packets that carry it, by their beats: 1 to 4 each (R366). -/
def packetBeats : Carries → List Nat
  | .message => [2]
  | .single => [1]
  | .data n => (List.range (ceilDiv n 128)).map fun i => min 4 (beatsOf (n - 128 * i))

/-- Plane of a packet between two cores, and of one of a burst to a device address (R369). -/
def planeCores (a b : Nat) : Nat := (a + b) % 8
def planeDevice (a : Nat) : Nat := bf a 9 3

/-- Virtual channel of a plane: one for requests and one for responses in each class (R370). -/
def vcOf (cls : Nat) (resp : Bool) : Nat := 2 * cls + (if resp then 1 else 0)

/-- Where a place lies on the mesh. -/
def nodeOf (s : State) : Loc → Option Node
  | .spad c _ => some (.core c)
  | .slot c _ _ _ => some (.core c)
  | .device a => some (if a < hbmEnd then .chan (chanOf s a) else .host)
  | .remote _ _ => some .mast
  | .tree _ => some .mast
  | .engine => none

/-- Plane of a place's packets to or from core `c`. -/
def planeOf (c : Nat) : Loc → Nat
  | .spad d _ => planeCores c d
  | .slot d _ _ _ => planeCores c d
  | .device a => planeDevice a
  | .remote _ a => planeDevice a
  | _ => 0

/-! ### Routes (R367, R368) -/

/-- An output that a packet passes. -/
inductive Hop where
  /-- Of the router at a physical position (R611): 0 its core, 1 north, 2 south, 3 west, 4 east. -/
  | router (pos out : Nat)
  /-- Of a die's edge switch: 0 to 16 its north ports and 17 to 33 its south ports by physical column, 34 to 37 its HBM controllers, 38 the
  spar-to-spar and 39 the spar-to-mast link, 40 to 47 its control cores. -/
  | edge (spar out : Nat)
  /-- A direction of a die-to-die link: 0 and 1 spar to spar from spar 0 and 1, 2 and 3 spar 0 and 1 to the mast die, 4 and 5 back. -/
  | link (n : Nat)
  | chan (n : Nat)
deriving DecidableEq, Repr

/-- Steps from column `a` toward column `b` in row `row` of a die. -/
def rowHops (spar row a b : Nat) : List Hop :=
  if a ≤ b then (List.range (b - a)).map fun i => .router (physId spar row (a + i)) 4
  else (List.range (a - b)).map fun i => .router (physId spar row (a - i)) 3

/-- Steps from row `a` toward row `b` in a physical column. -/
def colHops (spar col a b : Nat) : List Hop :=
  if a ≤ b then (List.range (b - a)).map fun i => .router (physId spar (a + i) col) 2
  else (List.range (a - b)).map fun i => .router (physId spar (a - i) col) 1

/-- From a position off the mesh: along the column to the nearer edge, and out of its port (R368). -/
def leaveHops (spar row col : Nat) : List Hop :=
  if row < 4 then colHops spar col row 0 ++ [.router (physId spar 0 col) 1] else colHops spar col row 7 ++ [.router (physId spar 7 col) 2]

/-- From the edge switch to a position: in at the port of its column on the nearer edge, and along the column (R368). -/
def enterHops (spar row col : Nat) : List Hop :=
  (if row < 4 then .edge spar col :: colHops spar col 0 row else .edge spar (17 + col) :: colHops spar col 7 row)
    ++ [.router (physId spar row col) 0]

/-- Die of a node; none for what lies at or behind the mast die. -/
def nodeDie : Node → Option Nat
  | .core c => some (sparOf c)
  | .control cl => some (cl / 8)
  | .chan n => some (n / 128)
  | .mast | .host | .firmware _ => none

/-- From the edge switch of die `spar` to that of the destination, or to the mast die. -/
def crossHops (spar : Nat) : Option Nat → List Hop
  | none => [.edge spar 39, .link (2 + spar)]
  | some d => if d = spar then [] else [.edge spar 38, .link spar]

/-- From the edge switch of its die to a node. -/
def arriveHops (s : State) : Node → List Hop
  | .core c => (physicalColumn (colMap s (sparOf c) (rowOf c)) (colOf c)).elim [] fun p => enterHops (sparOf c) (rowOf c) p
  | .control cl => [.edge (cl / 8) (40 + cl % 8)]
  | .chan n => [.edge (n / 128) (34 + n / 32 % 4), .chan n]
  | .mast | .host | .firmware _ => []

/-- The route of a packet (R368). -/
def routeOf (s : State) (src dst : Node) : List Hop :=
  let onward (d : Nat) := crossHops d (nodeDie dst) ++ arriveHops s dst
  let col (c : Nat) := physicalColumn (colMap s (sparOf c) (rowOf c)) (colOf c)
  match src, dst with
  | .core a, .core b =>
    if sparOf a = sparOf b then
      match col a, col b with
      | some x, some y => rowHops (sparOf a) (rowOf a) x y ++ colHops (sparOf a) y (rowOf a) (rowOf b) ++ [.router (physId (sparOf a) (rowOf b) y) 0]
      | _, _ => []
    else (col a).elim [] fun x => leaveHops (sparOf a) (rowOf a) x ++ onward (sparOf a)
  | .core a, _ => (col a).elim [] fun x => leaveHops (sparOf a) (rowOf a) x ++ onward (sparOf a)
  | .control cl, _ => onward (cl / 8)
  | .chan n, _ => onward (n / 128)
  | _, _ => ((nodeDie dst).elim [] fun d => [.link (4 + d)]) ++ arriveHops s dst

/-! ### Arbitration points (R391): the numbering is the model's (assumption 133) -/

/-- Set and number of the point at an output, for a packet on `plane`. -/
def pointOf (plane : Nat) : Hop → Nat × Nat
  | .router pos out => (pos / 136, (pos % 136 * 5 + out) * 8 + plane)
  | .edge spar out => (spar, 5440 + out)
  | .link n => (2, n)
  | .chan n => (3, n)

/-- The point at which a core's DMA engine issues (R339). -/
def issuePoint (c : Nat) : Nat × Nat := (sparOf c, 5488 + c % 128)

/-! ### Clock-crossing queues (R396 to R403) -/

/-- A kind of queue (R403): log2 of its entries of 32 bytes, HIGH and LOW, and CUT (0 none): entries
written before the reader starts a frame, which a frame that comes whole always has (R399; assumption 134). -/
structure CdcKind where
  log2 : Nat
  high : Nat
  low : Nat
  cut : Nat := 0

/-- The kinds by KIND of R651. -/
def cdcKind (kind : Nat) : CdcKind := match kind with
  | 1 => { log2 := 4, high := 12, low := 8 }
  | 2 => { log2 := 6, high := 48, low := 32 }
  | 3 | 6 => { log2 := 7, high := 96, low := 64 }
  | 4 => { log2 := 9, high := 384, low := 256, cut := 8 }
  | 5 => { log2 := 8, high := 192, low := 128, cut := 8 }
  | 8 => { log2 := 3, high := 6, low := 4 }
  | _ => { log2 := 5, high := 24, low := 16 }

/-- Queue number (R651). -/
def queueNo (kind dir index : Nat) : Nat := kind * 4096 + dir * 2048 + index
def queueKind (q : Nat) : CdcKind := cdcKind (bf q 12 4)

def getCdc (s : State) (q : Nat) : Cdc := Tab.get {} s.arb.queues q
def setCdc (s : State) (q : Nat) (x : Cdc) : State := { s with arb := { s.arb with queues := Tab.set s.arb.queues q x } }

/-- The Gray code of a pointer. -/
def grayCode (p : Nat) : Nat := p ^^^ (p >>> 1)

/-- The pointer of a Gray code of up to 10 bits. -/
def fromGray (g : Nat) : Nat := (List.range 10).foldl (fun p i => p ^^^ (g >>> i)) 0

/-- The writer sees it full, during a reset too: the Gray pointers differ in their two top bits alone (R396, R401). -/
def cdcFull (k : CdcKind) (x : Cdc) : Bool := x.clearing || grayCode x.wr == x.rdSync ^^^ (3 * 2 ^ (k.log2 - 1))

/-- The reader sees it empty, during a reset too (R396, R400, R401). -/
def cdcEmpty (x : Cdc) : Bool := x.clearing || grayCode x.rd == x.wrSync

/-- Occupancy as the writer computes it (R397), and the entries that the reader sees. -/
def cdcOccupancy (k : CdcKind) (x : Cdc) : Nat := (x.wr + 2 ^ (k.log2 + 1) - fromGray x.rdSync) % 2 ^ (k.log2 + 1)
def cdcSeen (k : CdcKind) (x : Cdc) : Nat := (fromGray x.wrSync + 2 ^ (k.log2 + 1) - x.rd) % 2 ^ (k.log2 + 1)

/-- The writer sees room for `n` entries. -/
def cdcRoom (k : CdcKind) (n : Nat) (x : Cdc) : Bool := !cdcFull k x && decide (cdcOccupancy k x + n ≤ 2 ^ k.log2)

/-- Backpressure follows the occupancy (R397). -/
def cdcWatch (k : CdcKind) (x : Cdc) : Cdc :=
  let n := cdcOccupancy k x
  { x with press := if n ≥ k.high then true else if n ≤ k.low then false else x.press }

/-- Both copies of a pointer move together (R401). -/
def Cdc.setWr (x : Cdc) (p : Nat) : Cdc := { x with wr := p, wr2 := p }
def Cdc.setRd (x : Cdc) (p : Nat) : Cdc := { x with rd := p, rd2 := p }

/-- The reader takes up to `n` entries; on an empty queue it waits (R400). -/
def cdcRead (k : CdcKind) (n : Nat) (x : Cdc) : Cdc :=
  if cdcEmpty x then x else x.setRd ((x.rd + min n (cdcSeen k x)) % 2 ^ (k.log2 + 1))

/-- The writer adds `n` entries, as far as it sees room: none is overwritten (R396). -/
def cdcWrite (k : CdcKind) (n : Nat) (x : Cdc) : Cdc :=
  if cdcFull k x then x
  else cdcWatch k (x.setWr ((x.wr + min n (2 ^ k.log2 - cdcOccupancy k x)) % 2 ^ (k.log2 + 1)))

/-- Some cycles pass: a reset is over, the pointers have crossed, and the reader has taken up to `n` entries (R396, R397, R401). -/
def cdcPass (k : CdcKind) (n : Nat) (x : Cdc) : Cdc :=
  let y := cdcRead k n { x with wrSync := grayCode x.wr, clearing := false }
  cdcWatch k { y with rdSync := grayCode y.rd }

/-- HOLD_OUT_A and HOLD_OUT_B: the ring-side receive queues of ports 0 and 1, and of 2 and 3, in backpressure (R398), while the ring's stay
switch is not CLOSED (R450). -/
def holdOut (s : State) : State :=
  let on (r : Nat) : Bool := (Tab.get ({} : Stay) s.fab.stay r).st != .closed
    && ((getCdc s (queueNo 4 0 (2 * r))).press || (getCdc s (queueNo 4 0 (2 * r + 1))).press)
  { s with pins := { s.pins with holdOut := [(0, on 0), (1, on 1)].filter (·.2) } }

/-- `n` entries enter queue `q`. -/
def enterCdc (s : State) (q n : Nat) : State := holdOut (setCdc s q (cdcWrite (queueKind q) n (getCdc s q)))

/-- Queues `qs` take `n` entries each: none asserts backpressure or lacks room (R396, R397). -/
def pathOpen (s : State) (qs : List Nat) (n : Nat) : Bool :=
  qs.all fun q => !(getCdc s q).press && cdcRoom (queueKind q) n (getCdc s q)

/-- A packet's entries enter every queue of its way (assumption 134). -/
def crossQueues (s : State) (qs : List Nat) (n : Nat) : State := qs.foldl (fun s q => enterCdc s q n) s

/-- Queues that a packet of a route crosses, with the cores' own at its ends (R403, R651). -/
def routeQueues (s : State) (src dst : Node) : List Nat :=
  let linkQ : Hop → List Nat
    | .link 0 => [queueNo 3 0 0, queueNo 3 1 1]
    | .link 1 => [queueNo 3 0 1, queueNo 3 1 0]
    | .link 2 => [queueNo 3 0 2]
    | .link 3 => [queueNo 3 0 3]
    | .link 4 => [queueNo 3 1 2]
    | .link 5 => [queueNo 3 1 3]
    | _ => []
  let endQ (dir : Nat) : Node → List Nat
    | .core c => (physOf s c).elim [] fun p => [queueNo 0 dir p]
    | .control cl => [queueNo 1 dir cl]
    | .chan n => [queueNo 2 (1 - dir) n]
    | .host => [queueNo 6 (1 - dir) 0]
    | .firmware n => [queueNo 7 dir n]
    | .mast => []
  endQ 0 src ++ (routeOf s src dst).flatMap linkQ ++ endQ 1 dst

end Sys2Proof.Machine
end

