-- ==== Sys2Proof/Machine/Dma.lean ====
section
/-! DEFINITION. Machine/Dma.lean: the DMA engine (12): the plan of a descriptor in bursts, phase by phase (R328 to R333), queues
and trackers (R335 to R339), issue and end of bursts, and the sends' dispatch. -/

namespace Sys2Proof.Machine

open Sys2Proof

/-! ### Plans -/

/-- Where a slot's bytes begin. -/
def slotLoc (c : Nat) (r : Run) (sl : Slot) : Loc :=
  if sl.loc = 1 then .spad c (r.base + sl.addr) else if sl.loc = 2 then .device sl.addr else .remote sl.module sl.addr

def locAddr : Loc → Nat
  | .spad _ a => a
  | .device a => a
  | .remote _ a => a
  | .slot _ _ _ o => o
  | .tree _ => 0
  | .engine => 0

def isRemote : Loc → Bool
  | .remote _ _ => true
  | _ => false

/-- Largest burst: 512 bytes, 128 for C0 (R335, R518). -/
def burstSize (cls : Nat) : Nat := if cls = 0 then 128 else 512

/-- Cuts of `n` bytes from address `a` at the boundaries of blocks of `b` bytes: offset and length of each (R335). -/
def cuts (b : Nat) : Nat → Nat → Nat → Nat → List (Nat × Nat)
  | 0, _, _, _ => []
  | fuel + 1, off, a, n =>
    if n = 0 then [] else
      let m := min n (b - a % b)
      (off, m) :: cuts b fuel (off + m) (a + m) (n - m)

/-- Runs of at most `b` bytes whose source addresses lie in one block of `b` bytes: the length of each, latest first (R335). -/
def keyRuns (b : Nat) (l : List Nat) : List (Nat × Nat) :=
  l.foldl (fun acc a => match acc with
    | (q, n) :: t => if q = a / b ∧ n < b then (q, n + 1) :: t else (a / b, 1) :: (q, n) :: t
    | [] => [(a / b, 1)]) []

/-- Offset and length of runs of the given lengths. -/
def runCuts : Nat → List Nat → List (Nat × Nat)
  | _, [] => []
  | off, n :: t => (off, n) :: runCuts (off + n) t

/-- The bursts of a piece for a destination that begins at `dst`, cut by source address (R335); bytes that the engine makes are cut by
their offset in the destination. -/
def pieceBursts (cls exec : Nat) (dst : Loc) (p : Piece) : List Burst :=
  let d := dst.add p.off
  let b := burstSize cls
  let cs : List (Nat × Nat) := match p.src with
    | some l => cuts b (p.len + 1) 0 (locAddr l) p.len
    | none => if p.at_.isEmpty then cuts b (p.len + 1) 0 p.off p.len else runCuts 0 ((keyRuns b p.at_).reverse.map (·.2))
  cs.map fun c =>
    match p.made with
    | none => { idx := 0, exec := exec, src := p.src.map (·.add c.1), data := (p.data.drop c.1).take c.2, dst := d.add c.1, len := c.2 }
    | some l =>
      let as := (p.at_.drop c.1).take c.2
      let lo := as.foldl min (as.headD 0)
      { idx := 0, exec := exec, src := some (l.moved lo), dst := d.add c.1, len := c.2, makes := some (p.off + c.1)
        srcLen := ((p.to_.drop c.1).take c.2).foldl max 0 - lo }

/-- Bytes that a burst reads. -/
def readSize (b : Burst) : Nat := if b.makes.isSome then b.srcLen else b.len

/-- Give bursts their numbers, add them to the run as the plan of `phase`. -/
def withPlan (r : Run) (phase : Nat) (bs : List Burst) : Run :=
  { r with phase := phase, planned := r.planned + bs.length
           bursts := (bs.zipIdx).map fun (x : Burst × Nat) => { x.1 with idx := r.planned + x.2 } }

/-- Mark the last burst of a plan as END. -/
def markLast (bs : List Burst) : List Burst :=
  (bs.zipIdx).map fun (x : Burst × Nat) => if x.2 + 1 = bs.length then { x.1 with last := true } else x.1

/-- The data of the bursts of execution `n` that were read into the engine. -/
def engineData (r : Run) (n : Nat) : List Byte := (r.bursts.filter (·.exec == n)).flatMap (·.data)

/-- A burst that reads into the engine. -/
def gatherPiece (cls exec : Nat) (src : Loc) (n : Nat) : List Burst :=
  pieceBursts cls exec .engine { src := some src, off := 0, len := n }

/-- Bytes of packed elements for a place that is not this scratchpad: the last byte keeps its other bits (R162). -/
def packedFor (s : State) (dst : Loc) (w : Nat) (vs : List Nat) : List Byte :=
  let bits := vs.length * w
  let bs := packBits w vs
  if bits % 8 = 0 then bs
  else
    let a := dst.add (bs.length - 1)
    let old : Byte := match a with
      | .spad c x => spadByte (getCore s c).spad x
      | .device x => (devRead s x 1).headD 0
      | .remote _ x => Config.remoteTail x
      | _ => 0
    let keep := old.toNat / 2 ^ (bits % 8) * 2 ^ (bits % 8)
    bs.dropLast ++ [BitVec.ofNat 8 ((bs.getLastD 0).toNat % 2 ^ (bits % 8) + keep)]

/-! #### Raw copies (R329) -/

/-- Source and destination of one execution of a raw copy. -/
def execSrc (c : Nat) (r : Run) (p : Point) : Loc :=
  (slotLoc c r (descOf r.desc).a).add (startOf (descOf r.desc) (runNest r) .a p - (descOf r.desc).a.addr)
def execDst (c : Nat) (r : Run) (p : Point) : Loc :=
  (slotLoc c r (descOf r.desc).d).add (startOf (descOf r.desc) (runNest r) .d p - (descOf r.desc).d.addr)

/-- Bursts of one execution of a converting copy, from its source bytes, and whether some conversion is non-finite; a source outside this
scratchpad is converted as it comes. -/
def convertedBursts (s : State) (c : Nat) (r : Run) (x : Nat × Point) (src : List Byte) : List Burst × Bool :=
  let d := descOf r.desc
  let n := runNest r
  let from_ := locAddr (execSrc c r x.2)
  let cnt := convertCount d n
  let len := ceilDiv (cnt * slotBits d .d) 8
  let p : Piece := { src := none, off := 0, len := len
                     at_ := (List.range len).map fun i => from_ + 8 * i / slotBits d .d * slotBits d .a / 8
                     to_ := (List.range len).map fun i => from_ + ceilDiv (min cnt (ceilDiv (8 * i + 8) (slotBits d .d)) * slotBits d .a) 8 }
  if d.a.loc = 1 then
    let out := copyData d n x.2 src
    (pieceBursts d.cls x.1 (execDst c r x.2) { p with data := packedFor s (execDst c r x.2) out.2.1 out.1 }, out.2.2)
  else (pieceBursts d.cls x.1 (execDst c r x.2) { p with made := some (execSrc c r x.2) }, false)

/-- Scratchpad bytes that one execution of a copy or send reads (R167). -/
def execReads (r : Run) (p : Point) : Nat × Nat :=
  let d := descOf r.desc
  match (if d.a.hdr then (Tab.find r.hdrs 0).map fun v => hdrOf v.toNat else none) with
  | some h => (r.base + d.a.addr, h.total)
  | none => (r.base + startOf d (runNest r) .a p, bytesRead d (runNest r))

/-- What every execution of a run will report: NONFINITE where `nf` holds, and the unwritten rows that it reads. -/
def noteAll (k : Core) (r : Run) (nf : Nat → Bool) : Run :=
  let un (x : Nat × Point) : List Nat := if (descOf r.desc).a.loc = 1 then unwrittenIn k.spad [execReads r x.2] else []
  { r with notes := (execsOf r).map fun x =>
      { exec := x.1, bits := (if nf x.1 then [flNonfin] else []) ++ (if (un x).isEmpty then [] else [flUnwritten]), rows := un x } }

/-- A raw copy begins. -/
def startRaw (s : State) (c : Nat) (k : Core) (r : Run) : Core × Run :=
  let d := descOf r.desc
  let n := runNest r
  if d.a.ty = d.d.ty then
    let bs := (execsOf r).flatMap fun x =>
      pieceBursts d.cls x.1 (execDst c r x.2) { src := some (execSrc c r x.2), off := 0, len := bytesRead d n }
    (k, withPlan (noteAll k r fun _ => false) 4 bs)
  else
    let outs := (execsOf r).map fun x =>
      convertedBursts s c r x (if d.a.loc = 1 then spadBytes k.spad (r.base + startOf d n .a x.2) (bytesRead d n) else [])
    (k, withPlan (noteAll k r fun i => (outs.getD i ([], false)).2) 4 (outs.flatMap (·.1)))

/-! #### Tensor operations (R330 to R333, R344 to R347, R443) -/

/-- A run is a tensor operation of the DMA engine. -/
def isTensorOp (d : Desc) : Bool := d.a.hdr && d.op != opSend

/-- Number of executions of the run. -/
def countOf (r : Run) : Nat := (execsOf r).length

/-- The source and the elements of a tensor operation lie outside this scratchpad and each byte of the result is made of one element of
whole bytes: the result is made burst by burst. -/
def madeInBursts (d : Desc) : Bool := d.op == opTranspose && d.a.loc != 1 && decide (slotBits d .a ≥ 8) && decide (slotBits d .d ≥ 8)

/-- The operation computes its image from the whole source; the others move arrays. A byte of a transposed 4-bit tensor takes elements of two
source rows, so that the engine reads such a source whole (assumption 130). -/
def needsSource (d : Desc) : Bool := (d.op == opTranspose && !madeInBursts d) || d.op == opCompact

/-- Status of the header checks of a source outside scratchpad (R86 to R88, R330). -/
def remoteHdrCheck (d : Desc) (h : Hdr) : Option Nat :=
  if !hdrValid h d.a.addr then some stAbsent else if h.fmt = d.a.fmt ∧ h.ety = d.a.ty then none else some stFormat

/-- Size checks before phase 1 that need only the header (R330, R332, R333). -/
def sizeCheck (d : Desc) (h : Hdr) : Option Nat :=
  if h.total > d.a.len then some stShape
  else if d.op = opTranspose ∧ h.rank < 2 then some stFormat
  else
    let need := if d.op = opLoad then (canonical h).total else if d.op = opTranspose then (transHdr d h).total
      else if d.op = opCopy then h.total else 0
    if need > d.d.len then some stShape else none

/-- A reader of the source tensor's bytes: scratchpad, or what the engine has read, from address 0. -/
def sourceReader (k : Core) (r : Run) : Nat → Nat :=
  let d := descOf r.desc
  if d.a.loc = 1 then spadReader k.spad else fun a => (r.source.getD a 0).toNat

/-- The image that the execution writes; `hd` is the source header. -/
def imageOf (c : Nat) (k : Core) (r : Run) (hd : Hdr) : Image :=
  let d := descOf r.desc
  let hb := if d.a.loc = 1 then r.base + d.a.addr else 0
  if d.op = opTranspose then
    let im := transImage d hd (sourceReader k r) hb (locAddr (slotLoc c r d.a))
    if madeInBursts d then { im with body := im.body.map fun p => { p with made := some (slotLoc c r d.a) } } else im
  else if d.op = opCompact then compactImage d hd (sourceReader k r) hb
  else if d.op = opLoad then loadImage hd (slotLoc c r d.a)
  else copyImage hd (slotLoc c r d.a)

/-- The write phase: header fields without VALID and every array; for a remote destination the TD frame, the payload frames and
END (R331, R443). -/
def imageBursts (c : Nat) (r : Run) (im : Image) : List Burst :=
  let d := descOf r.desc
  let dst := slotLoc c r d.d
  let body := im.body.flatMap (pieceBursts d.cls r.tile dst)
  if isRemote dst then
    markLast ({ idx := 0, exec := r.tile, src := none, data := im.hdr, dst := dst, len := 0, td := true } :: body)
  else pieceBursts d.cls r.tile dst { src := none, data := im.hdr.take 63, off := 0, len := 63 } ++ body

/-- One byte at offset 63 of the destination. -/
def validBurst (c : Nat) (r : Run) (b : Byte) : List Burst :=
  pieceBursts (descOf r.desc).cls r.tile (slotLoc c r (descOf r.desc).d) { src := none, data := [b], off := 63, len := 1 }

/-- The source header of the run. -/
def srcHdr (r : Run) : Option Hdr := (Tab.find r.hdrs 0).map fun v => hdrOf v.toNat

/-- The run ends with a status; nothing more is written. -/
def endRun (k : Core) (r : Run) (st : Nat) : Core × Run := (k, { setStatus r st with finished := true, bursts := [], phase := 0 })

/-- Counts and flags of a tensor execution: GROUP_OVERFULL stands in flag word 0 (R346), the rest in the execution's own (R72, R76,
R195). -/
def withImage (k : Core) (r : Run) (im : Image) : Core × Run :=
  let cn := { r.counts with overfull := r.counts.overfull + im.counts.overfull, xpose := r.counts.xpose + im.counts.xpose }
  let own := im.kinds.filter (· != 3) ++ (if im.nonfin then [flNonfin] else [])
  (orFlagWord (orFlagWord k r 0 (flagBits (im.kinds.filter (· == 3)))) r r.tile (flagBits own),
   { r with counts := cn, nonfinTiles := r.nonfinTiles + (if im.nonfin then 1 else 0) })

/-- The checks have passed and the source is at hand: phase 1, or for a remote destination the transfer of R443. -/
def beginWrites (c : Nat) (k : Core) (r : Run) (h : Hdr) : Core × Run :=
  let d := descOf r.desc
  let im := imageOf c k r h
  if d.op = opCompact ∧ im.total > d.d.len then endRun k r stShape
  else
    let a := withImage k r im
    if d.d.loc = 3 then (a.1, withPlan a.2 4 (imageBursts c a.2 im))
    else (a.1, withPlan a.2 2 (validBurst c a.2 0))

/-- The header of the execution's source is known. -/
def afterHeader (c : Nat) (k : Core) (r : Run) (h : Hdr) : Core × Run :=
  let d := descOf r.desc
  match sizeCheck d h with
  | some st => endRun k r st
  | none =>
    if needsSource d && d.a.loc != 1 then (k, withPlan r 3 (gatherPiece d.cls r.tile (slotLoc c r d.a) h.total))
    else beginWrites c k r h

/-- An execution of a tensor operation begins (R330): its source header is read, or stands from stage 3. -/
def startTensor (c : Nat) (k : Core) (r : Run) : Core × Run :=
  let d := descOf r.desc
  if r.tile ≥ countOf r then (k, { r with finished := true, bursts := [], phase := 0 })
  else if d.a.loc = 1 then
    match srcHdr r with
    | some h => afterHeader c k r h
    | none => endRun k r stAbsent
  else (k, withPlan r 1 (gatherPiece d.cls r.tile (slotLoc c r d.a) 64))

/-- Bytes of a source tensor at `hb` that the operation reads (R167): all of them for a copy, else the header and the arrays without the
padding between them. -/
def sourceRanges (d : Desc) (h : Hdr) (hb : Nat) : List (Nat × Nat) :=
  if d.op = opCopy then [(hb, h.total)] else (hb, 64) :: (arrayParts h).map fun p => (hb + p.1, p.2)

/-- The execution has written its tensor: it is reported, and the next begins. -/
def endTensor (c : Nat) (k : Core) (r : Run) : Core × Run :=
  let d := descOf r.desc
  let un := match (if d.a.loc = 1 then srcHdr r else none) with
    | some h => unwrittenIn k.spad (sourceRanges d h (r.base + d.a.addr))
    | none => []
  let a := reportExec k r r.tile ((if un.isEmpty then [] else [flUnwritten]) ++ (if r.nonfin then [flNonfin] else [])) true
  startTensor c a.1 { withUnwritten a.2 un with tile := r.tile + 1, nonfin := false }

/-- Every burst of the phase is done: the next phase of the run (R331). -/
def nextPhase (c : Nat) (k : Core) (r : Run) : Core × Run :=
  let d := descOf r.desc
  if !isTensorOp d then (k, { r with finished := true, phase := 0 })
  else
    match r.phase with
    | 1 =>
      let h := bv 512 (engineData r r.tile)
      let r1 := { r with hdrs := Tab.set r.hdrs 0 h }
      (match remoteHdrCheck d (hdrOf h.toNat) with
        | some st => endRun k r1 st
        | none => afterHeader c k r1 (hdrOf h.toNat))
    | 2 => (match srcHdr r with
      | some h => (k, withPlan r 4 (imageBursts c r (imageOf c k r h)))
      | none => endRun k r stAbsent)
    | 3 => (match srcHdr r with
      | some h => beginWrites c k { r with source := engineData r r.tile } h
      | none => endRun k r stAbsent)
    | 4 => if d.d.loc = 3 then endTensor c k r else (k, withPlan r 5 (validBurst c r 0xA5))
    | _ => endTensor c k r

/-- Move on while the plan of the phase holds no burst that is not done; a refused execution's status stays. -/
def advanceRun : Nat → Nat → Core → Run → Core × Run
  | 0, _, k, r => (k, r)
  | fuel + 1, c, k, r =>
    if !r.finished && !r.stopped && (descOf r.desc).op != opSend && r.phase != 0 && r.bursts.all (·.done) then
      let a := nextPhase c k r
      advanceRun fuel c a.1 a.2
    else (k, r)

/-- Begin a descriptor of the engine that is no send. -/
def startDma (s : State) (c : Nat) (k : Core) (r : Run) : Core × Run :=
  let a := if isTensorOp (descOf r.desc) then startTensor c k r else startRaw s c k r
  advanceRun (5 * countOf r + 8) c a.1 a.2

/-! ### Dispatch of LOAD, COPY, TRANSPOSE_COPY, COMPACTION_STORE -/

def execLoad (c n : Nat) (ecc : EccHits) (s : State) : Out :=
  dispatch s c n ecc (fun d => d.op == opLoad) fun s k r => startDma s c k r
def execTransposeCopy (c n : Nat) (ecc : EccHits) (s : State) : Out :=
  dispatch s c n ecc (fun d => d.op == opTranspose) fun s k r => startDma s c k r
def execCompactionStore (c n : Nat) (ecc : EccHits) (s : State) : Out :=
  dispatch s c n ecc (fun d => d.op == opCompact) fun s k r => startDma s c k r
def execCopy (c n : Nat) (ecc : EccHits) (lines : Option Nat) (s : State) : Out :=
  dispatch s c n ecc (fun d => d.op == opCopy) fun s k r =>
    if isDma (descOf r.desc) then startDma s c k r else startCopy lines k r

/-! ### Dispatch of the sends (R372 to R374, R380, R452) -/

/-- The 64 bytes of a message (R373). -/
def mailOf (m : Message) : Mail :=
  leBytes 2 m.src ++ leBytes 1 m.srcCtx ++ leBytes 1 m.len ++ leBytes 1 m.cls ++ leBytes 1 m.part ++ [0, 0]
    ++ (m.payload.take m.len ++ List.replicate 56 0).take 56

/-- The executions of a send as they wait at their source. -/
def sendExecs (s : State) (c : Nat) (k : Core) (r : Run) (kind : Nat) : List SendEx :=
  let d := descOf r.desc
  let n := runNest r
  (execsOf r).map fun x =>
    let bs := spadBytes k.spad (r.base + startOf d n .a x.2) (lenOf d n .a)
    let m : Message := { src := c, srcCtx := r.ctx, len := bs.length, cls := d.cls, part := partField (partOfCore s c), payload := bs }
    { ctx := r.ctx, seq := r.seq, exec := x.1, dst := argDstCore d, kind := kind, target := if kind = 0 then 0 else sendTarget d
      slotSeq := if kind = 0 then 0 else (sendSeq d + x.1) % 2 ^ 32, msg := if kind = 0 then mailOf m else [], cls := d.cls, since := s.aon }

def startSend (s : State) (c kind : Nat) (k : Core) (r : Run) : Core × Run :=
  let ex := ((sendExecs s c k r kind).zipIdx).map fun (x : SendEx × Nat) => { x.1 with id := k.mesh.sendNo + x.2 }
  ({ k with mesh := { k.mesh with sends := k.mesh.sends ++ ex, sendNo := k.mesh.sendNo + ex.length } },
   { noteAll k r fun _ => false with finished := ex.isEmpty, phase := 4 })

/-- Pieces of a tree send: a tensor's TD frame, then payload of at most 512 bytes a frame (R452). -/
def startTreeSend (c : Nat) (k : Core) (r : Run) : Core × Run :=
  let d := descOf r.desc
  let n := runNest r
  let dst := Loc.tree (sendTreeNo d)
  let bs := (execsOf r).flatMap fun x =>
    if d.a.hdr then
      match srcHdr r with
      | some h =>
        let im := copyImage h (slotLoc c r d.a)
        markLast ({ idx := 0, exec := x.1, src := none, data := im.hdr, dst := dst, len := 0, td := true }
          :: im.body.flatMap (pieceBursts d.cls x.1 dst))
      | none => []
    else pieceBursts d.cls x.1 dst { src := some ((slotLoc c r d.a).add (startOf d n .a x.2 - d.a.addr)), off := 0, len := lenOf d n .a }
  (k, { withPlan (noteAll k r fun _ => false) 4 bs with finished := bs.isEmpty })

def execSendMailbox (c n : Nat) (ecc : EccHits) (s : State) : Out :=
  dispatch s c n ecc (fun d => d.op == opSend && argDstKind d == 0) fun s k r => startSend s c 0 k r
def execSendSlotRing (c n : Nat) (ecc : EccHits) (s : State) : Out :=
  dispatch s c n ecc (fun d => d.op == opSend && argDstKind d == 1) fun s k r => startSend s c 1 k r
def execSendTree (c n : Nat) (ecc : EccHits) (s : State) : Out :=
  dispatch s c n ecc (fun d => d.op == opSend && argDstKind d == 2) fun _ k r => startTreeSend c k r

/-! ### Queues and trackers (R336 to R339) -/

/-- Tracker entries that a run holds: its issued bursts that are not done, and its issued messages that no mailbox has accepted. -/
def outstandingBursts (k : Core) (r : Run) : Nat :=
  (r.bursts.filter fun b => b.issued && !b.done).length
    + (k.mesh.sends.filter fun e => e.ctx == r.ctx && e.seq == r.seq && e.kind == 0 && e.st != .ready && e.st != .done).length

def sumNat (l : List Nat) : Nat := l.foldl (· + ·) 0

/-- Executions of a send that still have bursts or messages to come: not yet granted, or not yet sent. -/
def sendsToCome (k : Core) (r : Run) : Bool :=
  k.mesh.sends.any fun e => e.ctx == r.ctx && e.seq == r.seq &&
    (e.st == .ready || (e.kind == 1 && (e.st == .sent || e.st == .refused || e.st == .answered 0)))

/-- The run has issued all of its bursts. -/
def allIssued (k : Core) (r : Run) : Bool :=
  r.finished || r.stopped ||
    (r.bursts.all (·.issued) && !sendsToCome k r
      && (!isTensorOp (descOf r.desc) || (decide (r.tile + 1 ≥ countOf r) && (r.phase == 5 || (r.phase == 4 && (descOf r.desc).d.loc == 3))))
      && (isTensorOp (descOf r.desc) || r.phase == 4))

/-- Runs of the engine before `r` on its queue, or on the small path. -/
def aheadOf (k : Core) (r : Run) : List Run :=
  k.runs.filter fun q => q.eng == .dma && decide (q.order < r.order) && q.small == r.small
    && (r.small || (descOf q.desc).queue == (descOf r.desc).queue)

/-- LIMIT of a queue (R365). -/
def queueLimit (k : Core) (q : Nat) : Nat :=
  let l := (Tab.get 0x20#8 k.dma.limit q).toNat
  if l = 0 then 256 else l

/-- Tracker entries in use: of the small path, and of queue `q` of the large path (R337, R338); the read bursts of stopped descriptors
hold theirs until their data comes. -/
def smallHeld (k : Core) : Nat :=
  sumNat ((k.runs.filter fun r => r.eng == .dma && r.small).map (outstandingBursts k)) + (k.dma.late.filter (·.small)).length
def queueHeld (k : Core) (q : Nat) : Nat :=
  sumNat ((k.runs.filter fun r => r.eng == .dma && !r.small && (descOf r.desc).queue == q).map (outstandingBursts k))
    + (k.dma.late.filter fun l => !l.small && l.queue == q).length
def largeHeld (k : Core) : Nat := sumNat ((List.range 16).map (queueHeld k))

/-- The burst reads the host window. -/
def readsHost (b : Burst) : Bool := match b.src with | some (.device a) => decide (a ≥ hostBase) | _ => false

/-- Tags of the PCIe controller: 1,024, of which the ring engine keeps 128 for its reads of doorbells and commands, 64 of them for C0 rings
alone (R470, R471); each of those reads is over within its command (assumption 140). -/
def allTags : Nat := 1024
def ringTags : Nat := 128

/-- DMA reads of the host window that hold a tag: issued, and their data not yet come, those of stopped descriptors included. -/
def tagsHeld (s : State) : Nat :=
  sumNat (s.cores.map fun x => sumNat (x.2.runs.map fun r => (r.bursts.filter fun b => b.issued && !b.done && readsHost b).length)
    + (x.2.dma.late.filter fun l => readsHost l.burst).length)

/-- A DMA read of the host window finds a tag (R471). -/
def tagFree (s : State) : Bool := decide (tagsHeld s < allTags - ringTags)

/-- The queue order, LIMIT and trackers let the run issue a burst. -/
def mayIssue (k : Core) (r : Run) : Bool :=
  (aheadOf k r).all (allIssued k) &&
    (if r.small then decide (smallHeld k < 64)
     else decide (queueHeld k (descOf r.desc).queue < queueLimit k (descOf r.desc).queue) && decide (largeHeld k < 256))

/-- The next burst of a run that has not issued. -/
def nextBurst (r : Run) : Option Burst := if r.finished || r.stopped then none else r.bursts.find? fun b => !b.issued

/-- The next message of a mailbox send: one undelivered message for each destination and class (R375). -/
def nextMessage (k : Core) (r : Run) : Option SendEx :=
  if r.finished || r.stopped then none
  else (k.mesh.sends.find? fun e => e.ctx == r.ctx && e.seq == r.seq && e.kind == 0 && e.st == .ready).bind fun e =>
    if k.mesh.sends.any fun o => o.kind == 0 && o.dst == e.dst && o.cls == e.cls && (o.st == .sent || o.st == .refused || o.st == .dropped) then none else some e

/-- The burst takes a C0 token: a read request, a write burst or a message that leaves the core (R517). -/
def takesToken (b : Burst) : Bool :=
  (match b.src with | some (.device _) | some (.remote _ _) => true | _ => false)
    || (match b.dst with | .device _ | .remote _ _ | .slot _ _ _ _ | .tree _ => true | _ => false)

/-- The burst accesses HBM. -/
def usesHbm (b : Burst) : Bool :=
  let hb (l : Loc) : Bool := match l with | .device a => decide (a < hbmEnd) | _ => false
  hb b.dst || (match b.src with | some l => hb l | none => false)

/-- A C0 burst to HBM of this core is outstanding (R518). -/
def c0HbmBusy (k : Core) : Bool :=
  (k.runs.any fun r => (descOf r.desc).cls == 0 && r.bursts.any fun b => b.issued && !b.done && usesHbm b)
    || k.dma.late.any fun l => l.cls == 0 && usesHbm l.burst

/-- The run could present a burst now, were its path free. -/
def presents (k : Core) (r : Run) : Bool :=
  r.eng == .dma && ((nextBurst r).isSome || (nextMessage k r).isSome) && mayIssue k r

/-- What the run presents takes a C0 token, and goes to HBM. -/
def needsToken (k : Core) (r : Run) : Bool :=
  (descOf r.desc).cls == 0 && (match nextBurst r with | some b => takesToken b | none => (nextMessage k r).isSome)
def goesHbm (r : Run) : Bool := match nextBurst r with | some b => usesHbm b | none => false

/-- The run has a burst ready to issue: one whose tag is free where it reads the host window (`tag`), and at C0 one to HBM only with no other
outstanding (R339, R471, R518). -/
def ready (k : Core) (tag : Bool) (r : Run) : Bool :=
  presents k r && !((nextBurst r).any readsHost && !tag) && !((descOf r.desc).cls == 0 && goesHbm r && c0HbmBusy k)

/-- No older run of the class has a burst ready (R339). -/
def oldestOfClass (k : Core) (tag : Bool) (r : Run) : Bool :=
  k.runs.all fun q => !((descOf q.desc).cls == (descOf r.desc).cls && decide (q.order < r.order) && ready k tag q)

/-- A C0 run is held back at its source: it wants a token (R517). -/
def heldBack (k : Core) (r : Run) : Bool := needsToken k r && !k.mesh.c0Token

/-- The requests at a core's issue point: for each class its oldest run with a burst ready, which counts as one beat and bears the NCLK
cycle of its descriptor's dispatch (R339). -/
def issueReqs (k : Core) (tag : Bool) : List ArbReq :=
  (k.runs.filter fun r => ready k tag r && oldestOfClass k tag r && !heldBack k r).map fun r =>
    { cls := (descOf r.desc).cls, input := 0, beats := 1, stamp := r.dispNclk }

/-- The issue point of core `c` with its requests: it decides in NCLK cycle `now`, and is idle when none is left (R339, R393, R394). -/
def issueDecides (s : State) (c now : Nat) (reqs : List ArbReq) : ArbPoint :=
  decideAt s (issuePoint c).1 (issuePoint c).2 now reqs

/-- The fabric switch's point for tags of host reads, beside those of the egress ports. -/
def tagPoint : Nat := 16

/-- The requests for a tag: of each core and class the burst that it would issue, which reads the host window (R471). -/
def tagReqs (s : State) : List ArbReq :=
  s.cores.flatMap fun x =>
    (x.2.runs.filter fun r => ready x.2 true r && oldestOfClass x.2 true r && !heldBack x.2 r && (nextBurst r).any readsHost).map fun r =>
      { cls := (descOf r.desc).cls, input := x.1, beats := 1, stamp := r.dispNclk }

/-- A tag that is free goes to this core's request of the class, where its burst reads the host window (R393, R471). -/
def tagTurn (s : State) (c cls : Nat) (b : Burst) : Bool :=
  !readsHost b || (decideAt s 4 tagPoint s.xclk (tagReqs s)).owner == some (cls, c, false)

/-- The point has given the tag. -/
def takeTag (s : State) (b : Burst) : State :=
  if readsHost b then putDecision s 4 tagPoint (decideAt s 4 tagPoint s.xclk (tagReqs s)) ((tagReqs s).length ≤ 1) else s

/-- The issue point after its decision `x`; without a request it goes idle. -/
def putIssue (s : State) (c : Nat) (x : ArbPoint) : State :=
  putDecision s (issuePoint c).1 (issuePoint c).2 x (issueReqs (getCore s c) (tagFree s)).isEmpty

/-- Execution `n` has written, where `w` holds. -/
def markWritten (r : Run) (n : Nat) (w : Bool) : Run :=
  if w then { r with wrote := true, written := if r.written.contains n then r.written else n :: r.written } else r

def putBurst (r : Run) (b : Burst) : Run := { r with bursts := r.bursts.map fun x => if x.idx = b.idx then b else x }

/-! ### BURST_ISSUE -/

/-- The WRITE frame of a burst to a remote module (R442, R443). -/
def writeFrame (s : State) (c : Nat) (r : Run) (b : Burst) (m a : Nat) : Frame :=
  let p := (partOfCore s c).getD 0
  let f := mkFrame s ftWrite (descOf r.desc).cls p (peerPart s p m) m a b.xtag (if b.td then [] else b.data)
  { f with flags := { f.flags with td := b.td, last := b.last }, td := if b.td then b.data else [] }

def readFrame (s : State) (c : Nat) (r : Run) (b : Burst) (m a : Nat) : Frame :=
  let p := (partOfCore s c).getD 0
  { mkFrame s ftRead (descOf r.desc).cls p (peerPart s p m) m a b.xtag [] with readLen := readSize b - 1 }

/-- Tag of a burst's request: the frames of one transfer share the tag of their first frame (R443). -/
def burstTag (s : State) (r : Run) (b : Burst) : Nat × State :=
  let first := r.bursts.find? fun x => x.exec == b.exec && x.td
  match first with
  | some x => if b.td then newXtag s else (x.xtag, s)
  | none => newXtag s

/-- The core has sent a packet (R370). -/
def nextPacket (k : Core) : Core := { k with mesh := { k.mesh with packetNo := k.mesh.packetNo + 1 } }

/-- The far end of a burst's packets. -/
def burstNode (s : State) (b : Burst) : Option Node :=
  match b.src, b.dst with
  | some (.device a), _ => if b.sent then nodeOf s b.dst else nodeOf s (.device a)
  | some (.remote m a), _ => nodeOf s (.remote m a)
  | _, dst => nodeOf s dst

/-- What a burst reads comes to its core over the mesh. -/
def readsFar (b : Burst) : Bool := match b.src with | some (.device _) | some (.remote _ _) => true | _ => false

/-- Entries of 32 bytes of the packets of a burst: of its request, or of its answer (R366, R403). -/
def burstEntries (b : Burst) (back : Bool) : Nat :=
  let rd := !b.sent && readsFar b
  sumNat (packetBeats (if rd == back then .data (if rd then readSize b else b.len) else .single))

/-- Queues that they cross. -/
def burstQueues (s : State) (c : Nat) (b : Burst) (back : Bool) : List Nat :=
  match burstNode s b with
  | none => []
  | some p => if back then routeQueues s p (.core c) else routeQueues s (.core c) p

/-- The way of a burst's packets is open, and the state with their entries in its queues (R396, R397). -/
def burstOpen (s : State) (c : Nat) (b : Burst) (back : Bool) : Bool := pathOpen s (burstQueues s c b back) (burstEntries b back)
def burstCross (s : State) (c : Nat) (b : Burst) (back : Bool) : State := crossQueues s (burstQueues s c b back) (burstEntries b back)

/-- Queues from a core to the core of a send: a message takes two entries, a credit request or its answer one (R366). -/
def sendQueues (s : State) (src : Nat) (e : SendEx) : List Nat := routeQueues s (.core src) (.core e.dst)
def answerQueues (s : State) (src : Nat) (e : SendEx) : List Nat := routeQueues s (.core e.dst) (.core src)

/-- Issue a burst of a run: what leaves the core now. -/
def issueBurst (s : State) (c : Nat) (r : Run) (b : Burst) : State :=
  let k := getCore s c
  let data := match b.src with | some (.spad _ a) => spadBytes k.spad a b.len | _ => b.data
  let put (s : State) (b : Burst) (r : Run) : State := setCore s c (nextPacket (putRun (getCore s c) (putBurst r b)))
  let b1 := { b with issued := true, since := s.aon, data := data, no := k.mesh.packetNo }
  let remoteSrc : Bool := match b.src with | some (.remote _ _) | some (.device _) => true | _ => false
  match b.src, b.dst with
  | some (.remote m a), _ =>
    let t := newXtag s
    let b2 := { b1 with xtag := t.1 }
    sendRequest (put t.2 b2 r) (readFrame t.2 c r b2 m a) (.burst c r.ctx r.seq b.idx)
  | _, .remote m a =>
    if remoteSrc then put s b1 r
    else
      let t := burstTag s r b
      let b2 := { b1 with xtag := t.1, sent := true }
      sendRequest (put t.2 b2 (markWritten r b.exec true)) (writeFrame t.2 c r b2 m a) (.burst c r.ctx r.seq b.idx)
  | _, .tree n =>
    let t := cutFrame s n b.td b.last (if b.td then data else []) (if b.td then [] else data)
    put t.2 { b1 with xtag := t.1, sent := true } (markWritten r b.exec true)
  | _, _ => put s b1 (markWritten r b.exec (!remoteSrc && b.dst != .engine))

/-- The message of an execution leaves its core. -/
def sendMessage (s : State) (c : Nat) (e : SendEx) : State :=
  let k := getCore s c
  setCore s c (nextPacket { k with mesh := { k.mesh with sends := k.mesh.sends.map fun x =>
      if x.id = e.id then { x with st := .sent, since := s.aon, no := k.mesh.packetNo } else x } })

/-- Take the core's C0 token; without one the request waits, and PACE is reported (R517, R526). -/
def withToken (s : State) (c cls bounds : Nat) (need : Bool) (f : State → State) : State :=
  let k := getCore s c
  if cls = 0 ∧ need then
    if k.mesh.c0Token then f (setCore s c { k with mesh := { k.mesh with c0Token := false } })
    else boundOccur s 7 ukCore (coreUnit s c) bounds (partOfCore s c)
  else f s

def execBurstIssue (c n seq : Nat) (s : State) : Out :=
  onCtx c n <|
    let k := getCore s c
    match findRun k n seq with
    | none => .next s
    | some r =>
      if !(ready k (tagFree s) r && oldestOfClass k (tagFree s) r) then .next s
      else
        let cls := (descOf r.desc).cls
        let x := issueDecides s c (coreNclk s c) (issueReqs k (tagFree s))
        if needsToken k r && !k.mesh.c0Token then .next (withToken s c cls (if goesHbm r then bndHbm else bndCore) true id)
        else if x.owner ≠ some (cls, 0, false) then .next s
        else match nextBurst r, nextMessage k r with
          | some b, _ =>
            if burstOpen s c b false && tagTurn s c cls b then
              .next (putIssue (withToken s c cls bndCore (takesToken b) fun s => issueBurst (burstCross (takeTag s b) c b false) c r b) c x)
            else .next s
          | none, some e =>
            if pathOpen s (sendQueues s c e) 2 then
              .next (putIssue (withToken s c cls bndCore true fun s => sendMessage (crossQueues s (sendQueues s c e) 2) c e) c x)
            else .next s
          | none, none => .next s

/-! ### BURST_DONE (R335, R340, R341) -/

/-- Address of byte 0 of the slot that holds sequence number `q` of a target, where it is granted to `q` (R379 to R383). -/
def grantedSlot (k : Core) (target q : Nat) : Option Nat :=
  if target < 16 then
    let g := getRing k target
    match slotState g.st (slotOfSeq g.slots q) with
    | .granted p _ => if g.opened ∧ p = q then some (g.base + slotOfSeq g.slots q * g.size) else none
    | _ => none
  else
    let ch := getFold k (target - 16)
    let i := (q - foldFirst ch) % foldSlots ch
    match slotState ch.slots i with
    | .granted p _ => if p = q then some (foldSlotAddr ch i) else none
    | _ => none

/-- A stream of packets of one source (R369, R370): its destination, its plane, and its virtual channel there. -/
structure Lane where
  dest : Node
  plane : Nat
  vc : Nat
deriving DecidableEq, Repr

/-- The stream in which a burst of core `c` in class `cls` is answered in the order of its requests: by an HBM channel, the core of a slot, or
the host for writes. -/
def burstLane (s : State) (c cls : Nat) (b : Burst) : Option Lane :=
  let lane (l : Loc) : Option Lane := (nodeOf s l).map fun n => { dest := n, plane := planeOf c l, vc := vcOf cls false }
  match b.src, b.dst with
  | some (.device a), _ => if b.sent || decide (a ≥ hbmEnd) then none else lane (.device a)
  | some (.remote _ _), _ => none
  | _, .device a => lane (.device a)
  | _, .slot d t q o => lane (.slot d t q o)
  | _, _ => none

/-- The stream of messages and credit requests from source `src` to core `c`; the ring engine's take the plane of its number in R373
(assumption 133). -/
def sendLane (src c cls : Nat) : Lane := { dest := .core c, plane := planeCores src c, vc := vcOf cls false }

/-- A packet that source `c` sent before its packet `no` in the same stream is on its way (R370): packets of one stream arrive in the order
sent. -/
def behind (s : State) (c no : Nat) (lane : Option Lane) : Bool :=
  let k := getCore s c
  let ahead (cls : Nat) (b : Burst) : Bool := b.issued && !b.done && !b.lost && decide (b.no < no) && burstLane s c cls b == lane
  let message (e : SendEx) : Bool := e.kind == 0 && e.st == .sent && decide (e.no < no) && some (sendLane c e.dst e.cls) == lane
  lane.isSome && (if c < 256 then
      (k.runs.any fun r => r.bursts.any (ahead (descOf r.desc).cls)) || (k.dma.late.any fun l => ahead l.cls l.burst) || k.mesh.sends.any message
    else s.hub.sends.any message)

/-- A channel that the burst reads or writes serves no request now (R415 to R418), or has failed and answers nothing (R414; assumption 139). -/
def burstPaused (s : State) (b : Burst) : Bool :=
  let off (l : Loc) (n : Nat) : Bool := match l with | .device a => decide (a < hbmEnd) && (rangeWaits s a n || rangeFailed s a n) | _ => false
  off b.dst b.len || (match b.src with | some l => off l (readSize b) | none => false)

/-- The data of a burst from core `c` may not enter the core of its slot, which is of another partition (R37, R45). -/
def crossesPart (s : State) (c : Nat) (dst : Loc) : Option Nat :=
  match dst with
  | .slot d _ _ _ => if partOfCore s c = partOfCore s d then none else some d
  | _ => none

def countXpart (s : State) (c : Nat) : State :=
  let k := getCore s c
  setCore s c { k with mesh := { k.mesh with xpartDrop := satAdd k.mesh.xpartDrop 1 } }

/-- Deliver a burst's data to its destination. -/
def deliverBurst (s : State) (dst : Loc) (data : List Byte) : State :=
  match dst with
  | .spad c a => let k := getCore s c; setCore s c { k with spad := spadWrite k.spad a data }
  | .device a => devWrite s a data
  | .slot c t q o =>
    let k := getCore s c
    (match grantedSlot k t q with
      | none => s
      | some a =>
        if t < 16 then setCore s c { k with spad := spadWrite k.spad (a + o) data }
        else setCore s c { k with acc := { k.acc with foldArea := memWriteN 0 k.acc.foldArea (a + o) data } })
  | _ => s

/-- The same for a burst of core `c`: data for a slot of another partition's core is discarded there, and counted (R37, R45), and after a
function-level reset no byte of host memory is written (R511). -/
def deliverFrom (s : State) (c : Nat) (dst : Loc) (data : List Byte) : State :=
  let toHost : Bool := match dst with | .device a => decide (a ≥ hostBase) | _ => false
  if toHost && (getCore s c).dma.hostMute then s
  else match crossesPart s c dst with
  | some d => countXpart s d
  | none => deliverBurst s dst data

/-- The run's next phase, when its bursts are done. -/
def settleRun (s : State) (c : Nat) (r : Run) : State :=
  let a := advanceRun (5 * countOf r + 8) c (putRun (getCore s c) r) r
  setCore s c (putRun a.1 a.2)

/-- The burst is done with data and status; its write, if it is one, is visible. -/
def finishBurst (s : State) (c : Nat) (r : Run) (b : Burst) (st : Nat) (wrote : Bool) : State :=
  let r1 := putBurst (if st = 0 then r else setStatus r st) { b with done := true }
  settleRun s c { markWritten r1 b.exec wrote with finished := r1.finished || ((descOf r.desc).op == opSend
    && argDstKind (descOf r.desc) == 2 && r1.bursts.all (·.done)) }

/-- A C0 load or copy of at most 128 bytes of HBM into scratchpad is measured when its last write is made: `r` before it (R519, R527). -/
def monitorHbm (s : State) (c : Nat) (r : Run) : State :=
  let d := descOf r.desc
  let size (b : Burst) : Nat := match b.src with | some (.device a) => if a < hbmEnd then readSize b else 0 | _ => 0
  let n := sumNat (r.bursts.map size)
  if d.cls = 0 ∧ (d.op = opLoad ∨ d.op = opCopy) ∧ d.d.loc = 1 ∧ !r.finished ∧ 0 < n ∧ n ≤ 128
      ∧ (findRun (getCore s c) r.ctx r.seq).any (·.finished) then
    monitorPath s 2 ((s.aon - r.dispAon) * 20) 1200 (partOfCore s c)
  else s

/-- The data of a burst that has come from afar leaves the core again as a write (R517). -/
def writesOn (b : Burst) : Bool := readsFar b && !b.sent && (match b.dst with | .device _ | .remote _ _ | .slot _ _ _ _ => true | _ => false)

/-- Status of a burst whose HBM words show `hits`. -/
def burstHits (b : Burst) (hits : EccHits) : EccHits :=
  let rd := match b.src with | some (.device a) => accessHits a (readSize b) false hits | _ => []
  let wr := match b.dst with | .device a => accessHits a b.len true hits | _ => []
  rd ++ wr

/-- What a burst writes, made of the bytes that it has read, and whether a conversion among them is non-finite (R329, R333). -/
def madeData (s : State) (c : Nat) (r : Run) (b : Burst) (raw : List Byte) : List Byte × Bool :=
  let d := descOf r.desc
  let lo := locAddr (b.src.getD .engine)
  match b.makes with
  | none => (raw, false)
  | some o =>
    if d.op = opTranspose then
      match srcHdr r with
      | some h =>
        let a0 := locAddr (slotLoc c r d.a)
        let im := transImage d h (fun a => if a < lo then 0 else (raw.getD (a - lo) 0).toNat) a0 a0
        (((im.body.flatMap (·.data)).drop (o - 64)).take b.len, im.nonfin)
      | none => ([], false)
    else match (execsOf r)[b.exec]? with
      | some x =>
        let out := copyData d (runNest r) x.2 (List.replicate (lo - locAddr (execSrc c r x.2)) 0 ++ raw)
        (((packedFor s (execDst c r x.2) out.2.1 out.1).drop o).take b.len, out.2.2)
      | none => ([], false)

/-- A burst of the run has met a non-finite conversion. -/
def noteNonfin (r : Run) (b : Burst) (nf : Bool) : Run :=
  if !nf then r
  else if isTensorOp (descOf r.desc) then { r with nonfin := true }
  else { r with notes := r.notes.map fun x => if x.exec = b.exec ∧ !x.bits.contains flNonfin then { x with bits := flNonfin :: x.bits } else x }

/-- The bytes that a burst whose data has come will write, and its run with what they show. -/
def arrivedData (s : State) (c : Nat) (r : Run) (b : Burst) : List Byte × Run :=
  let m := madeData s c r b (match b.src with | some (.device x) => devRead s x (readSize b) | _ => b.data)
  (m.1, noteNonfin r b m.2)

/-- An earlier frame of the burst's transfer to another module is still to be sent: payload frames leave in offset order (R443). -/
def frameAhead (r : Run) (b : Burst) : Bool :=
  isTensorOp (descOf r.desc) && r.bursts.any fun x => x.exec == b.exec && isRemote x.dst && decide (x.idx < b.idx) && !x.sent && !x.done

def execBurstDone (c n seq idx : Nat) (ecc : EccHits) (s : State) : Out :=
  onCtx c n <|
    match findRun (getCore s c) n seq with
    | none => .next s
    | some r =>
      match r.bursts.find? fun b => b.idx == idx with
      | none => .next s
      | some b =>
        let cls := (descOf r.desc).cls
        if !b.issued || b.done || b.lost || burstPaused s b || behind s c b.no (burstLane s c cls b) || !burstOpen s c b true then .next s
        else
          let s0 := burstCross s c b true
          let fromRemote : Bool := match b.src with | some (.remote _ _) => true | _ => false
          match b.dst with
          | .tree t => if treeAcked (getTree s t) b.xtag then .next (finishBurst s0 c r b 0 false) else .next s
          | .remote m a =>
            if b.sent then
              (match b.answer with
                | some st => .next (finishBurst s0 c r b st (st == 0))
                | none => .next s)
            else if fromRemote && b.answer != some 0 then
              (match b.answer with
                | some st => .next (finishBurst s0 c r b st false)
                | none => .next s)
            else
              -- the data has come: the WRITE leaves
              if frameAhead r b then .next s else .next <| withToken s0 c cls bndFabric true fun s =>
              let hits := burstHits b ecc
              let s1 := hbmEcc s hits
              let got := arrivedData s1 c r b
              let r1 := if hitsBad hits then setStatus got.2 stUncorr else got.2
              let t := burstTag s1 r b
              let b1 := { b with data := got.1, answer := none, sent := true, xtag := t.1 }
              let s2 := setCore t.2 c (putRun (getCore t.2 c) (putBurst (markWritten r1 b.exec true) b1))
              sendRequest s2 (writeFrame s2 c r b1 m a) (.burst c n seq idx)
          | dst =>
            match crossesPart s c dst with
            | some d => .next (setCore (countXpart s0 d) c (putRun (getCore (countXpart s0 d) c) (putBurst r { b with lost := true })))
            | none =>
            if fromRemote && b.answer != some 0 then
              (match b.answer with
                | some st => .next (finishBurst s0 c r b st false)
                | none => .next s)
            else .next <| withToken s0 c cls (if usesHbm b then bndHbm else bndCore) (writesOn b) fun s =>
              let hits := burstHits b ecc
              let s1 := hbmEcc s hits
              let got := arrivedData s1 c r b
              let s2 := finishBurst (deliverFrom s1 c dst got.1) c got.2 { b with data := got.1 } (if hitsBad hits then stUncorr else 0) (dst != .engine)
              monitorHbm s2 c r

/-- The read burst of a stopped descriptor that context, SEQ and number name. -/
def isLate (n seq idx : Nat) (l : Late) : Bool := l.ctx == n && l.seq == seq && l.burst.idx == idx
def dropLate (d : Dma) (n seq idx : Nat) : Dma := { d with late := d.late.filter fun l => !isLate n seq idx l }

/-- A read of another module whose answer has not come. -/
def unanswered (b : Burst) : Bool := (match b.src with | some (.remote _ _) => true | _ => false) && b.answer.isNone

/-- Read data of a cancelled burst arrives and is discarded (R351, R353), with what its HBM words show counted (R411); an answer without data
ends the read alone. -/
def execBurstDataDiscard (c n seq idx : Nat) (ecc : EccHits) (s : State) : Out :=
  onCtx c n <|
    let k := getCore s c
    match k.dma.late.find? (isLate n seq idx) with
    | some l =>
      if l.burst.lost || unanswered l.burst || burstPaused s l.burst || behind s c l.burst.no (burstLane s c l.cls l.burst)
          || !burstOpen s c l.burst true then .next s
      else
        let d := dropLate k.dma n seq idx
        let s1 := hbmEcc (burstCross s c l.burst true) (burstHits { l.burst with dst := .engine } ecc)
        .next (setCore s1 c { k with dma := { d with discarded := if (l.burst.answer.getD 0) = 0 then satAdd d.discarded 1 else d.discarded } })
    | none => .next s

/-- RESP_TIMEOUT of MSH_CFG in AON cycles; 0 acts as 1 microsecond. -/
def respTime (k : Core) : Nat := max 1 k.mesh.respTimeout.toNat * usAon

/-- Device address of a burst, or zero (R612). -/
def burstDev (b : Burst) : Nat :=
  match b.src, b.dst with
  | some (.device a), _ => a
  | _, .device a => a
  | _, _ => 0

/-- A burst has had no answer within RESP_TIMEOUT (R402). -/
def respLate (s : State) (c : Nat) (b : Burst) : Bool :=
  let tree : Bool := match b.dst with | .tree _ => true | _ => false
  b.issued && !b.done && b.answer == none && !tree && decide (s.aon > b.since + respTime (getCore s c))

/-- No answer is awaited for a burst any more. -/
def dropTxn (s : State) (c n seq idx : Nat) : State :=
  { s with fab := { s.fab with txns := s.fab.txns.filter fun t => !(t.client == .burst c n seq idx) } }

end Sys2Proof.Machine
end

