-- ==== Sys2Proof/Machine/Relay.lean ====
section
/-! DEFINITION. Machine/Relay.lean: cancel and fence (R348 to R355) and the halyard (R356 to R364). -/

namespace Sys2Proof.Machine

open Sys2Proof

/-! ### The halyard -/

/-- The next member of the chain: one column toward the tail (R356). -/
def nextMember (c : Nat) (h : Hal) : Option Nat :=
  if halRole h = 3 then none
  else if halField h 5 1 = 0 then (if colOf c < 15 then some (c + 1) else none)
  else if colOf c > 0 then some (c - 1) else none

def prevMember (c : Nat) (h : Hal) : Option Nat :=
  if halRole h = 1 then none
  else if halField h 5 1 = 0 then (if colOf c > 0 then some (c - 1) else none)
  else if colOf c < 15 then some (c + 1) else none

def halOf (s : State) (c : Nat) : Hal := (getCore s c).dma.hal
def putHal (k : Core) (h : Hal) : Core := { k with dma := { k.dma with hal := h } }
def setHal (s : State) (c : Nat) (h : Hal) : State := setCore s c (putHal (getCore s c) h)

/-- Members of a chain along columns in their order from one member: up to the one with ROLE `last`, and not beyond one with ROLE `stop`,
which is of another chain. A position whose member is off, for instance after a reset of its core, does not end the chain (R363). -/
def walkChain (s : State) (last stop : Nat) : List Nat → List Nat
  | [] => []
  | d :: t =>
    let h := halOf s d
    if !halEnabled h then walkChain s last stop t
    else if halRole h = stop then [] else if halRole h = last then [d] else d :: walkChain s last stop t

/-- Every other member of the chain of core `c` (R356). -/
def chainOf (s : State) (c : Nat) : List Nat :=
  let h := halOf s c
  let row := c / 16 * 16
  let right := (List.range (15 - colOf c)).map fun i => row + colOf c + 1 + i
  let left := (List.range (colOf c)).map fun i => row + (colOf c - 1 - i)
  let tailward := if halField h 5 1 = 0 then right else left
  let headward := if halField h 5 1 = 0 then left else right
  (if halRole h = 3 then [] else walkChain s 3 1 tailward) ++ (if halRole h = 1 then [] else walkChain s 1 3 headward)

/-- Descriptors at this core that wait on the chain complete with RELAY_TIMEOUT (R362). -/
def failWaiters (s : State) (c : Nat) : State :=
  (List.range 8).foldl (fun s n =>
    let k := getCore s c
    match (getCtx k n).queue.head? with
    | some q => if inStage2 s c n q && waitsOnChain k n (qCtx k n q) (descOf q.desc) then refuseHead s c n q stRelayTo else s
    | none => s) s

/-- The member's relay ends in `st`; its waits are counted up to now (R361). -/
def stopMember (s : State) (c : Nat) (st : HalSt) : State :=
  failWaiters (setHal s c { countStall (coreNclk s c) (halOf s c) with st := st, since := none, fwdFrom := none }) c

/-- The tile that the member waits to forward, or to take in at the head. -/
def waitTile (h : Hal) : Nat := if (relaySlot h ((h.nextFwd - 1) % 2)).tile = some h.nextFwd then h.nextFwd else h.tile.toNat + 1

/-- The chain breaks at member `c`, which reports RELAY_TIMEOUT (R362). -/
def breakMember (s : State) (c : Nat) : State :=
  raiseCore (stopMember s c .broken) c 0x0609 0 (waitTile (halOf s c) * 2 ^ 32)

/-- Writable bits of DMA_HAL_CFG. -/
def halMask : W64 := 0xFFFF030FFFFFFF39

/-- The member's slots lie within the window of CTX and SLOT_KIB is at most 64 (R357). -/
def halConfigOk (k : Core) (h : Hal) : Bool :=
  decide (halField h 11 7 ≤ 64) && inWindow (getCtx k (halCtx h)) (halField h 18 18 * 64) (2 * halSlotBytes h)

/-- A write of DMA_HAL_CFG (R356, R357, R364): fields change only while ENABLE is 0; clearing ENABLE turns the member off. -/
def execHalyardEnable (c : Nat) (cfg : W64) (s : State) : Out :=
  onCore c <|
    let k := getCore s c
    let h := k.dma.hal
    let v := cfg &&& halMask
    if halEnabled h then
      if v.getLsbD 0 then .next s
      else .next (setHal s c { cfg := h.cfg &&& ~~~1#64, stall := halStall (coreNclk s c) h, forwarded := h.forwarded })
    else
      let h1 : Hal := { cfg := v, stall := halStall (coreNclk s c) h, forwarded := h.forwarded }
      if !v.getLsbD 0 then .next (setHal s c h1)
      else if halConfigOk k h1 then .next (setHal s c { h1 with st := .running })
      else .next (setHal s c { h1 with cfg := v &&& ~~~1#64, st := .configError })

/-- The next tile stands complete in its slot and has not been forwarded. -/
def tileReady (h : Hal) : Bool :=
  let x := relaySlot h ((h.nextFwd - 1) % 2)
  x.tile == some h.nextFwd && !x.forwarded

/-- The forward of the next tile may start: it is complete, and the next member's slot for it is free (R359, R360). -/
def forwardTo (s : State) (c : Nat) : Option Nat :=
  let h := halOf s c
  match nextMember c h with
  | none => none
  | some d =>
    let g := halOf s d
    if h.st = .running ∧ !h.inFlight ∧ tileReady h ∧ g.st = .running ∧ relayFree g ((h.nextFwd - 1) % 2) then some d else none

/-- CLASS of a member's forwards; 0 acts as 1 (R513). -/
def halClass (h : Hal) : Nat := max 1 (bf h.cfg.toNat 40 2)

def execRelayForwardStart (c : Nat) (s : State) : Out :=
  onCore c <|
    match forwardTo s c with
    | none => .next s
    | some _ =>
      let h := { countStall (coreNclk s c) (halOf s c) with inFlight := true, since := none, fwdFrom := none, fwdNo := (getCore s c).mesh.packetNo }
      let s1 := setHal s c h
      .next (setCore s1 c (nextPacket (getCore s1 c)))

/-- Slot `i` of a member takes tile `t`. -/
def takeTile (h : Hal) (t : Nat) : Hal :=
  { h with tile := BitVec.ofNat 32 t, slots := Tab.set h.slots ((t - 1) % 2) { tile := some t } }

/-- The forward of member `c` waits, from when its tile is complete; RELAY_STALL counts the wait as long as the next member's slot is not
free (R361, R362). -/
def watchForward (s : State) (c : Nat) : State :=
  let h := halOf s c
  if h.st = .running ∧ halRole h ≠ 3 ∧ !h.inFlight ∧ tileReady h then
    let h1 := countStall (coreNclk s c) h
    setHal s c { h1 with since := some (h1.since.getD s.aon), fwdFrom := if (forwardTo s c).isSome then none else some (coreNclk s c) }
  else s

/-- Member `c` and the one before it look again at their forwards: a tile came, or a slot is free. -/
def watchChain (s : State) (c : Nat) : State :=
  let s1 := watchForward s c
  match prevMember c (halOf s1 c) with
  | some b => watchForward s1 b
  | none => s1

/-- The forward of member `c` has arrived at the next member, with what the check of its words at the source finds (R170). Its bytes enter
only the slot of an enabled member in the same partition (R37, R45, R165); otherwise the tile stays to be forwarded. -/
def execRelayForwardComplete (c : Nat) (ecc : EccHits) (s : State) : Out :=
  onCore c <|
    let h := halOf s c
    match nextMember c h with
    | none => .next s
    | some d =>
      if !h.inFlight || behind s c h.fwdNo (some (sendLane c d (halClass h))) then .next s
      else
        let t := h.nextFwd
        let i := (t - 1) % 2
        let k := getCore s c
        let data := spadBytes k.spad (halSlotAddr k i) (halSlotBytes h)
        let s0 := spadEcc s c (hitsIn [(halSlotAddr k i, halSlotBytes h)] ecc)
        let back := setHal s0 c { h with inFlight := false }
        if partOfCore s c ≠ partOfCore s d then .next (watchForward (countXpart back d) c)
        else if !halEnabled (halOf s d) then .next (watchForward back c)
        else
          let h1 := { h with inFlight := false, forwarded := satAdd h.forwarded 1, nextFwd := t + 1
                             slots := Tab.set h.slots i { relaySlot h i with forwarded := true } }
          let s1 := setHal s0 c h1
          let m := getCore s1 d
          let m1 := { m with spad := spadWrite m.spad (halSlotAddr m i) data }
          .next (watchChain (watchForward (setCore s1 d (putHal m1 (takeTile m1.dma.hal t))) d) c)

/-- DESCRIPTOR_COMPLETE (R144): the run's flag words, its record and its token; a head fill's tile begins to wait for its forward (R358,
R361). -/
def execDescriptorComplete (c n seq : Nat) (ecc : EccHits) (s : State) : Out :=
  onCtx c n <|
    match findRun (getCore s c) n seq with
    | none => .next s
    | some r0 =>
      if mayComplete (getCore s c) r0 then
        let s1 := spadEcc s c (flagHits r0 ecc)
        let x := carryRest (getCore s1 c) r0
        let k := x.1
        let r := if hitsUe k.spad (flagHits r0 ecc) then setStatus x.2 stUncorr else x.2
        let a := if r.stopped then reportStopped k (asStopped r) else if r.notes.isEmpty then reportCarried k r else reportNotes k r
        .next (watchForward (setCore s1 c (dropSends (completeRun s1 c a.1 a.2) r)) c)
      else .next s

/-- TIMEOUT of DMA_HAL_CFG in AON cycles; 0 acts as 1 microsecond. -/
def relayTime (h : Hal) : Nat := max 1 (halField h 48 16) * usAon

/-- AON cycle since which a head fill of the member waits for its slot (R361). -/
def fillSince (s : State) (c : Nat) : Option Nat :=
  let k := getCore s c
  firstSome (fun n => match (getCtx k n).queue.head? with
    | some q => if q.passed then none else q.fillSince
    | none => none) (List.range 8)

def lateSince (aon limit : Nat) : Option Nat → Bool
  | some t => decide (aon > t + limit)
  | none => false

/-- The chain breaks at a member that has waited TIMEOUT (R362). -/
def relayLate (s : State) (c : Nat) : Bool :=
  let h := halOf s c
  h.st == .running && (lateSince s.aon (relayTime h) h.since || lateSince s.aon (relayTime h) (fillSince s c))

/-- A break report reaches the member: it is BROKEN, and reports whether it broke; where a cancel stopped the chain it reports
nothing (R362, R364). -/
def breakNotice (s : State) (c : Nat) : State × Bool :=
  let others := (chainOf s c).map fun d => (halOf s d).st
  if (halOf s c).st ≠ .running then (s, false)
  else if others.contains .stopped then (stopMember s c .broken, false)
  else if others.contains .broken then (breakMember s c, true)
  else (s, false)

/-! ### Cancel (R348 to R354) -/

/-- A carried descriptor that leaves its group open has adds in the conflict queues, or the flag word of its last tile is still to be written
(R148, R268, R272). -/
def carriedWork (k : Core) (r : Run) : Bool :=
  let d := descOf r.desc
  r.openTile && !d.close && (addsPending k d.agroup && isArr d ||
    match (tilesOf d (r.nests.map nestOf) r.caps)[r.tile]? with | some ti => decide (4 * ti.num + 4 ≤ d.flagsLen) | none => false)

/-- Every write of the run has been issued (R350). -/
def writesIssued (k : Core) (r : Run) : Bool :=
  (r.finished && !carriedWork k r) || (r.eng == .dma && allIssued k r && r.bursts.all (fun b =>
    b.done || b.sent || (match b.src with | some (.device _) | some (.remote _ _) => false | _ => b.issued))
    && !(k.mesh.sends.any fun e => e.ctx == r.ctx && e.seq == r.seq && e.kind == 0 && (e.st == .refused || e.st == .dropped)))

/-- A burst whose read data is still to arrive. -/
def awaitsData (b : Burst) : Bool :=
  b.issued && !b.done && !b.sent && (match b.src with | some (.device _) | some (.remote _ _) => true | _ => false)

/-- The group of a stopped compute descriptor is abandoned (R259, R351). -/
def freeGroupOf (k : Core) (d : Desc) : Core :=
  match descGroup d with
  | some (arr, g) => if (getGroup k arr g).st = .free then k else abandonGroup k arr g
  | none => k

/-- Send executions of a stopped run: messages on their way stay; the rest is over (R351, R374). -/
def stopSends (k : Core) (r : Run) : Core :=
  { k with mesh := { k.mesh with sends := k.mesh.sends.filter fun e =>
      !(e.ctx == r.ctx && e.seq == r.seq) || (e.kind == 0 && e.st == .sent) } }

/-- Stop a dispatched descriptor, unless it has issued every write (R350, R351). -/
def stopRun (k : Core) (r : Run) : Core :=
  if r.stopped || writesIssued k r then k
  else
    let d := descOf r.desc
    let lates := (r.bursts.filter awaitsData).map fun b =>
      ({ ctx := r.ctx, seq := r.seq, queue := d.queue, small := r.small, cls := d.cls, burst := b } : Late)
    let r1 := { r with stopped := true, rest := [], bursts := r.bursts.filter fun b => b.issued && !b.done && !awaitsData b }
    let k2 := { putRun k r1 with dma := { k.dma with late := k.dma.late ++ lates } }
    stopSends (freeGroupOf k2 d) r

/-- Held credit requests of stopped executions are withdrawn from every core. -/
def withdrawHeld (s : State) (c : Nat) : State :=
  let live (h : Held) : Bool := h.src != c || (getCore s c).mesh.sends.any fun e => e.id == h.idx
  { s with cores := s.cores.map fun p => (p.1, { p.2 with mesh := { p.2.mesh with held := p.2.mesh.held.filter live } }) }

def maskBits (m : Nat) : List Nat := (List.range 8).filter m.testBit

/-- Acceptance of a cancel (R348 to R351, R364). -/
def acceptCancel (s : State) (c mask tag serial : Nat) : State :=
  let ns := maskBits mask
  let k := getCore s c
  let k1 := { k with dma := { k.dma with cancel := some { mask := BitVec.ofNat 8 mask, tag := BitVec.ofNat 16 tag, accepted := s.aon, serial := serial } } }
  let k2 := ns.foldl haltRequest k1
  let k3 := ns.foldl (fun k n => discardQueue s c k n stCancelled) k2
  let k4 := (k3.runs.filter fun r => ns.contains r.ctx).foldl stopRun k3
  let s1 := withdrawHeld (setCore (trace s (0x10 + clusterOf c) 30) c k4) c
  let h := halOf s1 c
  if h.st = .running ∧ ns.contains (halCtx h) then stopMember s1 c .stopped else s1

def execCancelAccept (c mask tag : Nat) (s : State) : Out :=
  onCore c <|
    let k := getCore s c
    match k.dma.cancel with
    | some _ => .next (setCore s c { k with dma := { k.dma with cancelBusy := satAdd k.dma.cancelBusy 1 } })
    | none => if mask % 256 = 0 then .next s else .next (acceptCancel s c (mask % 256) tag 0)

/-- Nothing of the cancelled work is in flight (R354, R364). -/
def cancelQuiet (k : Core) (cn : Cancel) : Bool :=
  (k.runs.all fun r => !(r.stopped && cn.mask.getLsbD r.ctx)) && (k.dma.late.all fun x => !cn.mask.getLsbD x.ctx)
    && !(k.dma.hal.inFlight && cn.mask.getLsbD (halCtx k.dma.hal))

/-- The core reaches the fence of its cancel: it writes the TAG to DMA_FENCE and sets DONE (R354). -/
def fenceStep (s : State) (c : Nat) : Option State :=
  let k := getCore s c
  match k.dma.cancel with
  | none => none
  | some cn =>
    if cancelQuiet k cn then
      some (setCore (trace s (0x10 + clusterOf c) 31) c { k with dma := { k.dma with cancel := none, fenceDone := true, fenceTag := cn.tag } })
    else none

end Sys2Proof.Machine
end

