-- ==== Sys2Proof/Machine/Mesh.lean ====
section
/-! DEFINITION. Machine/Mesh.lean: messages (R372 to R376), slot rings and credits (R377 to R390) and fold channels (R278 to
R284). -/

namespace Sys2Proof.Machine

open Sys2Proof

/-! ### Sources of messages -/

/-- Executions at a source: a core, or the firmware and ring engine of the mast die for every other number. -/
def sendsOf (s : State) (src : Nat) : List SendEx := if src < 256 then (getCore s src).mesh.sends else s.hub.sends

def sendWith (s : State) (src id : Nat) : Option SendEx := (sendsOf s src).find? fun e => e.id == id

/-- Change one execution at its source. -/
def mapSend (s : State) (src id : Nat) (f : SendEx → SendEx) : State :=
  let g := fun (l : List SendEx) => l.map fun e => if e.id = id then f e else e
  if src < 256 then
    let k := getCore s src
    setCore s src { k with mesh := { k.mesh with sends := g k.mesh.sends } }
  else { s with hub := { s.hub with sends := g s.hub.sends } }

/-- NCLK cycles as a source counts them; of those of the mast die, as the destination's die does (R374, assumption 1). -/
def sendNclk (s : State) (src : Nat) (e : SendEx) : Nat := coreNclk s (if src < 256 then src else e.dst)

def markSend (s : State) (src id : Nat) (st : SendSt) : State :=
  mapSend s src id fun e => { e with st := st, since := s.aon, nclk := sendNclk s src e }

/-- An execution of a core's send is over: `ok` when it delivered; the descriptor has finished when all are over. -/
def settleSend (s : State) (src id : Nat) (wrote : Bool) : State :=
  match sendWith s src id with
  | none => s
  | some e =>
    let s1 := markSend s src id .done
    if src < 256 then
      let k := getCore s1 src
      match findRun k e.ctx e.seq with
      | none => s1
      | some r =>
        let ended := k.mesh.sends.all fun x => !(x.ctx == e.ctx && x.seq == e.seq) || x.st == .done
        setCore s1 src (putRun k { markWritten r e.exec wrote with finished := r.finished || ended })
    else { s1 with hub := { s1.hub with sends := s1.hub.sends.filter (·.id != id) } }

/-! ### Mailboxes (R373 to R376) -/

/-- The mailbox accepts a message; a context that waits in KRECV takes the oldest (R132, R375). -/
def acceptMail (k : Core) (m : Mail) : Core :=
  let k1 := { k with mesh := { k.mesh with mailbox := k.mesh.mailbox ++ [m] } }
  match k1.krecvOrder, k1.mesh.mailbox with
  | n :: rest, m1 :: mt =>
    let x := getCtx k1 n
    (match x.wait with
      | some (.krecv rd a) =>
        let k2 := takeMessage { k1 with krecvOrder := rest, mesh := { k1.mesh with mailbox := mt } } n x rd a m1
        if x.haltPending then haltRequest k2 n else k2
      | _ => k1)
  | _, _ => k1

/-- The message may enter the core: it is firmware's, or of the core's partition (R45, R376). -/
def samePart (s : State) (c : Nat) (m : Message) : Bool :=
  (decide (m.src ≠ 0x1FE) && decide (256 ≤ m.src)) || partField (partOfCore s c) == m.part

/-- The execution whose message this is, on its way. -/
def onItsWay (s : State) (c : Nat) (m : Message) : Option SendEx :=
  (sendsOf s m.src).find? fun e => e.kind == 0 && e.dst == c && e.st == .sent && e.msg == mailOf m && (decide (256 ≤ m.src) || e.ctx == m.srcCtx)

/-- The message comes of itself from firmware: the control core of the core's cluster or the scheduler core, with PARTITION 0xFF (R376) and class
C1 (R513, R518). -/
def fromFirmware (c : Nat) (m : Message) : Bool := (m.src == 0x100 + clusterOf c || m.src == 0x1FF) && m.part == 0xFF && m.cls == 1

/-- SRC of R373 names a source, and it has sent the message, of which no earlier packet of the same stream is still on its way (R370); or it
is a message of firmware. -/
def arrives (s : State) (c : Nat) (m : Message) : Bool :=
  match onItsWay s c m with
  | some e => !behind s m.src e.no (some (sendLane m.src c e.cls))
  | none => fromFirmware c m && pathOpen s (routeQueues s (sourceNode m.src) (.core c)) 2

/-- A C0 message of a POST wakes a context that waits in KRECV: its host path began at the doorbell read (R519, R527). -/
def markHostPath (k : Core) (before : List Nat) (e : Option SendEx) : Core :=
  match before, e with
  | n :: _, some e => if e.cls = 0 ∧ e.ctx = 0x1FE then putCtx k n { getCtx k n with hostSince := some e.asked } else k
  | _, _ => k

/-- The core's mailbox accepts the message of execution `e`. -/
def acceptFrom (s : State) (c : Nat) (m : Message) (e : Option SendEx) : State :=
  let k := getCore s c
  let s1 := setCore s c (markHostPath (acceptMail k (mailOf m)) k.krecvOrder e)
  match e with
  | none => s1
  | some e =>
    let s2 := if e.cls = 0 ∧ m.src < 256 then
        match findRun (getCore s m.src) e.ctx e.seq with
        | some r => monitorPath s1 1 ((s.aon - r.dispAon) * 20) 250 (partOfCore s c)
        | none => s1
      else s1
    settleSend s2 m.src e.id true

/-- The full mailbox refuses the message, which its source will send again unless it was stopped (R374). -/
def refuseFrom (s : State) (c : Nat) (m : Message) (e : Option SendEx) : State :=
  let k := getCore s c
  let s1 := setCore s c { k with mesh := { k.mesh with mboxNack := satAdd k.mesh.mboxNack 1 } }
  let s2 := if m.cls = 0 then boundOccur s1 6 ukCore (coreUnit s1 c) bndCore (partOfCore s1 c) else s1
  match e with
  | some e => markSend s2 m.src e.id .refused
  | none =>
    let x : SendEx := { id := s2.hub.sendNo, ctx := m.src, seq := 0, exec := 0, dst := c, kind := 0, msg := mailOf m, cls := m.cls
                        st := .refused, since := s2.aon, nclk := coreNclk s2 c }
    { s2 with hub := { s2.hub with sends := s2.hub.sends ++ [x], sendNo := s2.hub.sendNo + 1 } }

def execMessageArrival (c : Nat) (m : Message) (s : State) : Out :=
  onCore c <|
    if !arrives s c m then .next s
    else
      let e := onItsWay s c m
      let s := if e.isNone then crossQueues s (routeQueues s (sourceNode m.src) (.core c)) 2 else s
      if !samePart s c m then
        let s1 := countXpart s c
        .next (match e with | some e => markSend s1 m.src e.id .dropped | none => s1)
      else if (getCore s c).mesh.mailbox.length < 64 then .next (acceptFrom s c m e)
      else .next (refuseFrom s c m e)

/-- NCLK cycles after which what was refused is sent again (R374, R382). -/
def resendNclk : Nat := 64

/-- A refused execution's time to be sent again has come. -/
def resendDue (s : State) (src : Nat) (e : SendEx) : Bool := e.st == .refused && decide (sendNclk s src e ≥ e.nclk + resendNclk)

/-- The descriptor of an execution was stopped by a cancel. -/
def sendStopped (s : State) (src : Nat) (e : SendEx) : Bool :=
  decide (src < 256) && (match findRun (getCore s src) e.ctx e.seq with | some r => r.stopped | none => true)

/-- The C0 token of a POST's message: that of the command and ring engine, source 256 (R517, R518). -/
def hubToken (s : State) (part : Option Nat) (f : State → State) : State :=
  if Tab.get true s.hub.pacer 0 then f { s with hub := { s.hub with pacer := Tab.set s.hub.pacer 0 false } }
  else boundOccur s 7 ukNone 256 bndHost part

/-- A source sends at class 0 only with a token; firmware never does (R517, R518). -/
def sendToken (s : State) (src : Nat) (e : SendEx) (f : State → State) : State :=
  if src < 256 then withToken s src e.cls bndCore true f
  else if e.cls = 0 ∧ e.ctx = 0x1FE then hubToken s (partOfCore s e.dst) f
  else f s

/-- A message of the mast die leaves. -/
def hubSend (s : State) (id : Nat) : State :=
  let s1 := mapSend s 0x1FE id fun e => { e with st := .sent, since := s.aon, no := s.hub.packetNo }
  { s1 with hub := { s1.hub with packetNo := s.hub.packetNo + 1 } }

/-- The message of a POST leaves for core `c` (assumption 134). -/
def postSend (s : State) (id c : Nat) : State := hubSend (crossQueues s (routeQueues s .mast (.core c)) 2) id

def execMessageResend (src id : Nat) (s : State) : Out :=
  match sendWith s src id with
  | none => .next s
  | some e =>
    let qs := routeQueues s (sourceNode (if src < 256 then src else e.ctx)) (.core e.dst)
    if e.kind = 0 ∧ resendDue s src e ∧ !sendStopped s src e ∧ pathOpen s qs 2 then
      .next (sendToken s src e fun s => if src < 256 then sendMessage (crossQueues s qs 2) src e else hubSend (crossQueues s qs 2) id)
    else .next s

/-! ### Credits at the destination (R381, R382) -/

/-- Answer to a credit request, if the destination has one. -/
inductive CreditAns where
  | grant | discard | reject | hold
deriving DecidableEq, Repr

/-- `q` comes before `head` (R379). -/
def seqBefore (head q : Nat) : Bool := decide ((q + 2 ^ 32 - head) % 2 ^ 32 ≥ 2 ^ 31)

def ringAnswer (g : Ring) (src q len : Nat) : CreditAns :=
  let i := slotOfSeq g.slots q
  if !g.opened ∨ (!g.any && src != g.producer) then .hold
  else if seqBefore g.head q ∨ slotState g.st i = .filled q then .discard
  else if len > g.size then .reject
  else if inRing g.head g.slots q && slotState g.st i == .empty then .grant
  else .hold

/-- The channel takes partials: armed, or waiting for its group (R278, R280). -/
def foldAccepts (f : Fold) : Bool := f.st == .armed || f.st == .waiting

def foldAnswer (f : Fold) (q len : Nat) : CreditAns :=
  let i := (q - foldFirst f) % foldSlots f
  let folded : Bool := decide (foldFirst f ≤ q) && decide (q < f.next)
  if !foldAccepts f then (if (f.st = .complete ∨ f.st = .timeout) ∧ folded then .discard else .hold)
  else if folded ∨ slotState f.slots i = .filled q then .discard
  else if len ≠ foldSlotBytes f then .reject
  else if f.next ≤ q ∧ q ≤ foldLast f ∧ q < f.next + foldSlots f ∧ slotState f.slots i = .empty then .grant
  else .hold

def creditAnswer (k : Core) (src target q len : Nat) : CreditAns :=
  if target < 16 then ringAnswer (getRing k target) src q len else foldAnswer (getFold k (target - 16)) q len

/-- The slot of `q` of a target takes a state. -/
def setSlot (k : Core) (target q : Nat) (st : SlotSt) : Core :=
  if target < 16 then
    let g := getRing k target
    putRing k target { g with st := Tab.set g.st (slotOfSeq g.slots q) st }
  else
    let f := getFold k (target - 16)
    putFold k (target - 16) { f with slots := Tab.set f.slots ((q - foldFirst f) % foldSlots f) st }

def slotOf_ (k : Core) (target q : Nat) : SlotSt :=
  if target < 16 then let g := getRing k target; slotState g.st (slotOfSeq g.slots q)
  else let f := getFold k (target - 16); slotState f.slots ((q - foldFirst f) % foldSlots f)

def countDiscard (k : Core) (target : Nat) : Core :=
  if target < 16 then { k with mesh := { k.mesh with slotDiscard := satAdd k.mesh.slotDiscard 1 } }
  else { k with acc := { k.acc with foldDiscard := satAdd k.acc.foldDiscard 1 } }

/-- An answer reaches its producer, in the order of the answers to it (R370). -/
def answerSend (s : State) (src id ans : Nat) : State :=
  let n := (getCore s src).mesh.answerNo
  let s1 := mapSend s src id fun e => { e with st := .answered ans, since := s.aon, ansNo := n }
  let k := getCore s1 src
  setCore s1 src { k with mesh := { k.mesh with answerNo := n + 1 } }

/-- Give an answer other than a hold: the slot is granted, and the answer travels to the producer. -/
def giveAnswer (s : State) (c : Nat) (h : Held) (a : CreditAns) : State :=
  let k := getCore s c
  match a with
  | .grant => answerSend (setCore s c (setSlot k h.target h.slotSeq (.granted h.slotSeq s.aon))) h.src h.idx 0
  | .discard => answerSend (setCore s c (countDiscard k h.target)) h.src h.idx 1
  | .reject => answerSend s h.src h.idx 2
  | .hold => s

/-- A held request stays held: nothing can be answered, or its ring is closing (R388). -/
def staysHeld (k : Core) (h : Held) : Bool :=
  creditAnswer k h.src h.target h.slotSeq h.len == .hold || (decide (h.target < 16) && (getRing k h.target).closing)

/-- HELD_CREDIT_GRANT: held requests that the destination can now answer, oldest first (R382). One whose partition is not the core's is
discarded (R45). -/
def regrant (s : State) (c : Nat) : State :=
  (getCore s c).mesh.held.foldl (fun s h =>
    let k := getCore s c
    let s1 := setCore s c { k with mesh := { k.mesh with held := k.mesh.held.filter (· != h) } }
    if h.part ≠ partField (partOfCore s c) then markSend (countXpart s1 c) h.src h.idx .dropped
    else if staysHeld k h then s
    else giveAnswer s1 c h (creditAnswer k h.src h.target h.slotSeq h.len)) s

/-- Length that a credit request names. -/
def creditLen (s : State) (src : Nat) (e : SendEx) : Nat :=
  match findRun (getCore s src) e.ctx e.seq with
  | some r => lenOf (descOf r.desc) (runNest r) .a
  | none => 0

/-- A credit request reaches its destination; it is refused while 32 are held there (R381, R382). -/
def requestCredit (s : State) (src : Nat) (e : SendEx) : State :=
  let c := e.dst
  let k := getCore s c
  let asked := if e.asked = 0 then s.aon else e.asked
  let s0 := mapSend s src e.id fun x => { x with asked := asked }
  let len := creditLen s src e
  let h : Held := { src := src, idx := e.id, target := e.target, slotSeq := e.slotSeq, len := len, part := partField (partOfCore s src) }
  if partOfCore s src ≠ partOfCore s c then markSend (countXpart s0 c) src e.id .dropped
  else
    let k0 := getCore s0 c
    if k.mesh.held.length ≥ 32 then
      markSend (setCore s0 c { k0 with mesh := { k0.mesh with creditNack := satAdd k.mesh.creditNack 1 } }) src e.id .refused
    else
      match creditAnswer k src e.target e.slotSeq len with
      | .hold => markSend (setCore s0 c { k0 with mesh := { k0.mesh with held := k0.mesh.held ++ [h] } }) src e.id .sent
      | a => giveAnswer s0 c h a

/-- Every earlier execution of the send has sent its request. -/
def earlierAsked (s : State) (src : Nat) (e : SendEx) : Bool :=
  (sendsOf s src).all fun x => !(x.ctx == e.ctx && x.seq == e.seq && decide (x.exec < e.exec)) || x.st != .ready

/-- No packet that the source has sent to the destination in the class is on its way: the request arrives after them (R370). -/
def requestNext (s : State) (src : Nat) (e : SendEx) : Bool :=
  !behind s src (getCore s src).mesh.packetNo (some (sendLane src e.dst e.cls)) && pathOpen s (sendQueues s src e) 1

/-- The request of an execution is sent and arrives. -/
def askCredit (s : State) (src : Nat) (e : SendEx) : State :=
  sendToken s src e fun s =>
    let s1 := crossQueues s (sendQueues s src e) 1
    requestCredit (setCore s1 src (nextPacket (getCore s1 src))) src e

def execCreditRequest (src id : Nat) (s : State) : Out :=
  onCore src <|
    match sendWith s src id with
    | none => .next s
    | some e =>
      if e.kind = 1 ∧ e.st = .ready ∧ earlierAsked s src e ∧ requestNext s src e ∧ !sendStopped s src e then .next (askCredit s src e)
      else .next s

def execCreditRequestResend (src id : Nat) (s : State) : Out :=
  onCore src <|
    match sendWith s src id with
    | none => .next s
    | some e =>
      if e.kind = 1 ∧ resendDue s src e ∧ requestNext s src e ∧ !sendStopped s src e then
        .next (askCredit s src e)
      else .next s

/-! ### The answer at the producer (R381) -/

/-- Later executions of a send that have no grant do not run. -/
def dropLater (s : State) (src : Nat) (e : SendEx) (keepGranted : Bool) : State :=
  ((sendsOf s src).filter fun x => x.ctx == e.ctx && x.seq == e.seq && x.st != .done && decide (e.exec ≤ x.exec)
      && !(keepGranted && (x.st == .granted || x.st == .answered 0))).foldl (fun s x =>
    let s1 := { s with cores := s.cores.map fun p => (p.1, { p.2 with mesh := { p.2.mesh with
      held := p.2.mesh.held.filter fun h => !(h.src == src && h.idx == x.id) } }) }
    settleSend s1 src x.id false) s

/-- The descriptor of an execution takes a status. -/
def failSend (s : State) (src : Nat) (e : SendEx) (st : Nat) : State :=
  let k := getCore s src
  match findRun k e.ctx e.seq with
  | none => s
  | some r => setCore s src (putRun k (setStatus r st))

/-- A grant has come: the data moves as bursts (R381). -/
def grantBursts (k : Core) (c : Nat) (e : SendEx) : Core :=
  match findRun k e.ctx e.seq with
  | none => k
  | some r =>
    let d := descOf r.desc
    let n := runNest r
    match (execsOf r)[e.exec]? with
    | none => k
    | some x =>
      let bs := pieceBursts d.cls e.exec (.slot e.dst e.target e.slotSeq 0)
        { src := some ((slotLoc c r d.a).add (startOf d n .a x.2 - d.a.addr)), off := 0, len := lenOf d n .a }
      let bs1 := (bs.zipIdx).map fun (b : Burst × Nat) => { b.1 with idx := r.planned + b.2 }
      putRun k { r with bursts := r.bursts ++ bs1, planned := r.planned + bs.length }

/-- An earlier answer from the same core in the same class has not been taken (R370). -/
def answerBehind (s : State) (src : Nat) (e : SendEx) : Bool :=
  (sendsOf s src).any fun x => x.kind == 1 && x.dst == e.dst && x.cls == e.cls && decide (x.ansNo < e.ansNo)
    && (match x.st with | .answered _ => true | _ => false)

def execCreditAnswer (src id : Nat) (s : State) : Out :=
  onCore src <|
    match sendWith s src id with
    | none => .next s
    | some e =>
      let qs := answerQueues s src e
      if answerBehind s src e || !pathOpen s qs 1 then .next s
      else
      let s := match e.st with | .answered _ => crossQueues s qs 1 | _ => s
      match e.st with
      | .answered 0 =>
        let s1 := markSend s src id .granted
        .next (setCore s1 src (grantBursts (getCore s1 src) src e))
      | .answered 1 => .next (settleSend s src id false)
      | .answered _ => .next (dropLater (failSend s src e stShape) src e true)
      | _ => .next s

/-- CREDIT_WAIT of MSH_CFG in AON cycles; 0 acts as 1 microsecond. -/
def creditTime (k : Core) : Nat := max 1 k.mesh.creditWait.toNat * usAon

/-- An execution without an answer within CREDIT_WAIT withdraws its request (R386). -/
def execCreditWaitTimeout (src id : Nat) (s : State) : Out :=
  onCore src <|
    match sendWith s src id with
    | none => .next s
    | some e =>
      if e.kind = 1 ∧ (e.st = .sent ∨ e.st = .refused ∨ e.st = .dropped) ∧ s.aon > e.asked + creditTime (getCore s src) then
        .next (dropLater (failSend s src e stSlotTo) src e true)
      else .next s

/-! ### Filling, expiry, release and close (R383, R387, R388) -/

/-- The producing execution of a granted slot, with every byte delivered. -/
def filledBy (s : State) (c target q : Nat) : Option (Nat × Nat) :=
  firstSome (fun (p : Nat × Core) =>
    (p.2.mesh.sends.find? fun e => e.kind == 1 && e.dst == c && e.target == target && e.slotSeq == q && e.st == .granted
      && (match findRun p.2 e.ctx e.seq with
          | some r => !r.stopped && (r.bursts.filter (·.exec == e.exec)).all (·.done)
          | none => false)).map fun e => (p.1, e.id)) s.cores

/-- What the merge reads of a slot's fill find, in scratchpad or in the accumulator buffer: the words that its data was written into (R170,
R274). Whether one cannot be corrected. -/
def fillEcc (s : State) (c target q len : Nat) (ecc : EccHits) : State × Bool :=
  let k := getCore s c
  match grantedSlot k target q with
  | none => (s, false)
  | some a =>
    if target < 16 then
      let hits := hitsIn [(a, len)] ecc
      (spadEcc s c hits, hitsUe k.spad hits)
    else
      let hits := ecc.filter fun h => overlaps (h.1 / 4 * 4) 4 a len
      (abufEcc s c hits, hitsBad hits)

/-- SLOT_FILL: a granted slot whose data is all visible is filled; its readers may proceed, and the execution is over. -/
def execSlotFill (c target q : Nat) (ecc : EccHits) (s : State) : Out :=
  onCore c <|
    if target ≥ 32 then .refused .noSuchUnit
    else match slotOf_ (getCore s c) target q with
      | .granted p _ =>
        if p ≠ q then .next s
        else match filledBy s c target q with
          | none => .next s
          | some w =>
            let e := sendWith s w.1 w.2
            let x := fillEcc s c target q (e.elim 0 (creditLen s w.1)) ecc
            let s1 := if x.2 then e.elim x.1 fun e => failSend x.1 w.1 e stUncorr else x.1
            .next (settleSend (setCore s1 c (setSlot (getCore s1 c) target q (.filled q))) w.1 w.2 true)
      | _ => .next s

/-- Executions that hold a grant of the slot end in error, as bursts without an answer do (R402). -/
def endGrant (s : State) (c target q : Nat) : State :=
  s.cores.foldl (fun s p =>
    (p.2.mesh.sends.filter fun e => e.kind == 1 && e.dst == c && e.target == target && e.slotSeq == q
        && (e.st == .granted || e.st == .answered 0)).foldl (fun s e => settleSend (failSend s p.1 e stUncorr) p.1 e.id false) s) s

def execSlotGrantExpiry (c target q : Nat) (s : State) : Out :=
  onCore c <|
    if target ≥ 32 then .refused .noSuchUnit
    else match slotOf_ (getCore s c) target q with
      | .granted p t =>
        if p = q ∧ s.aon > t + respTime (getCore s c) then
          .next (regrant (endGrant (setCore s c (setSlot (getCore s c) target q .empty)) c target q) c)
        else .next s
      | _ => .next s

/-- A descriptor of context `n` pushed before `push` that reads `len` bytes at `lo` is queued. -/
def queuedReader (k : Core) (n push lo len : Nat) : Bool :=
  (getCtx k n).queue.any fun q => decide (q.push < push) && (readRanges (descOf q.desc)).any fun r => overlaps lo len (q.base + r.1) r.2

/-- The oldest pending release applies once no earlier reader remains (R387). -/
def applyRelease (k : Core) (ring : Nat) : Option Core :=
  if ring = 16 then
    let h := k.dma.hal
    match h.pendingRel with
    | [] => none
    | p :: rest =>
      let i := (h.head - 1) % 2
      if queuedReader k p.1 p.2 (halSlotAddr k i) (halSlotBytes h) || runsOverlap k (halSlotAddr k i) (halSlotBytes h) then none
      else some (putHal k { h with pendingRel := rest, head := h.head + 1, slots := Tab.set h.slots i { relaySlot h i with released := true } })
  else
    let g := getRing k ring
    match g.pendingRel with
    | [] => none
    | p :: rest =>
      let i := slotOfSeq g.slots g.head
      let lo := g.base + i * g.size
      if queuedReader k p.1 p.2 lo g.size || runsOverlap k lo g.size then none
      else some (putRing k ring { g with pendingRel := rest, head := (g.head + 1) % 2 ^ 32, st := Tab.set g.st i .empty })

def execRingReleaseApply (c ring : Nat) (s : State) : Out :=
  onCore c <|
    if ring > 16 then .refused .noSuchUnit
    else match applyRelease (getCore s c) ring with
      | none => .next s
      | some k => .next (watchChain (regrant (setCore s c k) c) c)

def execRingCloseComplete (c ring : Nat) (s : State) : Out :=
  onCore c <|
    if ring ≥ 16 then .refused .noSuchUnit
    else
      let k := getCore s c
      if ringMayClose k (getRing k ring) then .next (setCore s c (putRing k ring (closedRing (getRing k ring)))) else .next s

/-- A scalar instruction; a ring that it opens answers the requests held for it. -/
def execScalarInstruction (c : Nat) (s : State) : Out :=
  match issueAny c s with
  | .next t => .next (regrant t c)
  | o => o

def execKringOpen (c : Nat) (s : State) : Out :=
  match issueKringOpen c s with
  | .next t => .next (regrant t c)
  | o => o

/-! ### Fold channels (R278 to R284) -/

/-- Run `k` on a fold channel of a core. -/
def onFold (c ch : Nat) (k : Out) : Out := if c < 256 ∧ ch < 16 then k else .refused .noSuchUnit

/-- Two channels' rings share a byte of the fold area. -/
def foldsOverlap (a b : Fold) : Bool :=
  overlaps (foldSlotAddr a 0) (foldSlots a * foldSlotBytes a) (foldSlotAddr b 0) (foldSlots b * foldSlotBytes b)

/-- The arm is refused (R278, R289): the group is open or folding under another context, as the partner of an open FP64 group is (R256);
the reserved ATYPE is refused too. -/
def foldRefused (k : Core) (ch : Nat) (f : Fold) : Bool :=
  (match groupHeld k true (foldGroup f) with | some n => n != foldCtx f | none => false) || foldField f 4 2 == 3
    || decide (foldSlotAddr f 0 + foldSlots f * foldSlotBytes f > 0x40000)
    || (k.acc.folds.any fun p => p.1 != ch && foldAccepts p.2 && foldsOverlap f p.2)
    || decide (foldFirst f > foldLast f)

/-- Writable bits of ACC_FOLDn_CFG. -/
def foldMask : W64 := 0xFFFFFFFFFFFFFFF0

/-- A write of ACC_FOLDn_CFG (R278, R289). -/
def execFoldArm (c ch : Nat) (cfg : W64) (s : State) : Out :=
  onFold c ch <|
    let k := getCore s c
    let old := getFold k ch
    if foldAccepts old then .next s
    else
      let f := { old with cfg := cfg &&& foldMask }
      if !cfg.getLsbD 0 then .next (setCore s c (putFold k ch f))
      else if foldRefused k ch f then .next (setCore s c (putFold k ch { f with st := .refused }))
      else
        let armed : Fold := { cfg := f.cfg, st := .waiting, next := foldFirst f, order := k.acc.foldOrder, slots := [], since := s.aon }
        let k1 := putFold { k with acc := { k.acc with foldOrder := k.acc.foldOrder + 1 } } ch armed
        let free := foldMayTake k armed && (foldsWaiting k (foldGroup f)).isEmpty
        .next (regrant (setCore (trace s (0x10 + clusterOf c) 38) c (if free then foldTake k1 s.aon ch else k1)) c)

def execFoldTakeGroup (c ch : Nat) (s : State) : Out :=
  onFold c ch <|
    let k := getCore s c
    let f := getFold k ch
    if f.st = .waiting ∧ oldestWaiting k (foldGroup f) = some ch ∧ foldMayTake k f then
      .next (setCore s c (foldTake k s.aon ch))
    else .next s

/-- The entries of a slot as exact values, in row-major order. -/
def foldValues (k : Core) (f : Fold) (addr : Nat) : List FVal :=
  let w := accBytes (foldType f)
  (List.range (foldTrows f * 64)).map fun i =>
    let bits := leNum (memReadN 0 k.acc.foldArea (addr + i * w) w)
    match foldType f with
    | .int32 => fOfInt (intOf 32 bits)
    | .fp64 => fmtDecode fmtFp64 bits
    | .fp32 => fmtDecode fmtFp32 bits

/-- The adds of a slot of a channel, in row-major order (R279, R281). -/
def foldAdds (k : Core) (f : Fold) : List AbufAdd :=
  ((foldValues k f (foldSlotAddr f ((f.next - foldFirst f) % foldSlots f))).zipIdx).map fun (v : FVal × Nat) =>
    { group := foldGroup f, entry := v.2, value := v.1, ty := foldType f }

/-- The channel begins to fold the complete slot of NEXT: its adds go to the buffer (R271, R273, R281). -/
def foldBegin (k : Core) (ch : Nat) (bad : Bool) : Core :=
  let f := getFold k ch
  let g := getGroup k true (foldGroup f)
  let k1 := putGroup k true (foldGroup f) { g with received := true, buffered := true, ue := g.ue || bad }
  offerFold (putFold k1 ch { f with busy := true }) (foldAdds k f)

/-- The slot of NEXT has been added: it is emptied, NEXT advances, and after LAST the channel is COMPLETE and the group OPEN (R281). -/
def foldEnd (aon : Nat) (k : Core) (ch : Nat) : Core :=
  let f := getFold k ch
  let g := getGroup k true (foldGroup f)
  let last := f.next == foldLast f
  putFold (putGroup k true (foldGroup f) { g with st := if last then .opened else .folding }) ch
    { f with next := f.next + 1, slots := Tab.set f.slots ((f.next - foldFirst f) % foldSlots f) .empty, since := aon, busy := false
             st := if last then .complete else f.st }

/-- Channels whose slot's adds have all retired go on, and their credits return. -/
def finishFolds (s : State) (c : Nat) : State :=
  let k := getCore s c
  let done := k.acc.folds.filter fun p => p.2.busy && !addsPending k (foldGroup p.2)
  if done.isEmpty then s else regrant (setCore s c (done.foldl (fun k p => foldEnd s.aon k p.1) k)) c

/-- FOLD_FRAGMENT: the complete slot of fragment NEXT is added to the group that the channel holds, with what the check of the slot's words
finds (R274, R281). -/
def execFoldFragment (c ch : Nat) (ecc : EccHits) (s : State) : Out :=
  onFold c ch <|
    let k := getCore s c
    let f := getFold k ch
    let i := (f.next - foldFirst f) % foldSlots f
    if f.st = .armed ∧ !f.busy ∧ (getGroup k true (foldGroup f)).st = .folding ∧ slotState f.slots i = .filled f.next then
      let hits := ecc.filter fun h => overlaps (h.1 / 4 * 4) 4 (foldSlotAddr f i) (foldSlotBytes f)
      let s1 := abufEcc s c hits
      .next (finishFolds (setCore s1 c (foldBegin (getCore s1 c) ch (hitsBad hits))) c)
    else .next s

/-- ABUF_ADD_RETIRE (R272, R274): the head of a bank's conflict queue retires; a fold whose last add it was goes on. -/
def execAbufAddRetire (c bank : Nat) (ecc high : Option Ecc) (s : State) : Out :=
  onCore c <|
    if bank ≥ 16 then .refused .noSuchUnit
    else
      let k := getCore s c
      let s1 := setCore s c (retireAdd k bank ecc high)
      let s2 := match conflictQ k bank with
        | x :: _ => (eccOfAdd x ecc high).foldl (fun s e =>
            if e.2 = .uncorrectable then raiseCore s c 0x0602 2 (x.group * 0x8000 + x.entry * accBytes x.ty + e.1) else s) s1
        | [] => s1
      .next (finishFolds s2 c)

/-- The owner's head that waits on the group, in stage 2 or with its entries held, completes with SLOT_TIMEOUT and releases them (R259,
R284). -/
def failGroupWaiters (s : State) (c : Nat) (f : Fold) : State :=
  let n := foldCtx f
  match (ctxAt s c n).queue.head? with
  | some q =>
    if (q.passed || inStage2 s c n q) && descGroup (descOf q.desc) == some (true, foldGroup f) then
      refuseHead (setCore s c (sbRelease (getCore s c) q.holds)) c n q stSlotTo
    else s
  | none => s

/-- SLOT_WAIT of MSH_CFG in AON cycles; 0 acts as 1 microsecond. -/
def slotTime (k : Core) : Nat := max 1 k.mesh.slotWait.toNat * usAon

/-- The slot of NEXT has not come in time. An armed channel's group is FREE again; the owner's descriptor that waits for the channel, which
holds the group or is the oldest to wait on a FREE one, completes with SLOT_TIMEOUT (R259, R284). The timeout is not counted in ABANDONED, and
its granted slots are cleared with the filled ones, so that such a fill never takes place and its producer's execution ends by its own time only
(R284, R289; DESIGN CHOICE, assumption 157). -/
def execFoldTimeout (c ch : Nat) (s : State) : Out :=
  onFold c ch <|
    let k := getCore s c
    let f := getFold k ch
    let i := (f.next - foldFirst f) % foldSlots f
    let g := foldGroup f
    if foldAccepts f ∧ slotState f.slots i ≠ .filled f.next ∧ s.aon > f.since + slotTime k then
      let awaited := f.st == .armed || (oldestWaiting k g == some ch && (getGroup k true g).st == .free)
      let k1 := putFold k ch { f with st := .timeout, slots := [] }
      let k2 := if f.st = .armed then putGroup (dropAdds k1 g) true g {} else k1
      let s1 := raiseCore (setCore s c k2) c 0x0608 0 (16 + ch + f.next * 2 ^ 32)
      .next (if awaited then failGroupWaiters s1 c f else s1)
    else .next s

/-! ### Answers that do not come (R402) -/

/-- The credit request of an execution has been lost or discarded on its way, and RESP_TIMEOUT has passed (R402; assumption 37). -/
def requestLost (s : State) (c : Nat) (e : SendEx) : Bool :=
  e.kind == 1 && e.st == .dropped && decide (s.aon > e.since + respTime (getCore s c))

/-- RESP_TIMEOUT: a burst without an answer is done in error, its destination bytes untouched; so is a credit request of the descriptor's
execution `idx` (R402). A read of a stopped descriptor is no longer awaited. -/
def execRespTimeout (c n seq idx : Nat) (s : State) : Out :=
  onCtx c n <|
    let k := getCore s c
    match (findRun k n seq).bind fun r => (r.bursts.find? fun b => b.idx == idx && respLate s c b).map fun b => (r, b) with
    | some (r, b) => .next (raiseCore (finishBurst (dropTxn s c n seq idx) c r b stUncorr b.sent) c 0x0606 2 (n + 256 * burstDev b))
    | none =>
      match k.mesh.sends.find? fun e => e.ctx == n && e.seq == seq && e.exec == idx && requestLost s c e with
      | some e => .next (raiseCore (dropLater (failSend s c e stUncorr) c e true) c 0x0606 2 n)
      | none =>
        match k.dma.late.find? fun l => isLate n seq idx l && respLate s c l.burst with
        | some l => .next (raiseCore (setCore (dropTxn s c n seq idx) c { k with dma := dropLate k.dma n seq idx }) c 0x0606 2
            (n + 256 * burstDev l.burst))
        | none => .next s

end Sys2Proof.Machine
end

