-- ==== Sys2Proof/Machine/Arbiter.lean ====
section
/-! DEFINITION. Machine/Arbiter.lean: the common arbiter (R391 to R395) with the bound profile (R514, R515), clock-crossing queue
resets (R401, R651). -/

namespace Sys2Proof.Machine

open Sys2Proof

/-- ARBITER_DECISION: a point of the set chooses among the requests at its inputs (R391, R393). -/
def execArbiterDecision (set point now : Nat) (reqs : List ArbReq) (s : State) : Out :=
  if point ≥ pointCount set then .refused .noSuchUnit
  else .next (setPoint s set point (decideArb now (takeCommit s set now (getPoint s set point)) reqs))

/-- A window of WINDOW cycles starts: the C0 grants return to zero (R394). -/
def execQuotaWindow (set point now : Nat) (s : State) : Out :=
  if !isPoint set point then .refused .noSuchUnit
  else
    let p := getPoint s set point
    if now ≥ p.window + arbWindow p.par then .next (setPoint s set point (freshWindow now p)) else .next s

/-! ### COMMIT (R395) and the profile (R514, R515) -/

/-- Credits of C0 that a port's configuration gives (R434, R467). -/
def cfgCredits (c : W64) : List Nat :=
  let v := (List.range 4).map fun i => bf c.toNat (8 * i) 8
  if v.foldl (· + ·) 0 > 256 then [0x40, 0x40, 0x40, 0x40] else v

/-- The committed values of a set are bound-compatible (R514). -/
def boundOk (s : State) (set : Nat) : Bool :=
  let p := (getArbSet s set).live
  let lims (hi : Nat) : Bool := (List.range 4).all fun c => let l := (p.limit.getD c 0#7).toNat; decide (1 ≤ l) && decide (l ≤ hi)
  let boosts := arbBoost p 0 == 0xFFF && [1, 2, 3].all fun c => arbBoost p c == 0
  let creds := (List.range 16).map fun i => bf (getPort s i).cfg.toNat 0 8
  boosts &&
    (if set = 3 then lims 8 && p.window == 0x400 && decide (p.quota.toNat ≥ 0x20)
     else if set = 4 then lims 5 && decide (1 ≤ p.window.toNat) && decide (p.window.toNat ≤ 0x300)
       && creds.all fun c => decide (c ≤ p.quota.toNat) && decide (c ≤ 0x40)
     else lims 4 && p.window == 0x100 && decide (p.quota.toNat ≥ 0x30))

/-- Bounds whose paths cross a set (R519). -/
def setBounds (set : Nat) : Nat := if set = 3 then bndHbm else if set = 4 then bndFabric else bndHost + bndCore + bndHbm

/-- HUB_C0_STATUS.PROFILE, as the latest commit of each set was found (R515, R528). -/
def profileOf (s : State) : BitVec 4 :=
  let ok (set : Nat) : Bool := s.hub.compatible.getLsbD set
  BitVec.ofNat 4 ((if ok 0 && ok 1 then 1 else 0) + (if ok 2 then 2 else 0) + (if ok 3 then 4 else 0) + (if ok 4 then 8 else 0))

/-- The check at a commit: its outcome for the set is recorded, and the bounds that the set carries are suspended or resumed (R515, R526). -/
def profileCheck (s : State) (set : Nat) : State :=
  let bit := BitVec.ofNat 5 (2 ^ set)
  let s1 := { s with hub := { s.hub with compatible := if boundOk s set then s.hub.compatible ||| bit else s.hub.compatible &&& ~~~bit } }
  if boundOk s set then boundEnd s1 1 ukArb set none else boundBegin s1 1 ukArb set (setBounds set) none

def commitSet (s : State) (set : Nat) : State :=
  let a := getArbSet s set
  profileCheck (setArbSet s set { a with live := a.shadow, commits := a.commits + 1 }) set

/-- Offset of a set's registers in the PF's BAR0 (R645); the commit register stands at +0x28. -/
def arbOffset (set : Nat) : Nat :=
  if set = 0 then 0x400000 else if set = 1 then 0x400100 else if set = 2 then 0x400200 else if set = 3 then 0x200800 else 0x300800
def commitOffset (set : Nat) : Nat := arbOffset set + 0x28

/-- Log a change of security-relevant state before it takes effect; while the security core's queue is full the change waits
(R545, R584, R638). -/
def logChange (s : State) (code part session data : Nat) (k : State → Out) : Out :=
  if (logQueue s 0).length ≥ 64 then .next s else k (securityRecord s code part session data)

/-- A host write of 1 to COMMIT: only the physical function reaches the sets (R395, R638). -/
def execArbCommit (fn set : Nat) (s : State) : Out :=
  if set ≥ 5 ∨ fn > 16 then .refused .noSuchUnit
  else if fn ≠ 0 then .next s
  else logChange s 0x0409 0xFF (openId s 0) (commitOffset set + 2 ^ 64) fun s => .next (commitSet s set)

/-! ### Clock-crossing queues (R401, R651) -/

/-- The spar die whose MSH_CDC_ERR counts a queue; none for HUB_CDC_ERR. A number outside the table names no queue. -/
def queueDie (q : Nat) : Option (Option Nat) :=
  let kind := bf q 12 4
  let dir := bf q 11 1
  let i := bf q 0 11
  match kind with
  | 0 => if i < 272 then some (some (i / 136)) else none
  | 1 => if i < 16 then some (some (i / 8)) else none
  | 2 => if i < 256 then some (some (i / 128)) else none
  | 3 => if i < 4 then some (some (i % 2)) else none
  | 4 | 5 => if i < 16 ∧ dir = 0 then some none else none
  | 6 => if i = 0 then some none else none
  | 7 => if i < 3 then some none else none
  | 8 => if i = 0 ∧ dir = 0 then some none else none
  | _ => none

/-- What is on its way through a queue: a burst (context, SEQ, number) or an execution of a send (its number) of a core, since when, the
entries that it takes, and whether it is what goes back to the core. -/
structure Flight where
  core : Nat
  burst : Option (Nat × Nat × Nat)
  send : Nat := 0
  since : Nat
  entries : Nat
  back : Bool

/-- The packets of a burst of core `c` that cross queue `q`: its request, or its response (R366, R403). -/
def burstFlight (s : State) (q c n seq : Nat) (b : Burst) : Option Flight :=
  let x (back : Bool) : Flight := { core := c, burst := some (n, seq, b.idx), since := b.since, entries := burstEntries b back, back := back }
  if !b.issued || b.done || b.lost || b.answer.isSome then none
  else if (burstQueues s c b false).contains q then some (x false)
  else if (burstQueues s c b true).contains q then some (x true)
  else none

/-- The packet of a send's execution that crosses queue `q`: a message, or a credit answer. -/
def sendFlight (s : State) (q src : Nat) (e : SendEx) : Option Flight :=
  let x : Flight := { core := src, burst := none, send := e.id, since := e.since, entries := 0, back := false }
  let node := sourceNode (if src < 256 then src else e.ctx)
  match e.st with
  | .sent => if e.kind = 0 ∧ (routeQueues s node (.core e.dst)).contains q then some { x with entries := sumNat (packetBeats .message) } else none
  | .answered _ => if (answerQueues s src e).contains q then some { x with entries := sumNat (packetBeats .single), back := true } else none
  | _ => none

/-- Everything on its way through queue `q`. -/
def flightsOf (s : State) (q : Nat) : List Flight :=
  s.hub.sends.filterMap (sendFlight s q 0x1FE) ++ s.cores.flatMap fun p =>
    (p.2.runs.flatMap fun r => r.bursts.filterMap (burstFlight s q p.1 r.ctx r.seq))
      ++ (p.2.dma.late.filterMap fun l => burstFlight s q p.1 l.ctx l.seq l.burst) ++ p.2.mesh.sends.filterMap (sendFlight s q p.1)

/-- The earliest first. -/
def insertFlight (x : Flight) : List Flight → List Flight
  | [] => [x]
  | y :: t => if x.since < y.since then x :: y :: t else y :: insertFlight x t

/-- A burst is lost on its way; a write whose acknowledgement is lost has been performed (R402). -/
def loseBurst (s : State) (c n seq idx : Nat) (back : Bool) : State :=
  let mark (b : Burst) : Burst := if b.idx = idx then { b with lost := true } else b
  let k := getCore s c
  match findRun k n seq with
  | some r =>
    let s1 := match r.bursts.find? fun b => b.idx == idx with
      | some b =>
        if back && !readsFar b then deliverFrom s c b.dst b.data else s
      | none => s
    setCore s1 c (putRun (getCore s1 c) { r with bursts := r.bursts.map mark })
  | none => setCore s c { k with dma := { k.dma with late := k.dma.late.map fun l =>
      if l.ctx = n ∧ l.seq = seq then { l with burst := mark l.burst } else l } }

def loseFlight (s : State) (x : Flight) : State :=
  match x.burst with
  | some (n, seq, idx) => loseBurst s x.core n seq idx x.back
  | none => markSend s x.core x.send .dropped

/-- The contents of a queue are discarded: of what is on its way through it the oldest, up to `n` entries (R401; assumption 135). -/
def loseContents (s : State) (q n : Nat) : State :=
  let fs := (flightsOf s q).foldl (fun l x => insertFlight x l) []
  (fs.foldl (fun (a : State × Nat) x => if a.2 = 0 then a else (loseFlight a.1 x, a.2 - x.entries)) (s, n)).1

/-- The pointers of a queue differ: it is reset, its contents are lost, and the loss is counted and reported (R401). -/
def execQueueReset (q occW occR : Nat) (s : State) : Out :=
  match if q < 65536 then queueDie q else none with
  | none => .refused .noSuchUnit
  | some die =>
    let lost := max occW occR
    let s1 := match die with
      | some d =>
        let e := Tab.get (0#16, 0#8, 0#8) s.hub.mshCdc d
        { s with hub := { s.hub with mshCdc := Tab.set s.hub.mshCdc d (satAdd e.1 lost, satAdd e.2.1 1, BitVec.ofNat 8 (q / 256)) } }
      | none => { s with hub := { s.hub with cdcLost := satAdd s.hub.cdcLost lost, cdcResets := satAdd s.hub.cdcResets 1
                                             cdcLast := BitVec.ofNat 8 (q / 256) } }
    .next (raise (holdOut (setCdc (loseContents s1 q lost) q { clearing := true })) 0x0605 2 none ukQueue q (satField 16 lost) 0)

end Sys2Proof.Machine
end

