-- ==== Sys2Proof/Machine/Work.lean ====
section
/-! DEFINITION. Machine/Work.lean: work counters, segment tables, the completion ledger and recovery (10). -/

namespace Sys2Proof.Machine

open Sys2Proof

/-! ### The ledger (R305, R306) -/

/-- Device address of a counter's ledger. -/
def ledgerBase (x : Ctr) : Nat := x.ledger.toNat * 64

def devNum (s : State) (a n : Nat) : Nat := leNum (devRead s a n)

def ledgerSegments (s : State) (base : Nat) : Nat := devNum s (base + 8) 4
def ledgerEntry (s : State) (base i : Nat) : Nat := devNum s (base + 64 + 2 * i) 2
def setLedgerEntry (s : State) (base i v : Nat) : State := devWrite s (base + 64 + 2 * i) (leBytes 2 v)
/-- Add `n` to a 32-bit count of the header at offset `off`, which saturates at its top (DESIGN CHOICE, assumption 150); what the check of the
word finds is counted (R411, R412). -/
def bumpLedger (s0 : State) (base off n : Nat) (ecc : EccHits) : State :=
  let s := hbmEcc s0 (accessHits (base + off) 4 false ecc)
  devWrite s (base + off) (leBytes 4 (satField 32 (devNum s (base + off) 4 + n)))
/-- Header bytes are written: a word written in part is checked (R412). -/
def setLedgerBytes (s : State) (a : Nat) (bs : List Byte) (ecc : EccHits) : State := devWrite (hbmEcc s (accessHits a bs.length true ecc)) a bs

/-- Bytes of a ledger, header and entries. -/
def ledgerSize (s : State) (base : Nat) : Nat := 64 + 2 * ledgerSegments s base

/-- The word of entry `i` of the ledger at `b` cannot be read (R310, R616), or its reserved bits are not zero, which R12 lets no unit ignore
(DESIGN CHOICE, assumption 155). -/
def entryBad (s : State) (b i : Nat) (ecc : EccHits) : Bool :=
  accessBad s (b + 64 + 2 * i) 2 false ecc || bf (ledgerEntry s b i) 3 5 != 0

/-- The reserved bytes of the ledger's header are zero (R12, R305). -/
def ledgerReservedOk (s : State) (b : Nat) : Bool := devNum s (b + 7) 1 == 0 && devNum s (b + 32) 32 == 0
/-- An operation reads entry `i`: what the check of its word finds is the channel's count and event (R411). -/
def readEntry (s : State) (b i : Nat) (ecc : EccHits) : State := hbmEcc s (accessHits (b + 64 + 2 * i) 2 false ecc)

/-- Flag bits of an entry: 0 CLAIMED, 1 COMMITTED, 2 PARTIAL (R306). -/
def entryGen (e : Nat) : Nat := bf e 8 8
def entryCommitted (e : Nat) : Bool := e.testBit 1
def entryClaimed (e : Nat) : Bool := e.testBit 0

/-- Entry `i` of the ledger at `b` cannot be read: counted for counter `n`, reported, and kept for the record of its job (R310, R498,
R612). -/
def ledgerUe (s : State) (n b i : Nat) (ecc : EccHits) : State :=
  let x := getCtr s n
  let s1 := setCtr (bumpLedger s b 28 1 ecc) n { x with ue := x.ue + 1 }
  let s2 := { s1 with wct := { s1.wct with ledgerUe := satAdd s1.wct.ledgerUe 1 }
                      hif := { s1.hif with jobs := s1.hif.jobs.map fun j =>
                        if j.counter = some n then { j with firstUe := min j.firstUe i } else j } }
  raise s2 0x0604 2 (some x.part.toNat) ukNone 0 (i + n * 2 ^ 32) 0

/-- The same of a ledger that no counter holds any more: the event names no counter, and the partition is that of the ledger's region
(DESIGN CHOICE, assumption 150). -/
def looseUe (s : State) (b i : Nat) (ecc : EccHits) : State :=
  let s1 := bumpLedger s b 28 1 ecc
  raise { s1 with wct := { s1.wct with ledgerUe := satAdd s1.wct.ledgerUe 1 } } 0x0604 2 (regionOwner s b) ukNone 0 i 0

/-! ### Segment tables (R290, R291) -/

structure SegEntry where
  idx : Nat
  kind : Nat
  owner : Nat
  row : Nat
  rows : Nat
  nz : Nat
  nzs : Nat
  frag : Nat
  fragLast : Nat
  bytes : List Byte
deriving DecidableEq, Repr

def segEntry (s : State) (table i : Nat) : SegEntry :=
  let bs := devRead s (table + 64 + 32 * i) 32
  let f (o n : Nat) : Nat := leNum ((bs.drop o).take n)
  { idx := f 0 4, kind := f 4 1, owner := f 6 2, row := f 8 4, rows := f 12 4, nz := f 16 4, nzs := f 20 4, frag := f 24 2
    fragLast := f 26 2, bytes := bs }

def segClaimable (s : State) (table : Nat) : Nat := devNum s (table + 8) 4
def segEntries (s : State) (table : Nat) : Nat := devNum s (table + 12) 4
def segList (s : State) (table : Nat) : List SegEntry := (List.range (segEntries s table)).map (segEntry s table)

/-- Header of a segment table (R290). -/
def segHeaderOk (s : State) (table : Nat) : Bool :=
  devNum s table 4 == 0x53544B4E && devNum s (table + 4) 1 == 1 && devNum s (table + 5) 3 == 0 && devNum s (table + 28) 32 == 0
    && devNum s (table + 60) 3 == 0 && devNum s (table + 63) 1 == 0xA5 && decide (segClaimable s table ≤ segEntries s table)
    && decide (segEntries s table ≤ 2 ^ 24) && table % 64 == 0

/-- Fragments of the heavy row of a FOLD entry, by index. -/
def fragsOf (es : List SegEntry) (f : SegEntry) : List SegEntry := es.filter fun e => e.kind == 1 && e.row == f.row

/-- The heavy row of FOLD entry `f` is cut as R292 asks. -/
def fragsOk (es : List SegEntry) (f : SegEntry) : Bool :=
  let fr := fragsOf es f
  let at_ (i : Nat) : Option SegEntry := fr.find? (·.frag == i)
  fr.length == f.fragLast + 1 && fr.all (fun e => e.owner == f.owner && e.fragLast == f.fragLast && decide (e.frag ≤ f.fragLast))
    && (List.range (f.fragLast + 1)).all fun i =>
      match at_ i, at_ (i + 1) with
      | some a, some b => b.nz == a.nz + a.nzs
      | some _, none => i == f.fragLast
      | _, _ => false

/-- The fields of an entry that its KIND fixes, and the reserved bytes (R291; assumption 138). -/
def segEntryOk (e : SegEntry) : Bool :=
  e.bytes.getD 5 0 == 0 && (e.bytes.drop 28).all (· == 0) && (e.kind == 1 || e.frag == 0) && (e.kind == 0 || e.rows == 1)
    && (if e.kind = 0 then e.owner == 0xFFFF && e.fragLast == 0 else true) && (e.kind != 2 || e.nzs == 0)

/-- Every check of R292 that the table shows; the SEGMENTS of a ledger outside the partition's regions are not read, and reserved bytes
of its header that are not zero fail the check (R12; DESIGN CHOICE, assumption 155). A table that a
RECOVER names may be a retry table, which covers only a part of the rows (`retry`; R292, R312). -/
def tableOk (s : State) (part table ledger : Nat) (retry : Bool) : Bool :=
  let es := segList s table
  let n := segClaimable s table
  let cap := devNum s (table + 16) 4
  let rowsN := devNum s (table + 24) 4
  let cover := (es.filter fun e => e.kind == 0 || e.kind == 2).map fun e => (e.row, if e.kind = 2 then 1 else e.rows)
  let folds := es.filter (·.kind == 2)
  segHeaderOk s table && decide (1 ≤ cap) && es.all segEntryOk
    && (es.zipIdx).all (fun (x : SegEntry × Nat) => if x.2 < n then x.1.kind == 0 || x.1.kind == 1 else x.1.kind == 2)
    && cover.all (fun c => decide (c.1 + c.2 ≤ rowsN)) && (retry || sumNat (cover.map (·.2)) == rowsN) && allDisjoint (cover.filter (·.2 != 0))
    && es.all (fun e => e.kind == 2 || decide (e.nzs ≤ cap))
    && folds.all (fragsOk es) && es.all (fun e => e.kind != 1 || folds.any (·.row == e.row))
    && es.all (fun e => e.kind == 0 || (decide (e.owner < 256) && partOfCore s e.owner == some part))
    && folds.all (fun f => decide ((folds.filter (·.owner == f.owner)).length ≤ 16))
    && (es.map (·.idx)).Nodup
    && (!regionsOk s (some part) ledger 64 || (ledgerReservedOk s ledger && es.all fun e => decide (e.idx < ledgerSegments s ledger)))

/-! ### Claims and commits (R298 to R303) -/

/-- Requests of a context: the oldest one, and the others. -/
def takeClaim (n : Nat) (p : ClaimReq → Bool) : List ClaimReq → Option (ClaimReq × List ClaimReq)
  | [] => none
  | r :: t => if r.ctx = n ∧ p r then some (r, t) else (takeClaim n p t).map fun x => (x.1, r :: x.2)

def claimFunc (r : ClaimReq) : Nat := bf r.rs1.toNat 8 2
def claimCtr (r : ClaimReq) : Nat := bf r.rs1.toNat 0 8

/-- A reserved FUNC, or a nonzero bit in a zero field (R299). -/
def claimMalformed (r : ClaimReq) : Bool :=
  decide (claimFunc r ≥ 2) || bf r.rs1.toNat 24 40 != 0 || bf r.rs1.toNat 10 6 != 0 || (claimFunc r == 0 && bf r.rs1.toNat 16 8 != 0)

/-- The reply reaches the context, which retires its KCLAIM (R133); a killed one takes nothing (R124). -/
def claimReply (s : State) (c n : Nat) (r : ClaimReq) (v : Nat) : State :=
  let k := getCore s c
  let x := getCtx k n
  match x.wait with
  | some (.kclaim rd) =>
    if r.dead then s
    else setCore s c (wake (putCtx k n (retire { advance (writeX x rd (BitVec.ofNat 64 v)) 4 with st := .running, wait := none })))
  | _ => s

/-- The counter is not the core's: the context that waits for the reply faults with CLAIM_DENIED (R43, R299). -/
def claimDenied (s : State) (c n : Nat) (r : ClaimReq) : State :=
  let x := getCtx (getCore s c) n
  match x.wait with
  | some (.kclaim _) => if r.dead then s else faultCtx s c n causeClaim x.pc.toNat
  | _ => s

/-- A claim marks the segment at position `p` of the counter's table: the table entry's LEDGER_IDX is read, then the ledger entry (R300,
R310). -/
def markClaimed (s : State) (n p : Nat) (ecc : EccHits) : State :=
  let x := getCtr s n
  let b := ledgerBase x
  match x.table with
  | none => s
  | some t =>
  let idx := (segEntry s t p).idx
  let s1 := readEntry (hbmEcc s (accessHits (t + 64 + 32 * p) 4 false ecc)) b idx ecc
  if entryBad s1 b idx ecc then ledgerUe s1 n b idx ecc else setLedgerEntry s1 b idx (ledgerEntry s1 b idx ||| 1)

/-- A claim of `i` positions of counter `n` (R300): the value returned, and the state after it. -/
def claimOp (s : State) (n i : Nat) (ecc : EccHits) : Nat × State :=
  let x := getCtr s n
  match x.st with
  | .disabled => (0xFFFFFFFF, s)
  | .frozen => (x.limit.toNat, s)
  | .running =>
    let old := x.value.toNat
    let new := min (old + i) x.limit.toNat
    let s1 := setCtr s n { x with value := BitVec.ofNat 32 new }
    let s2 := ((List.range (new - old)).map (old + ·)).foldl (fun s p => markClaimed s n p ecc) s1
    (old, if new > old then { s2 with wct := { s2.wct with claims := satAdd s2.wct.claims 1 } } else s2)

/-- A commit of ledger entry `i` in generation `g` (R302, R303, R310): RESULT, the GEN found, and the state after it. Where no entry
is read (RANGE) the GEN is a free value: R302 states none (assumption 102). -/
def commitOp (s0 : State) (n i g : Nat) (ecc : EccHits) : Nat × Nat × State :=
  let x := getCtr s0 n
  let b := ledgerBase x
  let s1 := if x.st = .disabled then s0 else hbmEcc s0 (accessHits (b + 8) 4 false ecc)
  if x.st = .disabled ∨ i ≥ ledgerSegments s0 b then (3, (drawFree s1).1 % 256, (drawFree s1).2)
  else
    let s := readEntry s1 b i ecc
    let e := ledgerEntry s b i
    if entryBad s b i ecc then (4, entryGen e, ledgerUe s n b i ecc)
    else if entryGen e ≠ g then
      let s1 := setCtr (bumpLedger s b 20 1 ecc) n { x with dup := x.dup + 1 }
      (1, entryGen e, { s1 with wct := { s1.wct with dupCommit := satAdd s1.wct.dupCommit 1 } })
    else if entryCommitted e then (2, entryGen e, s)
    else (0, entryGen e, bumpLedger (setLedgerEntry s b i (e ||| 3)) b 16 1 ecc)

/-- The ledger or the table of the counter lies in a channel that serves nothing now (R415). -/
def claimWaits (s : State) (x : Ctr) : Bool :=
  let b := ledgerBase x
  rangeWaits s b (ledgerSize s b) || x.table.any fun t => rangeWaits s t (64 + 32 * segEntries s t)

/-- CLASS of the counter that a request names; 0 acts as 1 (R298, R513). -/
def claimClass (s : State) (r : ClaimReq) : Nat := max 1 (getCtr s (claimCtr r)).cls.toNat

/-- A request that the core sent earlier in the same class has not been accepted (R370, R513). -/
def claimBehind (s : State) (k : Core) (r : ClaimReq) : Bool :=
  (k.claims.takeWhile (· != r)).any fun q => claimClass s q == claimClass s r

/-- Perform a request of context `n` of core `c` that satisfies `p`. -/
def doClaim (c n : Nat) (p : ClaimReq → Bool) (f : State → ClaimReq → Nat × State) (s : State) : Out :=
  onCtx c n <|
    let k := getCore s c
    match takeClaim n p k.claims with
    | none => .next s
    | some (r, rest) =>
      let s1 := setCore s c { k with claims := rest }
      let x := getCtr s1 (claimCtr r)
      if claimBehind s k r then .next s
      else if claimMalformed r then .next (claimReply s1 c n r (2 ^ 64 - 1))
      else if !(x.assigned && partOfCore s1 c == some x.part.toNat) then .next (claimDenied s1 c n r)
      else if x.st ≠ .disabled && claimWaits s x then .next s
      else
        let a := f s1 r
        .next (claimReply a.2 c n r a.1)

def execKclaimClaim (c n : Nat) (ecc : EccHits) (s : State) : Out :=
  doClaim c n (fun r => claimFunc r != 1) (fun s r =>
    let a := claimOp s (claimCtr r) (bf r.rs2.toNat 0 32) ecc
    (a.1 + (getCtr s (claimCtr r)).gen.toNat * 2 ^ 32, a.2)) s

def execKclaimCommit (c n : Nat) (ecc : EccHits) (s : State) : Out :=
  doClaim c n (fun r => claimFunc r == 1) (fun s r =>
    let a := commitOp s (claimCtr r) (bf r.rs2.toNat 0 32) (bf r.rs1.toNat 16 8) ecc
    (a.1 + a.2.1 * 2 ^ 32, a.2.2)) s

/-! ### The scheduler core's operations (R296, R308, R311, R312) -/

/-- The whole ledger lies in the partition's HBM regions (R296). -/
def ledgerInside (s : State) (part ledger : Nat) : Bool :=
  let n := ledgerSize s ledger
  ledger % 64 == 0 && spaceOf ledger n == .hbm && regionsOk s (some part) ledger n

def ctrState (s : State) (n : Nat) (st : CtrSt) : State := setCtr (trace s 2 27) n { getCtr s n with st := st }

/-- Set a counter that is not RUNNING to run (R296). -/
def runCounter (s : State) (n value limit gen ledger table : Nat) (owners : List (Nat × Nat)) : State :=
  setCtr (trace s 2 27) n { getCtr s n with
    st := .running, value := BitVec.ofNat 32 value, limit := BitVec.ofNat 32 limit, gen := BitVec.ofNat 8 gen
    ledger := BitVec.ofNat 46 (ledger / 64), table := some table, owners := owners }

/-- Findings of the scheduler core's reads of a ledger: free values of one index (assumption 136). -/
def ledgerFindings (s : State) (b : Nat) : EccHits × State :=
  let d := drawFree s
  (((List.range ((ledgerSize s b + 7) / 8)).map fun i => b + 8 * i).filterMap fun w => (Config.hbmFinding d.1 w).map fun e => (w, e), d.2)

/-- Entry `i` of a cancelled job: PARTIAL where it is claimed and not committed; one that cannot be read is left and reported (R308, R310). -/
def markPartial (s0 : State) (n b i : Nat) (ecc : EccHits) : State :=
  let s := readEntry s0 b i ecc
  let e := ledgerEntry s b i
  if entryBad s b i ecc then ledgerUe s n b i ecc
  else if entryClaimed e && !entryCommitted e && !e.testBit 2 then bumpLedger (setLedgerEntry s b i (e ||| 4)) b 24 1 ecc
  else s

/-- A cancelled job's ledger: FROZEN counter, PARTIAL on every entry claimed and not committed, STATE CANCELLED (R308). -/
def cancelLedger (s : State) (n : Nat) : State :=
  let b := ledgerBase (getCtr s n)
  let f := ledgerFindings (ctrState s n .frozen) b
  let s1 := hbmEcc f.2 (accessHits (b + 8) 4 false f.1)
  let s2 := (List.range (ledgerSegments s1 b)).foldl (fun s i => markPartial s n b i f.1) s1
  setLedgerBytes s2 (b + 6) [2] f.1

/-- One re-issue (R311): whether the entry was committed, and the state after it. An entry that cannot be read counts as uncommitted and is
rewritten whole (R310). -/
def reissue (s0 : State) (n : Nat) (ecc : EccHits) (b i new : Nat) (force : Bool) : Bool × State :=
  let s := readEntry s0 b i ecc
  let e := ledgerEntry s b i
  if entryBad s b i ecc then (false, setLedgerEntry (ledgerUe s n b i ecc) b i (new * 256))
  else if entryCommitted e && !force then (true, s)
  else (false, setLedgerEntry s b i (new * 256 + (e &&& 4)))

/-- A fragment of a complete heavy row counts as done (R311): COMMITTED alone is set, and no count of the header rises (DESIGN CHOICE,
assumption 150). Its entry, where it cannot be read, is rewritten whole as committed (R310; assumption 138). -/
def markCommitted (s0 : State) (n : Nat) (ecc : EccHits) (b i new : Nat) : State :=
  let s := readEntry s0 b i ecc
  if entryBad s b i ecc then setLedgerEntry (ledgerUe s n b i ecc) b i (new * 256 + 2) else setLedgerEntry s b i (ledgerEntry s b i ||| 2)

/-- The retry table: the header of the original with its counts replaced, and the entries that are left (R311, R312). -/
def retryBytes (s : State) (table : Nat) (retry folds : List SegEntry) : List Byte :=
  let h := devRead s table 64
  h.take 8 ++ leBytes 4 retry.length ++ leBytes 4 (retry.length + folds.length) ++ (h.drop 16).take 47 ++ [0xA5]
    ++ (retry ++ folds).flatMap (·.bytes)

/-- The re-issue of every segment that did not commit: entries to retry, folds to arm, state after the ledger operations. -/
def reissueAll (s : State) (n : Nat) (ecc : EccHits) (b table new : Nat) : List SegEntry × List SegEntry × State :=
  let es := segList s table
  let r1 := (es.filter (·.kind == 2)).foldl (fun (a : List SegEntry × List SegEntry × State) f =>
    let x := reissue a.2.2 n ecc b f.idx new false
    if x.1 then (a.1, a.2.1, (fragsOf es f).foldl (fun s e => markCommitted s n ecc b e.idx new) x.2)
    else
      (a.1 ++ fragsOf es f, a.2.1 ++ [f], (fragsOf es f).foldl (fun s e => (reissue s n ecc b e.idx new true).2) x.2)) ([], [], s)
  (es.filter (·.kind == 0)).foldl (fun (a : List SegEntry × List SegEntry × State) e =>
    let x := reissue a.2.2 n ecc b e.idx new false
    (if x.1 then a.1 else a.1 ++ [e], a.2.1, x.2)) r1

end Sys2Proof.Machine
end

