-- ==== Sys2Proof/Machine/Jobs.lean ====
section
/-! DEFINITION. Machine/Jobs.lean: host rings and their commands as data (R478 to R489), placed jobs and their cancel (R355, R308,
R498, R503). -/

namespace Sys2Proof.Machine

open Sys2Proof

/-! ### Access -/

def getFn (s : State) (f : Nat) : Fn := Tab.get {} s.hif.fns f
def setFn (s : State) (f : Nat) (x : Fn) : State := { s with hif := { s.hif with fns := Tab.set s.hif.fns f x } }
def getHRing (s : State) (f n : Nat) : HRing := Tab.get {} (getFn s f).rings n
def setHRing (s : State) (f n : Nat) (x : HRing) : State :=
  setFn s f { getFn s f with rings := Tab.set (getFn s f).rings n x }

/-- Rings of a function (R478). -/
def ringCount (f : Nat) : Nat := if f = 0 then 4 else 64
/-- Run `k` on a ring that the module has. -/
def onRing (f n : Nat) (k : Out) : Out := if f ≤ 16 ∧ n < ringCount f then k else .refused .noSuchUnit

/-- Little-endian field of `n` bytes at offset `o` of a list of bytes. -/
def fieldAt (b : List Byte) (o n : Nat) : Nat := leNum ((b.drop o).take n)

/-- Entries of a ring (R512). -/
def ringEntries (r : HRing) : Nat := 2 ^ (min 12 (bf r.cfg.toNat 8 4) + 4)
def ringClass (r : HRing) : Nat := bf r.cfg.toNat 1 2
def ringVector (r : HRing) : Nat := bf r.cfg.toNat 12 11

/-- Partition that function `f` serves (R17, R474). -/
def fnPart (f : Nat) : Option Nat := if f = 0 then none else some (f - 1)

/-- VF `f` is live (R474). -/
def vfLive (s : State) (f : Nat) : Bool :=
  s.hif.vfEnable && decide (1 ≤ f) && decide (f ≤ s.hif.numVfs) && decide (f ≤ 16) && partLive (getPart s (f - 1))

/-- The function's rings are polled: it is the PF or a live VF, and holds an open session (R474). -/
def fnPolled (s : State) (f : Nat) : Bool := (f == 0 || vfLive s f) && (Tab.get {} s.sec.sess f).opened

/-! ### Completion of commands -/

def cmdOp (c : HCmd) : Nat := fieldAt c.bytes 0 1
def cmdOrdered (c : HCmd) : Bool := (fieldAt c.bytes 1 1).testBit 0

/-- RESULT of a command that names none of its own: a LAUNCH in PLACE or RECOVER mode that has placed nothing shows FIRST_UE_IDX
for none (R488). -/
def plainResult (c : HCmd) : List Byte :=
  if cmdOp c = 1 ∧ (fieldAt c.bytes 16 1 = 0 ∨ fieldAt c.bytes 16 1 = 2) then leBytes 8 0 ++ leBytes 4 0xFFFFFFFF ++ leBytes 3 0 else []

/-- The completion record of a command. -/
def doneOf (c : HCmd) (status : Nat) (result : List Byte) : Done :=
  { serial := c.serial, cmdId := fieldAt c.bytes 4 4, status := status, op := cmdOp c, irq := (fieldAt c.bytes 1 1).testBit 1
    result := if result.isEmpty then plainResult c else result, launch := if cmdOp c = 1 then some (fieldAt c.bytes 8 8) else none }

/-- Command `i` of a ring completes: its record waits for the CQ (R483). -/
def completeCmd (s : State) (f n i status : Nat) (result : List Byte) : State :=
  let r := getHRing s f n
  match r.cmds.find? fun c => c.idx == i with
  | none => s
  | some c => setHRing s f n { r with cmds := r.cmds.filter fun x => x.idx != i, done := r.done ++ [doneOf c status result] }

/-- Change the progress of command `i`. -/
def markCmd (s : State) (f n i : Nat) (st : CmdSt) : State :=
  let r := getHRing s f n
  setHRing s f n { r with cmds := r.cmds.map fun c => if c.idx = i then { c with st := st } else c }

/-! ### The record of a job (R488, R498) -/

def ctxFaulted (s : State) (x : Nat × Nat) : Bool := (ctxAt s x.1 x.2).st == .faulted

def jobFaults (s : State) (j : Job) : Nat := (j.ctxs.filter (ctxFaulted s)).length + j.lost

def jobResult (s : State) (j : Job) : List Byte :=
  let counts : Nat × Nat := match j.counter with
    | some n => (devNum s (ledgerBase (getCtr s n) + 20) 4, devNum s (ledgerBase (getCtr s n) + 28) 4)
    | none => (0, 0)
  leBytes 4 counts.1 ++ leBytes 4 counts.2 ++ leBytes 4 j.firstUe ++ leBytes 2 (satField 16 (jobFaults s j)) ++ [0]

def sameJob (a b : Job) : Bool := a.part == b.part && a.launch == b.launch && a.origin == b.origin

/-- The job is over: its record goes to the ring of its LAUNCH. Where it ends under R498 (`kill`) its contexts are killed, which
keeps CAUSE and FAULT_PC; a cancelled job's contexts stay HALTED (R348, R355). -/
def endJob (s : State) (j : Job) (status : Nat) (kill : Bool) : State :=
  let res := jobResult s j
  let s0 := match j.counter with
    | some n => touch (trace s 2 26) (ledgerBase (getCtr s n) + 20) 12 false
    | none => trace s 2 26
  let s1 := if kill then j.ctxs.foldl (fun s x => if (ctxAt s x.1 x.2).st = .idle then s else killCtx s x.1 x.2) s0 else s0
  let s2 := { s1 with hif := { s1.hif with jobs := s1.hif.jobs.filter fun x => !sameJob x j } }
  match j.origin with
  | .command f n i => completeCmd s2 f n i status res
  | .frame _ => s2

/-! ### Cancel of a job (R355) -/

/-- The core is out of service (R613, R616). -/
def coreGone (s : State) (c : Nat) : Bool :=
  sparLost s (sparOf c) || match physOf s c with
    | none => true
    | some p => (getPhys s p).out.isSome

/-- AON cycle at which it left service. -/
def goneSince (s : State) (c : Nat) : Nat := match physOf s c with | none => 0 | some p => (getPhys s p).outSince

/-- The fence of cancel `serial` at core `c` is reached (R354), or counts as reached RESP_TIMEOUT after the core left service
(R616). -/
def fenceReached (s : State) (serial c : Nat) : Bool :=
  if coreGone s c then decide (s.aon ≥ goneSince s c + respTime (getCore s c))
  else match (getCore s c).dma.cancel with
    | some x => x.serial != serial
    | none => true

def jobMask (j : Job) (c : Nat) : Nat := ((List.range 8).filter fun n => j.ctxs.contains (c, n)).foldl (fun a n => a + 2 ^ n) 0

def putJob (s : State) (j : Job) : State :=
  { s with hif := { s.hif with jobs := s.hif.jobs.map fun x => if sameJob x j then j else x } }

/-- The control cores of the cluster still to accept take the cancel, unless an earlier one of another job is under way there. -/
def pushCancel (s : State) (j : Job) : State :=
  match j.cancel with
  | none => s
  | some k =>
    let r := k.todo.foldl (fun (a : State × List Nat × List Nat) c =>
      if coreGone a.1 c then (a.1, a.2.1, a.2.2 ++ [c])
      else if (getCore a.1 c).dma.cancel.isSome then (a.1, a.2.1 ++ [c], a.2.2)
      else (acceptCancel a.1 c (jobMask j c) (Config.cancelTag k.serial).toNat k.serial, a.2.1, a.2.2 ++ [c])) (s, [], k.fences)
    putJob r.1 { j with cancel := some { k with todo := r.2.1, fences := r.2.2 } }

/-- The job's fence token is held (R355). -/
def jobFenced (s : State) (j : Job) : Bool :=
  match j.cancel with
  | some k => k.todo.isEmpty && k.fences.all (fenceReached s k.serial)
  | none => false

/-- The ledger of the job's counter lies in a channel that serves nothing now (R415). -/
def ledgerWaits (s : State) (j : Job) : Bool :=
  match j.counter with
  | some n => rangeWaits s (ledgerBase (getCtr s n)) (ledgerSize s (ledgerBase (getCtr s n)))
  | none => false

/-- STATUS JOB_FAULTED (R489). -/
def csJobFaulted : Nat := 0x47

/-- With the fence token held the ledger is frozen (R308) and the job ends. -/
def settleJob (s : State) (j : Job) : State :=
  if jobFenced s j && !ledgerWaits s j then
    let s1 := match j.counter with | some n => cancelLedger s n | none => s
    endJob s1 ((s1.hif.jobs.find? fun x => sameJob x j).getD j) j.endStatus (j.endStatus == csJobFaulted)
  else s

/-! ### Function-level resets (R511) -/

def advPhys (s : State) (p : Nat) : State := setPhys s p { getPhys s p with expected := (getPhys s p).expected + 1 }
def advCore (s : State) (c : Nat) : State := match physOf s c with | some p => advPhys s p | none => s

/-- Cores of a partition's clusters. -/
def partCores (s : State) (p : Nat) : List Nat :=
  ((List.range 16).filter fun cl => (getPart s p).clusters.getLsbD cl).flatMap coresOfCluster

/-- Kill every context of a core that is not IDLE. -/
def killAll (s : State) (c : Nat) : State :=
  (List.range 8).foldl (fun s n => if (ctxAt s c n).st = .idle then s else killCtx s c n) s

/-- The fences of a partition's jobs are reached: its function-level reset kills the contexts of its cores and advances their epochs. -/
def settleFlr (s : State) (p : Nat) : State :=
  if s.hif.jobs.any fun j => j.part == p then s
  else (partCores s p).foldl (fun s c => advCore (killAll s c) c) { s with hif := { s.hif with flrs := s.hif.flrs.filter (· != p) } }

/-- Carry every cancel and function-level reset on as far as the fences allow. -/
def settleJobs (s : State) : State :=
  let s1 := s.hif.jobs.foldl settleJob s
  let s2 := s1.hif.jobs.foldl pushCancel s1
  let s3 := s2.hif.jobs.foldl settleJob s2
  s3.hif.flrs.foldl settleFlr s3

/-! ### Control frames: payload byte 0 selects, by the place of the name in R436 -/

def ccAttach : Nat := 0
def ccMack : Nat := 1
def ccDetach : Nat := 2
def ccRepairReq : Nat := 3
def ccRepairNak : Nat := 4
def ccRejoin : Nat := 5
def ccBegin : Nat := 6
def ccAbort : Nat := 7
def ccEnd : Nat := 8
def ccJoin : Nat := 9
def ccAccept : Nat := 10
def ccRefuse : Nat := 11
def ccHeartbeat : Nat := 12
def ccLaunch : Nat := 13
def ccLaunchAck : Nat := 14
def ccSchedule : Nat := 15
def ccTelemetry : Nat := 16
def ccRemove : Nat := 17

/-- Send a control frame of partition `p` to `module` at class C1 (R513). -/
def sendCtl (s : State) (ty p module code : Nat) (body : List Byte) : State :=
  sendFrame s (mkFrame s ty 1 p p module 0 0 (Config.ctlCode code :: body))

/-- The frame is the control frame `code` of type `ty`. -/
def isCtl (f : Frame) (ty code : Nat) : Bool := f.type.toNat == ty && f.payload.headD 0 == Config.ctlCode code

/-! ### Epochs -/

def setEpoch (s : State) (p : Nat) (x : EpochSt) : State := { s with fab := { s.fab with epochs := Tab.set s.fab.epochs p x } }
/-- The epoch changes, and EPOCH_STATE is passed (R547). -/
def moveEpoch (s : State) (p : Nat) (x : EpochSt) : State := setEpoch (trace s 2 45) p x

/-- Partition `p` leaves its open epoch for the case `cause` of R459: ABORT goes to every member. -/
def leaveEpoch (s : State) (p cause : Nat) : State :=
  match epochOf s p with
  | .opened e ms =>
    let s1 := moveEpoch s p (.aborted e)
    let s2 := (ms.filter fun m => m != ownModule s).foldl (fun s m => sendCtl s ftEpochCtl p m ccAbort (leBytes 4 e)) s1
    raise s2 0x0614 0 (some p) ukNone 0 (e + cause * 2 ^ 32) 0
  | _ => s

/-! ### Cancelling jobs -/

/-- The jobs that `p` holds of are cancelled with one TAG, their records to read `status`. -/
def markCancelled (s : State) (status : Nat) (p : Job → Bool) : State :=
  s.hif.jobs.foldl (fun s (j : Job) =>
    if p j && j.cancel.isNone then
      putJob s { j with endStatus := status, cancel := some { serial := s.hif.nextTag, todo := dedup (j.ctxs.map (·.1)), fences := [] } }
    else s) s

/-- A job of partition `q` is cancelled: an open epoch of it is aborted, with its other jobs (R459, second case). -/
def cancelEpoch (s : State) (q : Nat) : State :=
  match epochOf s q with
  | .opened _ _ => markCancelled (leaveEpoch s q 2) stCancelled fun j => j.part == q
  | _ => s

/-- Cancel the jobs that `p` holds of. -/
def cancelJobs (s : State) (status : Nat) (p : Job → Bool) : State :=
  let parts := dedup ((s.hif.jobs.filter fun j => p j && j.cancel.isNone).map (·.part))
  let s1 := parts.foldl cancelEpoch (markCancelled s status p)
  settleJobs { s1 with hif := { s1.hif with nextTag := s1.hif.nextTag + 1 } }

/-- CANCEL_FENCE: a core reaches the fence of its cancel, and the jobs that wait for it go on (R354, R355). -/
def execCancelFence (c : Nat) (s : State) : Out :=
  onCore c <|
    match fenceStep s c with
    | some s1 => .next (settleJobs s1)
    | none => .next s

/-- CORE_FENCE_TIMEOUT: the fence of a core that left service counts as reached (R616). -/
def execCoreFenceTimeout (c : Nat) (s : State) : Out :=
  onCore c <| if coreGone s c then .next (settleJobs s) else .next s

/-! ### Jobs of a core that leaves service (R616) -/

/-- Every job with a context on core `c` is cancelled, and that context counts as FAULTED. -/
def cancelJobsOn (s : State) (c : Nat) : State :=
  let s1 := { s with hif := { s.hif with jobs := s.hif.jobs.map fun j =>
    { j with lost := j.lost + (j.ctxs.filter fun x => x.1 == c && !ctxFaulted s x).length } } }
  cancelJobs s1 csJobFaulted fun j => j.ctxs.any fun x => x.1 == c

/-- The scheduler core cancels the job of the chain's member at core `c`, once no member of the chain is RUNNING any more: each has then
broken and reported it (R362; assumption 131). -/
def cancelChain (s : State) (c : Nat) : State :=
  if (c :: chainOf s c).any fun d => (halOf s d).st == .running then s
  else cancelJobs s stCancelled fun j => j.ctxs.contains (c, halCtx (halOf s c))

def execRelayTimeout (c : Nat) (s : State) : Out :=
  onCore c <| if relayLate s c then .next (cancelChain (breakMember s c) c) else .next s

def execRelayBreakNotice (c : Nat) (s : State) : Out :=
  onCore c <|
    let r := breakNotice s c
    .next (if r.2 then cancelChain r.1 c else r.1)

end Sys2Proof.Machine
end

