-- ==== Sys2Proof/Machine/Epochs.lean ====
section
/-! DEFINITION. Machine/Epochs.lean: collective epochs (R458, R459) and the states of a port (R423, R467). -/

namespace Sys2Proof.Machine

open Sys2Proof

/-- Partition `p` aborts its open epoch for the case `cause` of R459, and its jobs are cancelled. -/
def abortEpoch (s : State) (p cause : Nat) : State :=
  match epochOf s p with
  | .opened _ _ => cancelJobs (leaveEpoch s p cause) stCancelled fun j => j.part == p
  | _ => s

/-- Ports by which frames to `m` may leave. -/
def portsTo (s : State) (m : Nat) : List Nat :=
  let e := (Tab.get 0#16 s.fab.route m).toNat
  let kd := bf e 12 3
  if !e.testBit 15 then []
  else if 1 ≤ kd ∧ kd ≤ 4 then [kd - 1]
  else if kd = 5 then ((List.range 12).filter fun k => e.testBit k).map (4 + ·)
  else []

/-- Every open epoch that uses port `p` is aborted (R459, fourth case). -/
def abortOver (s : State) (p : Nat) : State :=
  (List.range 16).foldl (fun s n => match epochOf s n with
    | .opened _ ms => if ms.any fun m => m != ownModule s && (portsTo s m).contains p then abortEpoch s n 4 else s
    | _ => s) s

/-! ### Port states: in RECOVERY no port leaves DOWN (R536) -/

def portCode : PortSt → Nat
  | .down => 0
  | .training => 1
  | .keying => 2
  | .up => 3
  | .degraded => 4

/-- The port changes its state: PORT_STATE is raised (R612), DOWN and DEGRADED suspend the bounds of the port (R526), and leaving UP
and DEGRADED ends the link session (R559) and, unless it is a width retrain, aborts the epochs that use the port (R459). -/
def setPortSt (s : State) (p : Nat) (st : PortSt) (width : Bool) : State :=
  let x := getPort s p
  if x.st = st ∨ (s.fwc.st = 0 ∧ st ≠ .down) then s
  else
    let leaves := portOpen x && st != .up && st != .degraded
    let x1 : Port := { x with st := st, since := s.aon }
    let x2 := if leaves then { x1 with linkSecret := [], txKey := [], rxKey := [], txSwitch := none, rxSwitch := none, keying := {}
                                       resend := [], txSwapping := none, txSwapAt := none, keyAsked := false
                                       keyBytes := [], keyIn := [], lastPeer := some x.peer.toNat, retuning := false } else x1
    let s1 := raise (setPort s p x2) 0x0610 (if st = .down then 3 else 0) none ukPort p (portCode st) 0
    let s2 := if st = .down ∨ st = .degraded then boundBegin s1 3 ukPort p bndFabric none else s1
    if leaves && !width then abortOver s2 p else s2

/-! ### Rows -/

/-- ABORT: an aborted epoch stays so; an open one is aborted by its first case (R459). -/
def abortNamed (s : State) (p e : Nat) : State :=
  match epochOf s p with
  | .opened e0 _ => if e0 = e then abortEpoch s p 1 else s
  | _ => s

/-- MASTHEAD of the role in force. -/
def masthead (s : State) : Nat := bf s.fab.role.live.toNat 32 15
def isMasthead (s : State) : Bool := bf s.fab.role.live.toNat 16 2 == 1
def roleGroup (s : State) : Nat := bf s.fab.role.live.toNat 24 8
def domainMgr (s : State) : Nat := bf s.fab.role.live.toNat 48 15
def isDomainMgr (s : State) : Bool := s.fab.role.live.getLsbD 18

/-- END of an open epoch by the scheduler core, once no job of the partition runs: NONE, reported to the masthead (R459). -/
def execEpochEnd (p : Nat) (s : State) : Out :=
  if p ≥ 16 then .refused .noSuchUnit
  else match epochOf s p with
  | .opened e _ =>
    if s.hif.jobs.any fun j => j.part == p then .next s
    else .next (sendCtl (moveEpoch s p .none) ftEpochCtl p (masthead s) ccEnd (leBytes 4 e))
  | _ => .next s

end Sys2Proof.Machine
end

