-- ==== Sys2Proof/Machine/Fabric.lean ====
section
/-! DEFINITION. Machine/Fabric.lean: the links of the optical ports (R422 to R435), stay switches and ring hold (R446 to R450, R647),
and the frames received (R436 to R444). -/

namespace Sys2Proof.Machine

open Sys2Proof

/-! ### Sending (R430 to R434, R450) -/

/-- HOLD_IN of the port's ring holds its new C1 to C3 frames (R450). -/
def ringHeld (s : State) (p : Nat) : Bool :=
  decide (p < 4) && Tab.get false s.pins.holdIn (p / 2) && !Tab.get false s.pins.holdStuck (p / 2)

def listSet (l : List Nat) (i v : Nat) : List Nat := l.set i v

/-- Credits of a class that the transmitter holds. -/
def creditsLeft (x : Port) (cls : Nat) : Nat := x.granted.getD cls 0 - x.spent.getD cls 0

/-- Bytes of the retry buffer in use. -/
def keptBytes (x : Port) : Nat := (x.kept.map frameLen).foldl (· + ·) 0

/-- EPOCH of a frame as its partition's state stands when it is sent (R458); tree frames hold their TSEQ there, and control frames, which no
partition sends, zero (assumption 152). -/
def stampEpoch (s : State) (f : Frame) : Frame :=
  if f.srcModule = ownModule s ∧ f.type.toNat < ftTreeData then
    { f with epoch := epochFor s f.srcPart f.dstModule }
  else f

/-- 64-byte hash of the link secret after a rekey (R574). -/
def labelBytes (t : String) : List Byte := t.toList.map fun c => BitVec.ofNat 8 c.toNat
def nextSecret (l : List Byte) : List Byte := Config.shake256 (l ++ labelBytes "REKEY") 64
/-- Key and salt of the direction in which module `m` transmits (R573 step 4). -/
def dirKey (l : List Byte) (m : Nat) : List Byte := Config.shake256 (l ++ labelBytes "LINK-TX" ++ leBytes 2 m) 38

/-- The key and salt that seal the data frame with LSEQ `q`: the new ones from the LSEQ of a named switch on (R430, R574). -/
def sealKey (s : State) (x : Port) (q : Nat) : List Byte :=
  if x.txSwitch.any fun k => decide (k ≤ q) then dirKey x.linkSecret (ownModule s) else x.txKey

/-- The frame of a class that may start, with the class's credits (R434): one that is to be sent again goes before every new one (R432, R449); a
new one is held back by HOLD_IN at C1 to C3 (R450) and by a full retry buffer (R432). -/
def frameToStart (s : State) (p cls : Nat) : Option Frame :=
  let x := getPort s p
  let credited (f : Frame) : Bool := portOpen x && !x.retuning && decide (frameCredits f ≤ creditsLeft x cls)
  match x.resend, Tab.get [] x.queues cls with
  | f :: _, _ => if f.cls = cls ∧ credited f then some f else none
  | [], [] => none
  | [], f0 :: _ =>
    let f := { stampEpoch s f0 with lseq := x.txSeq }
    if credited f ∧ (cls = 0 ∨ !ringHeld s p) ∧ keptBytes x + frameLen f ≤ 0x40000 then some f else none

/-- The requests at the egress arbiter of a port: beats are of 128 bytes (R391, R466). -/
def egressReqs (s : State) (p : Nat) : List ArbReq :=
  (List.range 4).filterMap fun cls => (frameToStart s p cls).map fun f =>
    { cls := cls, input := 0, beats := ceilDiv (frameLen f) 128, stamp := (Tab.get [] (getPort s p).stamps cls).headD s.xclk }

/-- The port after frame `f` has started: a new one takes the next LSEQ and is kept. -/
def frameStarted (s : State) (x : Port) (f : Frame) : Port :=
  let x1 := { x with line := frameBytes (sealKey s x f.lseq) f f.lseq, spent := listSet x.spent f.cls (x.spent.getD f.cls 0 + frameCredits f) }
  match x.resend with
  | _ :: rest => { x1 with resend := rest }
  | [] => { x1 with queues := Tab.set x.queues f.cls ((Tab.get [] x.queues f.cls).drop 1), stamps := Tab.set x.stamps f.cls ((Tab.get [] x.stamps f.cls).drop 1)
                    kept := x.kept ++ [f], txSeq := x.txSeq + 1 }

/-- FRAME_SEND: the frame of a class starts on the port where its egress arbiter takes the class (R391, R466), through its egress queue, whose
backpressure or lack of room holds it back (R396, R397). -/
def execFrameSend (p cls : Nat) (s : State) : Out :=
  onPort p <|
    if cls ≥ 4 then .refused .noSuchUnit
    else match frameToStart s p cls with
    | none => .next s
    | some f =>
      let d := decideAt s 4 p s.xclk (egressReqs s p)
      if d.owner ≠ some (cls, 0, false) ∨ !pathOpen s [queueNo 5 0 p] (frameLen f / 32) then .next s
      else
        let s1 := setPort (enterCdc s (queueNo 5 0 p) (frameLen f / 32)) p (frameStarted s (getPort s p) f)
        .next (putDecision s1 4 p d (egressReqs s1 p).isEmpty)

/-- The switch that the next LCTL frame names: that of a lane goes before that of a key (R433, log entry 142). -/
def laneFirst (x : Port) : Bool := x.sayLaneSwitch.isSome

/-- The 32-byte payload of the port's next LCTL frame (R433). -/
def lctlBytes (x : Port) : List Byte :=
  let ks := x.keyBytes.take 8
  let kind := if laneFirst x then 1 else if x.sayKeySwitch.isSome then 2 else 0
  leBytes 6 x.rxSeq ++ leBytes 1 x.nakDue.toNat ++ leBytes 1 (x.askLane.getD 15)
    ++ (List.range 4).flatMap (fun i => leBytes 2 (x.returned.getD i 0))
    ++ leBytes 6 ((if laneFirst x then x.sayLaneSwitch else x.sayKeySwitch).getD 0) ++ leBytes 1 kind
    ++ leBytes 1 ks.length ++ ks ++ List.replicate (8 - ks.length) 0

/-- The LCTL frame itself: its LSEQ has bit 47 set, it is for the link's peer, and in KEYING an all-zero key and salt seal it (R433, R573, log
entry 142). -/
def lctlFrame (s : State) (x : Port) : List Byte :=
  let f : Frame := { type := 0x0F, flags := noFlags, cls := 0, hops := 0, srcPart := 0, dstPart := 0, srcModule := ownModule s
                     dstModule := x.peer.toNat, addr := 0, readLen := 0, lseq := x.lctlSeq, epoch := 0, xtag := 0, td := []
                     payload := lctlBytes x }
  frameBytes (if x.st = .keying then List.replicate 38 0 else x.txKey) f (2 ^ 47 + x.lctlSeq)

/-- LCTL_SEND: what the port had to say goes out (R433). -/
def execLctlSend (p : Nat) (s : State) : Out :=
  onPort p <|
    let x := getPort s p
    if portOpen x ∨ x.st = .keying then
      .next (setPort s p { x with lctlSeq := x.lctlSeq + 1, lastLctl := s.aon, nakDue := false, askLane := none, sayLaneSwitch := none
                                  txSwapAt := if laneFirst x then x.sayLaneSwitch else x.txSwapAt
                                  sayKeySwitch := if laneFirst x then x.sayKeySwitch else none, keyBytes := x.keyBytes.drop 8
                                  lctlLine := lctlFrame s x })
    else .next s

/-! ### LCTL frames received (R426, R432, R433) -/

/-- Cumulative 16-bit count `c` brought up to date from the full count `g`. -/
def cumul (g c : Nat) : Nat := g + (c + 65536 - g % 65536) % 65536

/-- A NAK for `q`: the kept frames from `q` are sent again; eight in a row for one LSEQ start a retune (R432). -/
def takeNak (s : State) (p q : Nat) : State :=
  let x := getPort s p
  let n := if x.naks.1 = q then x.naks.2 + 1 else 1
  let again := x.kept.filter fun f => decide (f.lseq ≥ q)
  let x1 := { x with retries := satAdd x.retries again.length, resend := again, naks := (q, n % 8), retuning := x.retuning || decide (n ≥ 8) }
  boundBegin (setPort s p x1) 3 ukPort p bndFabric none

/-- This side names the LSEQ of its key switch, and replaces the secret (R574). -/
def nameKeySwitch (x : Port) : Port :=
  let q := x.txSeq + 1024
  { x with txSwitch := some q, sayKeySwitch := some q, linkSecret := nextSecret x.linkSecret }

/-- The peer names the LSEQ of its key switch: that is its answer to a change that this side has started; else this side answers with its own
(R574). -/
def takeKeySwitch (x : Port) (at_ : Nat) : Port :=
  if x.keyAsked then { x with rxSwitch := some at_, keyAsked := false }
  else { nameKeySwitch x with rxSwitch := some at_, rekeyed := true, rekeyedCtl := x.rekeyed }

/-- LCTL: an LCTL frame of the peer; one that fails its check is lost, with its keying bytes (R433, R573, R574). A lane that the peer asks to
replace goes onto the spare of this side (R426). -/
def execLctl (p : Nat) (b : Lctl) (ok : Bool) (s : State) : Out :=
  onPort p <|
    let x := getPort s p
    if !ok ∨ !(portOpen x ∨ x.st = .keying) then .next s
    else
      let free := drawFree s
      let asked := b.lane % 16 < 8
      let x1 := { x with
        kept := x.kept.filter fun f => decide (f.lseq ≥ b.ack)
        resend := x.resend.filter fun f => decide (f.lseq ≥ b.ack)
        keyIn := x.keyIn ++ b.keyBytes.take 8
        txSwapping := if asked then some (b.lane % 16) else x.txSwapping
        granted := (List.range 4).map fun i => cumul (x.granted.getD i 0) (b.cred.getD i 0)
        sayLaneSwitch := if asked then some free.1 else x.sayLaneSwitch
        swapAt := if b.switchKind = 1 then some b.switchAt else x.swapAt }
      let x2 := if b.switchKind = 2 ∧ portOpen x then takeKeySwitch x1 b.switchAt else x1
      let s1 := setPort (if asked then free.2 else s) p x2
      .next (if b.nak ∧ portOpen x then takeNak s1 p b.ack else s1)

/-- RETUNE_END: the port resumes, or goes DOWN (R432). -/
def execRetuneEnd (p : Nat) (ok : Bool) (s : State) : Out :=
  onPort p <|
    let x := getPort s p
    if !x.retuning then .next s
    else
      let s1 := setPort s p { x with retuning := false, naks := (0, 0) }
      .next (if ok then boundBegin s1 3 ukPort p bndFabric none else setPortSt s1 p .down false)

/-! ### Lanes (R426, R427) -/

def spareThresh (x : Port) : Nat := bf x.cfg.toNat 32 16
/-- The wavelength that carries a lane: its own, or the spare, which is wavelength 8. -/
def laneWave (x : Port) (l : Nat) : Nat := if x.spare.toNat = l then 8 else l
/-- Lanes whose wavelength works, lowest first. -/
def workingLanes (x : Port) : List Nat := (List.range 8).filter fun l => !x.bad.contains (laneWave x l)
/-- Lanes that carry data: all eight, or in DEGRADED the four lowest-numbered working ones (R427). -/
def lanesInUse (x : Port) : List Nat := if x.st = .degraded then (workingLanes x).take 4 else List.range 8

/-- LANE_FAILING: a lane in use fails, by its corrected symbols or its lock: the spare replaces it, or, with the spare in use or no good one, the
port retrains to four lanes or goes DOWN. While the replacement of the lane is under way nothing more happens to it (R426, R427). -/
def execLaneFailing (p lane symbols : Nat) (lost : Bool) (s : State) : Out :=
  onPort p <|
    if lane ≥ 8 then .refused .noSuchUnit
    else
      let x := getPort s p
      if !portOpen x ∨ !(symbols > spareThresh x ∨ lost) ∨ !(lanesInUse x).contains lane ∨ x.swapping = some lane then .next s
      else
        let x1 := { x with bad := insertNat (laneWave x lane) x.bad }
        if x.st = .up ∧ x.spare = 0xF ∧ x.swapping = none ∧ !x.bad.contains 8 then
          .next (setPort s p { x1 with swapping := some lane, askLane := some lane })
        else
          let x2 := { x1 with spare := (x.swapping.map (BitVec.ofNat 4)).getD x.spare, swapping := none, swapAt := none, askLane := none }
          let s1 := setPort s p x2
          .next (if (workingLanes x2).length ≥ 4 then setPortSt s1 p .training true else setPortSt s1 p .down false)

/-- LANE_SWITCH: at the named codeword the spare replaces the lane, for what the port receives, whose spare has then locked, or for what it
transmits (R426, R612, log entry 142). -/
def execLaneSwitch (p : Nat) (tx : Bool) (s : State) : Out :=
  onPort p <|
    let x := getPort s p
    match if tx then x.txSwapping else x.swapping, if tx then x.txSwapAt else x.swapAt with
    | some l, some _ =>
      if tx then .next (setPort s p { x with txSpare := BitVec.ofNat 4 l, txSwapping := none, txSwapAt := none })
      else .next (raise (setPort s p { x with spare := BitVec.ofNat 4 l, swapping := none, swapAt := none }) 0x0611 1 none ukPort p l 0)
    | _, _ => .next s

/-- FRAMES_LOST: a port DOWN for 50 ms discards its retry buffer (R428). -/
def execFramesLost (p : Nat) (s : State) : Out :=
  onPort p <|
    let x := getPort s p
    if x.st = .down ∧ s.aon ≥ x.since + 50 * msAon then
      .next (setPort s p { x with framesLost := satAdd x.framesLost x.kept.length, kept := [], resend := [] })
    else .next s

def getStay (s : State) (n : Nat) : Stay := Tab.get {} s.fab.stay n

/-- The stay switch of a ring port is CLOSED: light passes without entering the module (R446). -/
def stayClosed (s : State) (p : Nat) : Bool := decide (p < 4) && (getStay s (p / 2)).st == .closed

/-- LIGHT_CHANGE: the port returns to TRAINING; one that has trained for 5 ms without light is DOWN (R423, R446, R448). -/
def execLightChange (p : Nat) (light : Bool) (s : State) : Out :=
  onPort p <|
    let light := light && !stayClosed s p
    let s1 := setPort s p { getPort s p with light := light }
    match (getPort s p).st with
    | .down => .next (if light && s.fwc.st != 0 && decide (s.fwc.stage ≥ 4) then setPortSt s1 p .training false else s1)
    | .training => .next (if !light ∧ s.aon ≥ (getPort s p).since + 5 * msAon then setPortSt s1 p .down false else s1)
    | _ => .next (setPortSt s1 p .training false)

/-! ### Stay switches (R446 to R448, R647) -/

def setStay (s : State) (n : Nat) (x : Stay) : State := { s with fab := { s.fab with stay := Tab.set s.fab.stay n x } }
def onStay (n : Nat) (k : Out) : Out := if n < 2 then k else .refused .noSuchUnit
def ignoreWrite (s : State) : State := { s with hub := { s.hub with ignoredWr := satAdd s.hub.ignoredWr 1 } }

/-- Both ports of the ring have been DOWN for 50 ms. -/
def ringDown (s : State) (n : Nat) : Bool :=
  [2 * n, 2 * n + 1].all fun p => (getPort s p).st == .down && decide (s.aon ≥ (getPort s p).since + 50 * msAon)

/-- The module is powered, out of reset and commissioned: OPEN may act (R447). -/
def mayOpen (s : State) : Bool := s.pins.modRstN && s.pins.modEn && decide (s.fwc.st.toNat ≥ 2) && !(s.pwr.state == 5)

def startMove (s : State) (n : Nat) (toOpen : Bool) : State := setStay (trace s 0 42) n { st := .moving toOpen s.aon, held := none }

/-- The switch closes, and a held OPEN is discarded (R447, R647). -/
def closeStay (s : State) (n : Nat) : State :=
  match (getStay s n).st with
  | .closed => setStay s n { st := .closed, held := none }
  | .opened => startMove s n false
  | .moving true t => setStay s n { st := .moving true t, held := some false }
  | .moving false t => setStay s n { st := .moving false t, held := none }

/-- A command of OPT_STAY (R647). -/
def stayCommand (s : State) (n : Nat) (toOpen : Bool) : State :=
  if toOpen ∧ !mayOpen s then ignoreWrite s
  else match (getStay s n).st with
  | .moving o t => setStay s n { st := .moving o t, held := some toOpen }
  | .closed => if toOpen then startMove s n true else s
  | .opened => if toOpen then (if ringDown s n then ignoreWrite s else s) else startMove s n false

/-- A write of OPT_STAY takes an open session on its interface (R467, R558); that of the host is logged before it takes effect (R638). -/
def stayWrite (mgmt : Bool) (n : Nat) (toOpen : Bool) (s : State) : Out :=
  onStay n <|
    if !(getSess s (if mgmt then 17 else 0)).opened then .next (ignoreWrite s)
    else if mgmt then .next (stayCommand s n toOpen)
    else logChange s 0x0409 0xFF (openId s 0) (0x300400 + (if toOpen then 1 else 2) * 4 ^ n * 2 ^ 64) fun s => .next (stayCommand s n toOpen)

def execStayOpen (mgmt : Bool) (n : Nat) (s : State) : Out := stayWrite mgmt n true s
def execStayClose (mgmt : Bool) (n : Nat) (s : State) : Out := stayWrite mgmt n false s

def execStayRingDown (n : Nat) (s : State) : Out :=
  onStay n <| match (getStay s n).st with
    | .opened => .next (if ringDown s n then closeStay s n else s)
    | _ => .next s

/-- STAY_MOVE_COMPLETE: the switch stands; a closed one leaves the ring's ports dark; a held command applies (R447, R647, R671). -/
def execStayMoveComplete (n : Nat) (s : State) : Out :=
  onStay n <| match (getStay s n).st with
    | .moving o _ =>
      let held := (getStay s n).held
      let s1 := setStay s n { st := if o then .opened else .closed, held := none }
      let s2 := if o then s1 else [2 * n, 2 * n + 1].foldl (fun s p => setPortSt (setPort s p { getPort s p with light := false }) p .down false) s1
      .next (holdOut (match held with | some b => stayCommand s2 n b | none => s2))
    | _ => .next s

/-! ### Ring hold (R450) -/

def onHold (n : Nat) (k : Out) : Out := if n < 2 then k else .refused .noSuchUnit

def execHoldInAssert (n : Nat) (s : State) : Out :=
  onHold n <|
    if Tab.get false s.pins.holdIn n then .next s
    else .next { s with pins := { s.pins with holdIn := Tab.set s.pins.holdIn n true, holdInSince := Tab.set s.pins.holdInSince n s.aon
                                              holdStuck := Tab.set s.pins.holdStuck n false } }

def execHoldInDeassert (n : Nat) (s : State) : Out :=
  onHold n <| .next { s with pins := { s.pins with holdIn := Tab.set s.pins.holdIn n false, holdStuck := Tab.set s.pins.holdStuck n false } }

def execHoldStuck (n : Nat) (s : State) : Out :=
  onHold n <|
    if Tab.get false s.pins.holdIn n ∧ !Tab.get false s.pins.holdStuck n ∧ s.aon > Tab.get 0 s.pins.holdInSince n + 100 * usAon then
      .next { s with pins := { s.pins with holdStuck := Tab.set s.pins.holdStuck n true }
                     fab := { s.fab with holdStuck := satAdd s.fab.holdStuck 1 } }
    else .next s

/-! ### Receiving (R431, R434, R437, R439, R442, R458) -/

/-- The frame leaves the receive queue: its credits return. -/
def returnCredits (x : Port) (f : Frame) : Port :=
  { x with returned := listSet x.returned f.cls (x.returned.getD f.cls 0 + frameCredits f) }

/-- CUT of a fabric receive queue, in entries of 32 bytes (R403). -/
def rxCut : Nat := 8

/-- The way of a frame to this module: a port, or 16 for one that the module has sent to itself (R437). -/
def ownWay : Nat := 16
def onWay (rx : Rx) (k : Out) : Out := if decide (rx.port ≤ ownWay) && rx.frame.fits then k else .refused .noSuchUnit

/-- A frame enters the port's receive queue (R396, R397), whose last entry carries the result of the link check of R431 (R399): a frame that passes goes on to `k`; one that fails is discarded with a NAK, and its
uncorrectable codewords count in FEC_UE (R425); a stomped one is discarded without a NAK. Of one that is longer than CUT entries, `early` has
happened before its check failed (R435). -/
def linkIn (rx : Rx) (s0 : State) (early : State → State) (k : State → Out) : Out :=
  onWay rx <|
    let x := getPort s0 rx.port
    if rx.port = ownWay then
      if s0.fab.loop.head? = some rx.frame then k { s0 with fab := { s0.fab with loop := s0.fab.loop.drop 1 } } else .next s0
    else if !portOpen x || !cdcRoom (queueKind (queueNo 4 0 rx.port)) (frameLen rx.frame / 32) (getCdc s0 (queueNo 4 0 rx.port)) then .next s0
    else
      let s := enterCdc s0 (queueNo 4 0 rx.port) (frameLen rx.frame / 32)
      let y := returnCredits x rx.frame
      let good : Bool := rx.crcOk && rx.tagOk && rx.fec == 0 && rx.frame.lseq == x.rxSeq
      let cut (s : State) : State := if frameLen rx.frame > rxCut * 32 then early s else s
      if good && !rx.stomp then k (setPort s rx.port { y with rxSeq := x.rxSeq + 1 })
      else if good then .next (cut (setPort s rx.port { y with rxSeq := x.rxSeq + 1, stomped := satAdd x.stomped 1 }))
      else .next (cut (boundBegin (setPort s rx.port { y with nakDue := true, fecUe := satAdd x.fecUe rx.fec }) 3 ukPort rx.port bndFabric none))

/-- The frame is for this module (R437). -/
def isLocal (s : State) (f : Frame) : Bool := !f.flags.mcast && f.dstModule == ownModule s

/-- A discarded frame counts in UNROUTABLE and is answered UNREACHABLE (R439). -/
def unreachable (s : State) (f : Frame) : State := nresp (countUnroutable s) f 1

/-- Types of R436. -/
def knownType (f : Frame) : Bool := decide (1 ≤ f.type.toNat) && decide (f.type.toNat ≤ 9)

/-- Forward a frame by the route table (R437, R439). -/
def forward (s : State) (p : Nat) (f : Frame) : State :=
  if !knownType f then countUnroutable s
  else match routePort s f with
  | none => unreachable s f
  | some q => if f.hops = 0 ∨ (p < 4 ∧ q = p) then unreachable s f else queueFrame s q { f with hops := f.hops - 1 }

/-- The copy of a frame that was being forwarded when its link check failed ends with STOMP (R435). -/
def forwardStomped (s : State) (p : Nat) (f : Frame) : State :=
  match routePort s f with
  | some q =>
    if !knownType f ∨ f.hops = 0 ∨ (p < 4 ∧ q = p) then s else queueFrame s q { f with hops := f.hops - 1, stomp := true }
  | none => s

/-- The epoch of a frame is that of its destination partition, or it carries none (R458). -/
def epochOk (s : State) (f : Frame) : Bool :=
  f.epoch == 0 || match epochOf s f.dstPart with
    | .opened e _ => e == f.epoch
    | _ => false

def countEpochDrop (s : State) : State := { s with fab := { s.fab with epochDrop := satAdd s.fab.epochDrop 1 } }
def countFabDrop (s : State) : State := { s with fab := { s.fab with xpartDrop := satAdd s.fab.xpartDrop 1 } }

/-- The checks of R458 and R442 on a range of `n` bytes from `a`: the NRESP cause of the first that fails. -/
def frameRefused (s : State) (f : Frame) (a n : Nat) : Option Nat :=
  if !epochOk s f then some 4
  else if !((getPart s f.dstPart).peers.contains (f.srcModule, f.srcPart)) then some 2
  else if spaceOf a n = .hbm ∧ regionsOk s (some f.dstPart) a n then none
  else some 3

/-- A refused frame is counted and answered (R442, R458). -/
def refuseFrame (s : State) (f : Frame) (cause : Nat) : State :=
  nresp (if cause = 4 then countEpochDrop s else countFabDrop s) f cause

/-- A control frame that no row takes: END of a member's epoch, which the masthead keeps, and REMOVE, after which a worker of the masthead is
IDLE (R459, R461, assumption 153). -/
def isNotice (f : Frame) : Bool := isCtl f ftEpochCtl ccEnd || isCtl f ftGroupCtl ccRemove
def takeNotice (s : State) (f : Frame) : State :=
  let g := s.fab.group
  if isCtl f ftEpochCtl ccEnd then
    if isMasthead s then { s with fab := { s.fab with group := { g with said := g.said ++ [.epochEnded f.srcModule f.srcPart (fieldAt f.payload 1 4)] } } }
    else s
  else if !isMasthead s && f.srcModule == masthead s then { s with fab := { s.fab with group := { g with gstate := 0, index := 0 } } }
  else s

/-- FRAME_FORWARD: a frame for another module, of a type that is none, or that no other row takes (R436, R437, R439). -/
def execFrameForward (rx : Rx) (s : State) : Out :=
  onWay rx <|
    if rx.frame.flags.mcast then
      if rx.frame.type.toNat = ftTreeData then .next s else linkIn rx s id fun s => .next (countUnroutable s)
    else if isLocal s rx.frame then
      if isNotice rx.frame then linkIn rx s id fun s => .next (if epochOk s rx.frame then takeNotice s rx.frame else refuseFrame s rx.frame 4)
      else if knownType rx.frame then .next s
      else linkIn rx s id fun s => .next (countUnroutable s)
    else linkIn rx s (fun s => forwardStomped s rx.port rx.frame) fun s => .next (forward s rx.port { rx.frame with stomp := false })

/-- A frame of type `ty` for this module, after the link check. -/
def localIn (ty : Nat) (rx : Rx) (s : State) (k : State → Frame → Out) : Out :=
  onWay rx <| if isLocal s rx.frame && rx.frame.type.toNat == ty then linkIn rx s id fun s => k s rx.frame else .next s

/-- A control frame `code` of type `ty` for this module, after its link check and, but for a tree's, the check of its EPOCH (R458). -/
def ctlIn (ty code : Nat) (rx : Rx) (s : State) (k : State → Frame → State) : Out :=
  onWay rx <|
    if isCtl rx.frame ty code then
      localIn ty rx s fun s f => .next (if ty = ftTreeCtl ∨ epochOk s f then k s f else refuseFrame s f 4)
    else .next s

/-- Tokens that a received frame takes on its way to the ranges `rs`: one for each packet of at most 128 bytes at class C0 (R517). -/
def rxNeed (f : Frame) (rs : List (Nat × Nat)) : Nat := if f.cls = 0 then max 1 (sumNat (rs.map fun r => ceilDiv r.2 128)) else 0

/-- Pacer of the receive path into the spar die of the ranges: 1 or 2 of the hub's. -/
def rxPath (s : State) (rs : List (Nat × Nat)) : Nat := 1 + (hbmMap s ((rs.map (·.1)).headD 0)).1 / 4

/-- A frame that needs `need` tokens and holds `got` takes the one that the pacer of path `i` holds, if it still needs it. -/
def rxTake (s : State) (i need got : Nat) : Nat × State :=
  if got < need && Tab.get true s.hub.pacer i then (got + 1, { s with hub := { s.hub with pacer := Tab.set s.hub.pacer i false } }) else (got, s)

/-! #### WRITE and tensor transfers (R443) -/

def findTransfer (s : State) (f : Frame) : Option Transfer :=
  s.fab.transfers.find? fun t => t.src == f.srcModule && t.xtag == f.xtag

def dropTransfer (s : State) (f : Frame) : State :=
  { s with fab := { s.fab with transfers := s.fab.transfers.filter fun t => !(t.src == f.srcModule && t.xtag == f.xtag) } }

def putTransfer (s : State) (t : Transfer) : State :=
  { s with fab := { s.fab with transfers := (s.fab.transfers.filter fun u => !(u.src == t.src && u.xtag == t.xtag)) ++ [t] } }

/-- The bytes that a WRITE stores at its address: the header of the TD, VALID zero, before the payload. -/
def writeBytes (f : Frame) : List Byte := (if f.flags.td then f.td.take 63 ++ [0] else []) ++ f.payload

/-- The byte VALID of a tensor whose header is at `a` is written; the word that holds it is read and merged (R412). -/
def setValid (s : State) (a : Nat) (ecc : EccHits) : State := devWrite (hbmEcc s (accessHits (a + 63) 1 true ecc)) (a + 63) [0xA5]

/-- A WRITE is performed: its bytes are stored, with what the check of words written in part finds, its transfer goes on, and END completes
a whole one with VALID (R412, R443). -/
def performWrite (s : State) (f : Frame) (ecc : EccHits) : State :=
  let bs := writeBytes f
  let s1 := devWrite (hbmEcc s (accessHits f.addr bs.length true ecc)) f.addr bs
  if f.flags.td then
    let t : Transfer := { src := f.srcModule, xtag := f.xtag, addr := f.addr, next := f.addr + bs.length }
    if f.flags.last then setValid (dropTransfer s1 f) f.addr ecc else putTransfer s1 t
  else match findTransfer s1 f with
  | none => s1
  | some t =>
    let whole := t.whole && decide (f.addr ≤ t.next)
    let t1 := { t with whole := whole, next := max t.next (f.addr + bs.length) }
    if f.flags.last then
      let s2 := dropTransfer s1 f
      if whole then setValid s2 t.addr ecc else s2
    else putTransfer s1 t1

/-- A transfer that loses a frame stays absent. -/
def breakTransfer (s : State) (f : Frame) : State :=
  match findTransfer s f with
  | some t => putTransfer s { t with whole := false }
  | none => s

/-- A request that waits is a frame of the same source as `f`. -/
def fromSource (f : Frame) : HbmReq → Bool
  | .frame g _ _ _ => g.srcModule == f.srcModule && g.srcPart == f.srcPart
  | .access _ _ _ _ | .bar2Read _ _ _ => false

/-- A frame that has passed its checks acts on the ranges `rs` of HBM: it waits while a channel of them serves nothing, an earlier frame of
its source waits or its packets lack C0 tokens, and is lost in a failed channel (R415, R443, R517, R616). `got` are the tokens of one that has
waited; one that has just arrived and has to wait for tokens is reported (R526 cause 7). -/
def frameWhen (s : State) (f : Frame) (tree : Option Nat) (ecc : EccHits) (got : Option Nat) (rs : List (Nat × Nat)) (k : State → State) : State :=
  let i := rxPath s rs
  let need := rxNeed f rs
  let t := rxTake s i need (got.getD 0)
  let short := decide (t.1 < need)
  let s1 := if short && got.isNone then boundOccur t.2 7 ukNone (256 + i) bndFabric (some f.dstPart) else t.2
  if short || rs.any (fun r => rangeWaits s r.1 r.2) || s.hbm.waiting.any (fromSource f) then
    { s1 with hbm := { s1.hbm with waiting := s1.hbm.waiting ++ [.frame f tree ecc t.1] } }
  else if rs.any fun r => rangeFailed s r.1 r.2 then s1 else k s1

/-- The ranges that a WRITE stores to: its own, and with END the VALID of its transfer. -/
def storeRanges (s : State) (f : Frame) : List (Nat × Nat) :=
  (f.addr, (writeBytes f).length) :: match findTransfer s f with
  | some t => if f.flags.last then [(t.addr + 63, 1)] else []
  | none => []

def writeIn (s : State) (f : Frame) (ecc : EccHits) (got : Option Nat) : State :=
  frameWhen s f none ecc got (storeRanges s f) fun s => respond (performWrite s f ecc) f ftWack []

def readIn (s : State) (f : Frame) (ecc : EccHits) (got : Option Nat) : State :=
  let n := f.readLen + 1
  frameWhen s f none ecc got [(f.addr, n)] fun s => respond (hbmEcc s (accessHits f.addr n false ecc)) f ftRdata (devRead s f.addr n)

def execWrite (rx : Rx) (s : State) : Out :=
  localIn ftWrite rx s fun s f =>
    match frameRefused s f f.addr (writeBytes f).length with
    | some c => .next (refuseFrame (breakTransfer s f) f c)
    | none => .next (writeIn s f rx.ecc none)

def execRead (rx : Rx) (s : State) : Out :=
  localIn ftRead rx s fun s f =>
    match frameRefused s f f.addr (f.readLen + 1) with
    | some c => .next (refuseFrame s f c)
    | none => .next (readIn s f rx.ecc none)

/-! #### Responses (R436, R442, R458, R459) -/

/-- A response, unless its epoch is over, which is answered as every such frame is (R458). -/
def responseIn (ty : Nat) (rx : Rx) (s : State) (k : State → Frame → State) : Out :=
  localIn ty rx s fun s f => .next (if epochOk s f then k s f else refuseFrame s f 4)

def execWack (rx : Rx) (s : State) : Out := responseIn ftWack rx s fun s f => answerTxn s f.xtag f.srcModule stOk none
def execRdata (rx : Rx) (s : State) : Out := responseIn ftRdata rx s fun s f => answerTxn s f.xtag f.srcModule stOk (some f.payload)

/-- NRESP comes from the destination, or for UNREACHABLE from the module that could not pass the request on; the latter aborts the
epoch of the request (R459, third case). -/
def execNresp (rx : Rx) (s : State) : Out :=
  responseIn ftNresp rx s fun s f =>
    let cause := (f.payload.headD 0).toNat
    match s.fab.txns.find? fun (t : Txn) => t.xtag == f.xtag && (t.module == f.srcModule || cause == 1) with
    | none => answerTxn s f.xtag f.srcModule stOk none
    | some t =>
      let s1 := answerTxn s f.xtag t.module (nrespStatus cause) none
      if cause = 1 then
        match epochOf s1 t.srcPart with
        | .opened _ ms => if ms.contains t.module then abortEpoch s1 t.srcPart 3 else s1
        | _ => s1
      else s1

/-! #### EPOCH_CTL (R458, R459) -/

/-- Two-byte ids of a list. -/
def ids16 (b : List Byte) : List Nat := (List.range (b.length / 2)).map fun i => fieldAt b (2 * i) 2

def execEpochBegin (rx : Rx) (s : State) : Out :=
  ctlIn ftEpochCtl ccBegin rx s fun s f =>
    let e := fieldAt f.payload 1 4
    let ms := ids16 (f.payload.drop 5)
    if f.srcModule ≠ masthead s ∨ e = 0 then s
    else match epochOf s f.dstPart with
    | .aborted e0 => if e0 = e then s else moveEpoch s f.dstPart (.opened e ms)
    | .opened e0 old => moveEpoch s f.dstPart (.opened e (if e0 = e then dedup (old ++ ms) else ms))
    | .none => moveEpoch s f.dstPart (.opened e ms)

def execEpochAbort (rx : Rx) (s : State) : Out :=
  ctlIn ftEpochCtl ccAbort rx s fun s f => abortNamed s f.dstPart (fieldAt f.payload 1 4)

end Sys2Proof.Machine
end

