-- ==== Sys2Proof/Machine/Trees.lean ====
section
/-! DEFINITION. Machine/Trees.lean: multicast trees at receivers, forwarders and the root (R451 to R457). Control frames carry the
TSEQ in EPOCH and the tree id in payload bytes 2 and 3. -/

namespace Sys2Proof.Machine

open Sys2Proof

/-- Number of the entry of tree `id` with a role that `p` holds of. -/
def treeOf (s : State) (id : Nat) (p : Nat → Bool) : Option Nat :=
  (List.range 64).find? fun n => let t := getTree s n; treeRole t != 0 && treeId t == id && p (treeRole t)

/-- Send a control frame of the entry's tree. -/
def sendTreeCtl (s : State) (t : Tree) (module part code tseq : Nat) : State :=
  let f := mkFrame s ftTreeCtl (treeClass t) (treePart t) part module 0 0 ([Config.ctlCode code, 0] ++ leBytes 2 (treeId t))
  sendFrame s { f with epoch := tseq % 2 ^ 32 }

/-- A control frame of a tree for this module, and the entry that it names. -/
def treeCtlIn (code : Nat) (root : Bool) (rx : Rx) (s : State) (k : State → Frame → Nat → State) : Out :=
  ctlIn ftTreeCtl code rx s fun s f =>
    match treeOf s (fieldAt f.payload 2 2) fun r => r == (if root then 1 else 2) with
    | some n => k s f n
    | none => s

/-! ### Receivers (R454, R456) -/

/-- Ranges of the delivery buffer that `n` bytes from a stream offset take. -/
def treeRanges (t : Tree) (off n : Nat) : List (Nat × Nat) :=
  let len := max 1 (treeLen t)
  let first := min n (len - off % len)
  [(treeBase t + off % len, first), (treeBase t, n - first)]

/-- Bytes go to the delivery buffer, at their stream offset modulo its length. -/
def deliverTree (s : State) (t : Tree) (off : Nat) (bs : List Byte) : State :=
  let len := max 1 (treeLen t)
  (bs.zipIdx).foldl (fun s (b : Byte × Nat) => devWrite s (treeBase t + (off + b.2) % len) [b.1]) s

/-- Frames between two MACKs. -/
def mackEvery (t : Tree) : Nat := min 16 (max 1 (treeSlack t / 2))

/-- The receiver applies a frame: its bytes, the VALID of a tensor that it ends, and a MACK when one is due (R443, R454). -/
def applyTree (s0 : State) (n : Nat) (f : Frame) (ecc : EccHits) : State :=
  let t := getTree s0 n
  let s := hbmEcc s0 ((treeRanges t f.addr (writeBytes f).length).flatMap fun r => accessHits r.1 r.2 true ecc)
  let s1 := deliverTree s t f.addr (writeBytes f)
  let open_ := if f.flags.td then some f.addr else t.openHdr
  let s2 := match (if f.flags.last then open_ else none) with
    | some a => deliverTree (hbmEcc s1 ((treeRanges t (a + 63) 1).flatMap fun r => accessHits r.1 r.2 true ecc)) t (a + 63) [0xA5]
    | none => s1
  let q := if t.tseq = 0 then f.epoch else t.tseq + 1
  let due : Bool := f.flags.last || decide (t.sinceMack + 1 ≥ mackEvery t)
  let st : BitVec 3 := match t.rejoin with | some r => if q + 1 ≥ r then 1 else t.st | none => t.st
  let t1 := { t with tseq := q, openHdr := if f.flags.last then none else open_, sinceMack := if due then 0 else t.sinceMack + 1, st := st
                     rejoin := if st = 1 then none else t.rejoin }
  let s3 := setTree s2 n t1
  if due then sendTreeCtl s3 t1 (treeRoot t1) (treePart t1) ccMack q else s3

/-- The receiver takes live frames in TSEQ order while attached, from the first that reaches it on, since no message names the TSEQ at which the
root has attached it (R454, assumption 152); and repair frames while it is being repaired (R456). -/
def takesFrame (t : Tree) (f : Frame) : Bool :=
  let live := f.flags.mcast
  let next := f.epoch == (t.tseq + 1) % 2 ^ 32 || (t.tseq == 0 && t.st == 1 && live && f.epoch != 0)
  next && (if t.st = 1 then true
    else if t.st = 2 ∨ t.st = 3 then (match t.rejoin with
      | some r => if live then decide (t.tseq + 1 ≥ r) else decide (t.tseq + 1 < r)
      | none => !live)
    else false)

/-- A frame that has passed its checks, once the channels of the buffer serve it. -/
def treeIn (s : State) (n : Nat) (f : Frame) (ecc : EccHits) (got : Option Nat) : State :=
  let t := getTree s n
  frameWhen s f (some n) ecc got (treeRanges t f.addr (writeBytes f).length) fun s => if takesFrame t f then applyTree s n f ecc else s

/-- A frame at a receiver: the checks of R442 come first. -/
def receiveTree (s : State) (n : Nat) (f : Frame) (ecc : EccHits) : State :=
  let t := getTree s n
  let p := treePart t
  let rs := (treeRanges t f.addr (writeBytes f).length).filter fun r => r.2 != 0
  if !((getPart s p).peers.contains (f.srcModule, f.srcPart)) then nresp (countFabDrop s) f 2
  else if !rs.all (fun r => spaceOf r.1 r.2 == .hbm && regionsOk s (some p) r.1 r.2) then nresp (countFabDrop s) f 3
  else treeIn s n f ecc none

/-- Copies of a live frame go out on every port of OUT_PORTS but the one it came by; with hop count 0 it goes no further, and at a module that
is not one of its receivers it is discarded and answered (R453, R439). -/
def forwardTree (s : State) (n p : Nat) (f : Frame) : State :=
  if f.hops = 0 then (if treeRole (getTree s n) = 2 then s else nresp (countUnroutable s) f 1)
  else (treeOut (getTree s n) (some p)).foldl (fun s q => queueFrame s q { f with hops := f.hops - 1 }) s

/-- The entry by which a live frame of a tree is received or passed on. -/
def passEntry (s : State) (f : Frame) : Option Nat := treeOf s f.dstModule fun r => r == 2 || r == 3

/-- Its copies end with STOMP where its link check fails after they began (R435). -/
def treeStomped (s : State) (p : Nat) (f : Frame) : State :=
  match passEntry s f with
  | some n => if f.hops = 0 then s else forwardTree s n p { f with stomp := true }
  | none => s

def execTreeData (rx : Rx) (s : State) : Out :=
  let f := rx.frame
  onWay rx <|
    if f.type.toNat ≠ ftTreeData then .next s
    else if f.flags.mcast then
      linkIn rx s (fun s => treeStomped s rx.port f) fun s =>
        match passEntry s f with
        | none => .next (countUnroutable s)
        | some n =>
          let s1 := forwardTree s n rx.port { f with stomp := false }
          .next (if treeRole (getTree s n) = 2 then receiveTree s1 n f rx.ecc else s1)
    else
      localIn ftTreeData rx s fun s f =>
        match treeOf s f.xtag fun r => r == 2 with
        | none => .next (countUnroutable s)
        | some n => .next (receiveTree s n f rx.ecc)

/-- A detached receiver asks for its first missing TSEQ (R456). -/
def askRepair (s : State) (n : Nat) : State :=
  let t := { getTree s n with st := 2, rejoin := none }
  sendTreeCtl (setTree s n t) t (treeRoot t) (treePart t) ccRepairReq (t.tseq + 1)

def execDetach (rx : Rx) (s : State) : Out :=
  treeCtlIn ccDetach false rx s fun s _ n => if (getTree s n).st = 1 then askRepair s n else s

/-- REJOIN names TSEQ `r`: a receiver that has every frame below it is attached again (R456). -/
def execRejoin (rx : Rx) (s : State) : Out :=
  treeCtlIn ccRejoin false rx s fun s f n =>
    let t := getTree s n
    if t.st = 2 ∨ t.st = 3 then
      if t.tseq + 1 ≥ f.epoch then setTree s n { t with st := 1, rejoin := none } else setTree s n { t with st := 3, rejoin := some f.epoch }
    else s

/-- REPAIR_NAK: the entry enters FAILED and REJOIN_FAILED is raised to the host, and reported to the masthead (R456, R612, assumption 153). -/
def execRepairNak (rx : Rx) (s : State) : Out :=
  treeCtlIn ccRepairNak false rx s fun s _ n =>
    let t := getTree s n
    if t.st = 2 ∨ t.st = 3 then
      let s1 := raise (setTree s n { t with st := 4, rejoin := none }) 0x0613 0 (some (treePart t)) ukTree n ((t.tseq + 1) % 2 ^ 32) 0
      { s1 with fab := { s1.fab with group := { s1.fab.group with said := s1.fab.group.said ++ [.rejoinFailed n ((t.tseq + 1) % 2 ^ 32)] } } }
    else s

/-! ### The root (R454 to R457) -/

/-- Next TSEQ that the root sends; TSEQs count from 1. -/
def rootNext (t : Tree) : Nat := max 1 t.tseq

def execAttach (rx : Rx) (s : State) : Out :=
  treeCtlIn ccAttach true rx s fun s f n =>
    let t := getTree s n
    if t.attached.length ≥ 255 ∨ t.attached.any (fun (a : Attached) => a.module == f.srcModule) then s
    else setTree s n { t with attached := t.attached ++ [{ module := f.srcModule, part := f.srcPart, from_ := rootNext t, mack := rootNext t - 1 }] }

def execMack (rx : Rx) (s : State) : Out :=
  treeCtlIn ccMack true rx s fun s f n =>
    let t := getTree s n
    pumpTreeAll (setTree s n { t with attached := t.attached.map fun a =>
      if a.module = f.srcModule then { a with mack := max a.mack f.epoch } else a }) n

/-- The root detaches a receiver and tells it its first missing TSEQ (R455). -/
def detachOne (s : State) (n : Nat) (a : Attached) : State :=
  let t := getTree s n
  let s1 := setTree (trace s 2 44) n { t with attached := t.attached.filter fun (b : Attached) => b.module != a.module }
  sendTreeCtl { s1 with fab := { s1.fab with detached := satAdd s1.fab.detached 1 } } t a.module a.part ccDetach (a.mack + 1)

/-- DETACH_WAIT_EXPIRY: held for DETACH_WAIT, the root detaches the laggards and goes on (R455). -/
def execDetachWaitExpiry (n : Nat) (s : State) : Out :=
  if n ≥ 64 then .refused .noSuchUnit
  else
    let t := getTree s n
    match t.heldSince, t.waiting with
    | some a, x :: _ =>
      if treeRole t = 1 ∧ s.aon ≥ a + treeWait t * usAon then
        let slow := t.attached.filter fun (b : Attached) => decide (x.tseq > b.mack + treeSlack t)
        .next (pumpTreeAll (slow.foldl (fun s b => detachOne s n b) s) n)
      else .next s
    | _, _ => .next s

/-- REPAIR_REQ: the missing frames go by unicast, the receiver is attached again and REJOIN names where; a frame that is gone from
the window is answered REPAIR_NAK (R456). -/
def execRepairReq (rx : Rx) (s : State) : Out :=
  treeCtlIn ccRepairReq true rx s fun s f n =>
    let t := getTree s n
    let q := f.epoch
    let r := rootNext t
    let missing := (keepWindow t t.sent).filter fun (x : TreeFrame) => decide (x.tseq ≥ q)
    if t.attached.any fun (a : Attached) => a.module == f.srcModule then s
    else if rangeWaits s (treeBase t) 0x4000000 then s
    else if q ≥ r ∨ missing.any (fun (x : TreeFrame) => x.tseq == q) then
      let route (s : State) (x : TreeFrame) : State := sendFrame s (treeFrame s t x false f.srcModule f.srcPart)
      let s0 := missing.foldl (fun s x => touchRing s (treeBase t) 0x4000000 x.off (x.head.length + x.data.length) false) s
      let s1 := missing.foldl route s0
      let s2 := setTree s1 n { t with attached := t.attached ++ [{ module := f.srcModule, part := f.srcPart, from_ := r, mack := r - 1 }] }
      sendTreeCtl s2 t f.srcModule f.srcPart ccRejoin r
    else sendTreeCtl s t f.srcModule f.srcPart ccRepairNak q

/-! ### Requests that waited for their channel (R415 to R418) -/

def serveReq (s : State) : HbmReq → State
  | .access a d n ecc => hbmAccess s a d n ecc
  | .bar2Read a n ecc => bar2Read s a n ecc
  | .frame f (some n) ecc got => treeIn s n f ecc (some got)
  | .frame f none ecc got => if f.type.toNat = ftRead then readIn s f ecc (some got) else writeIn s f ecc (some got)

/-- The channels serve, in their order, the requests that need wait no longer. -/
def serveHbm (s : State) : State := s.hbm.waiting.foldl serveReq { s with hbm := { s.hbm with waiting := [] } }

/-! ### Pacers (R517): sources 0 to 255 are cores, 256 the command and ring engine, 257 and 258 the fabric receive paths -/

/-- A token of the command and ring engine: the oldest message of a POST that waits for one takes it (R517). -/
def engineToken (s : State) : State :=
  match s.hub.sends.find? fun e => e.ctx == 0x1FE && e.st == .ready with
  | some e => postSend s e.id e.dst
  | none => { s with hub := { s.hub with pacer := Tab.set s.hub.pacer 0 true } }

/-- A token of a receive path: the frames that wait take it, the oldest first (R517). -/
def pathToken (s : State) (i : Nat) : State := serveHbm { s with hub := { s.hub with pacer := Tab.set s.hub.pacer i true } }

/-- NCLK cycles from one gain of a pacer to the next. -/
def pacerNclk : Nat := 2048

/-- The latest gain of a pacer by NCLK cycle `now`, after that at `last`: gains are whole periods apart. -/
def pacerGain (last now : Nat) : Nat := last + (now - last) / pacerNclk * pacerNclk

/-- PACER_TOKEN: a source gains its token, once in 2,048 NCLK cycles: those of its own die; of the ring engine, of spar die 0 (assumption 1). -/
def execPacerToken (src : Nat) (s : State) : Out :=
  if src < 256 then
    let k := getCore s src
    let at_ := pacerGain k.mesh.c0Last (coreNclk s src)
    .next (if at_ = k.mesh.c0Last then s else setCore s src { k with mesh := { k.mesh with c0Token := true, c0Last := at_ } })
  else if src < 259 then
    let i := src - 256
    let last := Tab.get 0 s.hub.pacerLast i
    let at_ := pacerGain last (nclk s (i - 1))
    let s1 := { s with hub := { s.hub with pacerLast := Tab.set s.hub.pacerLast i at_ } }
    .next (if at_ = last then s else if i = 0 then engineToken s1 else pathToken s1 i)
  else .refused .noSuchUnit

/-! ### A port that returns stale (R626) -/

/-- Attachments over port `p` are dropped: receivers reached through it are detached and repair, roots forget theirs. -/
def dropAttachments (s : State) (p : Nat) : State :=
  (List.range 64).foldl (fun s n =>
    let t := getTree s n
    if treeRole t = 2 ∧ t.st = 1 ∧ (portsTo s (treeRoot t)).contains p then askRepair s n
    else if treeRole t = 1 then
      (t.attached.filter fun (a : Attached) => (portsTo s a.module).contains p).foldl (fun s a => detachOne s n a) s
    else s) s

end Sys2Proof.Machine
end

