-- ==== Sys2Proof/Machine/Clock.lean ====
section
/-! DEFINITION. Machine/Clock.lean: time. An idle step is one AON cycle of 20 ns (assumption 1); the ACLK of each spar die counts with it at the
frequency of the reef state (R50, R594), NCLK at its own, and both stand still while the spar dies have no clock. -/

namespace Sys2Proof.Machine

open Sys2Proof

/-- ACLK cycles in one AON cycle of 50 MHz: 2.1, 1.8, 1.4 and 0.9 GHz in Full and reefs 1 to 3, none in bare-pole and standby (R594). -/
def aclkPerAon (st : BitVec 3) : Nat := match st.toNat with
  | 0 => 42 | 1 => 36 | 2 => 28 | 3 => 18 | _ => 0

/-- Boot stage 2 has brought up the spar-die rails (R668). -/
def sparClocked (s : State) : Bool := decide (s.pins.step ≥ 3) && decide (s.fwc.stage ≥ 3)

/-- NCLK cycles in one AON cycle, 1.6 GHz (R49): none in standby (R50). -/
def nclkPerAon (st : BitVec 3) : Nat := if st.toNat < 5 then 32 else 0

/-- Cycles of a clock in one AON cycle: the clocks are unrelated (R49), so that the count may be one less or more than the ratio of
their frequencies; which is a free value. -/
def clkStep (n free : Nat) : Nat := if n = 0 then 0 else n - 1 + free % 3

/-- Entries that the reader of queue `q` takes in one AON cycle (R49, R403): one of 32 bytes in each of its cycles, a fabric queue four (R422).
The cycles are ACLK or SCLK for a core or a control core, NCLK for the mesh, HCLK for an HBM channel, XCLK for the links and the fabric
switch, OCLK for an egress queue, PCLK and MCLK for the rest. -/
def readPerAon (s : State) (q free : Nat) : Nat :=
  let on := sparClocked s
  let st := s.pwr.state
  let aclk := if on then aclkPerAon st else 0
  let mesh := if on then nclkPerAon st else 0
  let rest (n : Nat) : Nat := if st.toNat < 5 then n else 0
  match bf q 12 4, bf q 11 1 with
  | 0, 0 => clkStep mesh free | 0, _ => clkStep aclk free
  | 1, 0 => clkStep mesh free | 1, _ => clkStep (aclk / 2) free
  | 2, 0 => clkStep (rest 30) free | 2, _ => clkStep mesh free
  | 3, 0 => clkStep (rest 40) free | 3, _ => clkStep mesh free
  | 4, _ => 4 * clkStep (rest 40) free
  | 5, _ => 4 * clkStep (rest 31) free
  | 6, 0 => clkStep (rest 20) free | 6, _ => clkStep (rest 40) free
  | 7, 0 => clkStep (rest 40) free | _, _ => clkStep (rest 10) free

/-- The pointers of the queues have crossed and the readers have taken what they could (R396, R397, R400). -/
def drainQueues (s : State) : State :=
  let step (a : State) (p : Nat × Cdc) : State :=
    { a with fresh := a.fresh + 1
             arb := { a.arb with queues := Tab.set a.arb.queues p.1 (cdcPass (queueKind p.1) (readPerAon s p.1 (Config.freeValue a.fresh)) p.2) } }
  holdOut (s.arb.queues.foldl step s)

/-- One AON cycle; each die's ACLK and NCLK count for themselves, and XCLK too. -/
def tick (s0 : State) : State :=
  let s := if s0.arb.queues.isEmpty then s0 else drainQueues s0
  let on := sparClocked s
  let step (n i : Nat) : Nat := clkStep (if on then n else 0) (Config.freeValue (s.fresh + i))
  let n := aclkPerAon s.pwr.state
  let m := nclkPerAon s.pwr.state
  { s with aon := s.aon + 1, fresh := s.fresh + 5
           xclk := s.xclk + clkStep (if s.pwr.state.toNat < 5 ∧ s.pins.step ≥ 3 then 40 else 0) (Config.freeValue (s.fresh + 4))
           aclks := [(0, aclk s 0 + step n 0), (1, aclk s 1 + step n 1)]
           nclks := [(0, nclk s 0 + step m 2), (1, nclk s 1 + step m 3)] }

/-- What an idle step does: an AON cycle passes, events that were held for their millisecond are raised (R526), and channels between two steps of
their retraining serve what waits (R523). -/
def passTime (s : State) : State :=
  let s1 := flushBounds (tick s)
  if s1.hbm.waiting.isEmpty then s1 else serveHbm s1

end Sys2Proof.Machine
end

