-- ==== Sys2Proof/Machine/Flash.lean ====
section
/-! DEFINITION. Machine/Flash.lean: the 128 MiB boot flash: its layout, the bytes of the two-copy items, and firmware images (R531 to R534,
R567). -/

namespace Sys2Proof.Machine

open Sys2Proof

/-! ### Images (R533, R534): an erased byte of flash reads 0xFF -/

def slotMem (s : State) (k : Nat) : Mem := Tab.get [] s.fwc.flash.slots k
def imgAt (m : Mem) (o n : Nat) : Nat := leNum (memReadN 0xFF m o n)
def slotSize : Nat := 63 * 2 ^ 20

/-- TYPE, STATE_MAJOR, OFFSET, LENGTH and DIGEST of component `i`. -/
def compType (m : Mem) (i : Nat) : Nat := imgAt m (8192 + 64 * i) 1
def compMajor (m : Mem) (i : Nat) : Nat := imgAt m (8193 + 64 * i) 1
def compDigest (m : Mem) (i : Nat) : List Byte := memReadN 0xFF m (8208 + 64 * i) 32
def compBytes (m : Mem) (i : Nat) : List Byte := memReadN 0xFF m (imgAt m (8196 + 64 * i) 4) (imgAt m (8200 + 64 * i) 4)

/-- Every component's DIGEST matches its bytes. -/
def digestsOk (m : Mem) : Bool := (List.range 4).all fun i => Config.shake256 (compBytes m i) 32 == compDigest m i

/-- The reserved fields of header and component table are zero; the spec names no treatment of one that is not, and R12 lets none be ignored
(DESIGN CHOICE, assumption 155). -/
def imgReservedOk (m : Mem) : Bool :=
  (memReadN 0xFF m 32 96).all (· == 0) && (List.range 4).all fun i => let o := 8192 + 64 * i
    imgAt m (o + 2) 2 == 0 && imgAt m (o + 12) 4 == 0 && (memReadN 0xFF m (o + 48) 16).all (· == 0)

def layoutOk (m : Mem) : Bool :=
  imgAt m 0 4 == 0x57464B4E && imgAt m 4 2 == 1 && imgAt m 6 2 == 4 && decide (imgAt m 24 8 ≤ slotSize)
    && ([1, 2, 3, 4].all fun t => (List.range 4).any fun i => compType m i == t) && imgReservedOk m

/-- The image of a slot as it runs. -/
def fwImageOf (m : Mem) (slot : Nat) : FwImage :=
  { slot := slot, version := BitVec.ofNat 64 (imgAt m 16 8), svn := imgAt m 12 4
    comps := (List.range 4).foldl (fun t i => Tab.set t (compType m i) (compMajor m i, compDigest m i)) [] }

/-- The two are one image, whatever slots hold it. -/
def sameImage (a b : FwImage) : Bool := decide ({ a with slot := b.slot } = b)

/-- The running image is the committed one (R551). -/
def committedRuns (s : State) : Bool := sameImage (fwImageOf (slotMem s (activeSlot s)) (activeSlot s)) s.fwc.running

/-! ### Bytes of the two-copy items (R532, R567) -/

def zeros (n : Nat) : List Byte := List.replicate n 0

/-- A copy of the boot record: its CRC-32C is over bytes 0 to 27. -/
def bootCopy (c : W32 × Nat) : List Byte :=
  let h := leBytes 4 0x52424B4E ++ leBytes 4 c.1.toNat ++ leBytes 1 c.2 ++ zeros 19
  h ++ leBytes 4 (crc32c h)

/-- A copy of a table: its CRC-32C is over the entries; an entry not in use is zero. -/
def tableCopy (magic count size most : Nat) (es : List Nat) : List Byte :=
  let body := es.flatMap (leBytes size) ++ zeros (size * (most - es.length))
  leBytes 4 magic ++ leBytes 4 count ++ leBytes 4 (crc32c body) ++ zeros 52 ++ body

def rowMapCopy (c : W32 × List W32) : List Byte := tableCopy 0x4D524B4E c.1.toNat 4 4096 (c.2.map (·.toNat))
def repairCopy (c : W32 × List W64) : List Byte := tableCopy 0x50524B4E c.1.toNat 8 8184 (c.2.map (·.toNat))

def fitTo (n : Nat) (l : List Byte) : List Byte := (l ++ zeros n).take n

/-- The 8 KiB of a credential slot. -/
def credSlot (c : Cred) : List Byte :=
  fitTo 8192 (leBytes 1 c.kind.toNat ++ leBytes 1 c.flags.toNat ++ leBytes 1 c.log2Iter.toNat ++ [0] ++ leBytes 4 c.data.length
    ++ fitTo 32 c.salt ++ fitTo 64 c.hash ++ c.data)

/-- A copy of the credential store, with the certificate chain of slots 20 to 23: CRC-32C and MAC are over the slots. -/
def credCopy (chain : List Byte) (c : W32 × Tab Cred) : List Byte :=
  let body := ((List.range 20).flatMap fun k => credSlot (Tab.get {} c.2 k)) ++ fitTo (4 * 8192) chain
  fitTo 8192 (leBytes 4 0x53434B4E ++ leBytes 4 c.1.toNat ++ leBytes 4 (crc32c body) ++ fitTo 32 (Config.kmac256 Config.fuseSecret body)) ++ body

/-! ### Layout (R531) -/

/-- Flash address and size of a copy's range. -/
def copyRange (i : FlashItem) (second : Bool) : Nat × Nat := match i with
  | .bootRecord => (if second then 0x1000 else 0, 0x1000)
  | .rowMap => (if second then 0x20000 else 0x10000, 0x10000)
  | .repairList => (if second then 0x50000 else 0x40000, 0x10000)
  | .credentials => (if second then 0x7F80000 else 0x7F00000, 0x80000)

/-- Flash address of an image slot. -/
def slotBase (k : Nat) : Nat := if k = 0 then 0x100000 else 0x4000000

def pick {α : Type} (x : TwoCopy α) (second : Bool) : Option (W32 × α) := if second then x.copy1 else x.copy0

/-- Bytes of a copy; one that is not valid is read as erased (assumption 143). -/
def copyBytes (s : State) (i : FlashItem) (second : Bool) : List Byte :=
  let f := s.fwc.flash
  let bytes : Option (List Byte) := match i with
    | .bootRecord => (pick f.boot second).map bootCopy
    | .rowMap => (pick f.fieldMap second).map rowMapCopy
    | .repairList => (pick f.repair second).map repairCopy
    | .credentials => (pick f.creds second).map (credCopy s.sec.chain)
  bytes.getD []

/-- The flash byte at an address; other ranges are erased. -/
def flashByte (s : State) (a : Nat) : Byte :=
  let inSlot (k : Nat) : Bool := decide (slotBase k ≤ a) && decide (a < slotBase k + slotSize)
  let copies := [FlashItem.bootRecord, .rowMap, .repairList, .credentials].flatMap fun i => [(i, false), (i, true)]
  if inSlot 0 then memRead 0xFF (slotMem s 0) (a - slotBase 0)
  else if inSlot 1 then memRead 0xFF (slotMem s 1) (a - slotBase 1)
  else match copies.find? fun c => let r := copyRange c.1 c.2; decide (r.1 ≤ a) && decide (a < r.1 + r.2) with
    | some c => (copyBytes s c.1 c.2).getD (a - (copyRange c.1 c.2).1) 0xFF
    | none => 0xFF

end Sys2Proof.Machine
end

