-- ==== Sys2Proof/Machine/Rings.lean ====
section
/-! DEFINITION. Machine/Rings.lean: MSI-X, completion and event queues, polling, fetch, and the start of commands (R471 to R493, R508,
R509, R614, R615). -/

namespace Sys2Proof.Machine

open Sys2Proof

/-! ### Host bus addresses and MSI-X (R47, R508) -/

/-- Device address of a host bus address (R47). -/
def busAddr (b : Nat) : Nat := hostBase + b % 0x8000000000000

def vectorCount (f : Nat) : Nat := if f = 0 then 128 else 120

/-- Function `f` signals vector `v`: its message is written, or its pending bit set while it is masked (R508, R509). -/
def signalVec (s : State) (f v : Nat) : State :=
  let x := getFn s f
  let e := Tab.get {} x.vectors v
  if v ≥ vectorCount f ∨ !x.msixEn then s
  else if x.msixMask ∨ e.ctrl.getLsbD 0 then setFn s f { x with pend := insertNat v x.pend }
  else devWrite s (busAddr e.addr.toNat) (leBytes 4 e.data.toNat)

/-- The pending messages of vectors that are no longer masked follow (R509). -/
def flushPend (s : State) (f : Nat) : State :=
  (getFn s f).pend.foldl (fun s v =>
    let x := getFn s f
    if x.msixMask || (Tab.get {} x.vectors v).ctrl.getLsbD 0 then s
    else signalVec (setFn s f { x with pend := x.pend.filter (· != v) }) f v) s

/-! ### Completion queues (R483, R488, R509) -/

def cqRoom (r : HRing) : Bool := decide ((r.written + 2 ^ 32 - r.cqHead) % 2 ^ 32 < ringEntries r)

/-- The 32 bytes of record `k`. -/
def cqRecord (r : HRing) (n : Nat) (d : Done) : List Byte :=
  leBytes 4 d.cmdId ++ leBytes 4 (r.fetched % 2 ^ 32) ++ leBytes 2 d.status ++ leBytes 1 d.op ++ leBytes 1 n ++ leBytes 4 0
    ++ (d.result ++ List.replicate 15 0).take 15 ++ [BitVec.ofNat 8 ((r.written / ringEntries r + 1) % 2)]

def modTime (cfg : W64) : Nat := bf cfg.toNat 54 10
def modCount (cfg : W64) : Nat := max 1 (bf cfg.toNat 46 8)

/-- The CQ signals its vector; every written record is then signalled. -/
def signalRing (s : State) (f n : Nat) : State :=
  let r := getHRing s f n
  signalVec (setHRing s f n { r with unsig := 0 }) f (ringVector r)

/-- Write the record into its slot, and signal when R509 asks for it. -/
def putRecord (s : State) (f n : Nat) (d : Done) (force : Bool) : State :=
  let r := getHRing s f n
  let s1 := devWrite s (busAddr (r.cq.toNat + 32 * (r.written % ringEntries r))) (cqRecord r n d)
  let r1 := { r with written := (r.written + 1) % 2 ^ 32, unsig := r.unsig + 1, unsigSince := if r.unsig = 0 then s.aon else r.unsigSince }
  let s2 := setHRing s1 f n r1
  if force ∨ d.irq ∨ d.status ≠ stOk ∨ r1.unsig ≥ modCount r.cfg ∨ modTime r.cfg = 0 then signalRing s2 f n else s2

/-- A DRAINING ring without commands or records is OFF (R484). -/
def drainRing (s : State) (f n : Nat) : State :=
  let r := getHRing s f n
  if r.st = .draining ∧ r.cmds.isEmpty ∧ r.done.isEmpty then setHRing s f n { r with st := .off } else s

/-! ### Start of commands (R482, R485, R486, R492, R494, R598) -/

def opLaunchCmd : Nat := 1
def opCopyCmd : Nat := 2
def opFillCmd : Nat := 3
def opCompactCmd : Nat := 4
def opFenceCmd : Nat := 5
def opCancelCmd : Nat := 6
def opQueryCmd : Nat := 7
def opScrubCmd : Nat := 8
def opSelftestCmd : Nat := 9
def opMailboxCmd : Nat := 10

def csReserved : Nat := 6
def csOpcode : Nat := 0x40
def csNotPermitted : Nat := 0x41
def csNotStarted : Nat := 0x42
def csBusy : Nat := 0x43
def csSegTable : Nat := 0x44
def csGen : Nat := 0x45
def csDup : Nat := 0x46
def csHostAccess : Nat := 0x48
def csRing : Nat := 0x49

/-- The function may issue the command (R486). -/
def opAllowed (f op : Nat) : Bool :=
  if op = opFenceCmd ∨ op = opMailboxCmd then true else if op = opScrubCmd ∨ op = opSelftestCmd then f == 0 else f != 0

/-- Argument bytes that no field holds are zero, and fields lie in their ranges (R485, R486, R494). -/
def argsOk (c : HCmd) : Bool :=
  let zero (a b : Nat) : Bool := ((c.bytes.drop a).take (b - a)).all (· == 0)
  let fld := fieldAt c.bytes
  match cmdOp c with
  | 1 => decide (fld 16 1 ≤ 2) && decide (fld 17 1 < 4) && decide (fld 19 1 < 4) && zero 22 24
      && (fld 16 1 == 1 || zero 56 64) && (fld 16 1 != 0 || zero 48 56)
      && (fld 16 1 == 1 || fld 32 8 == 0 || (decide (1 ≤ fld 20 1) && decide (fld 20 1 ≤ 64) && decide (1 ≤ fld 21 1) && decide (fld 21 1 ≤ 64)))
  | 2 => decide (fld 32 1 ≤ 1) && zero 33 64
  | 3 => zero 32 64
  | 4 => zero 40 64
  | 5 => decide (fld 8 1 ≤ 1) && zero 9 64
  | 6 => decide (fld 16 1 ≤ 1) && zero 17 64
  | 7 => zero 32 64
  | 8 => zero 12 64
  | 9 => decide (fld 8 1 ≤ 1) && zero 9 16 && zero 28 64
  | _ => zero 32 64

/-- The module is in bare-pole or standby, or entering bare-pole (R598). -/
def barePole (s : State) : Bool := s.pwr.entering || decide (s.pwr.state.toNat ≥ 4)

/-- Status that a command completes with before it executes. -/
def startRefusal (s : State) (f : Nat) (c : HCmd) : Option Nat :=
  let op := cmdOp c
  if c.failed then some csHostAccess
  else if fieldAt c.bytes 1 1 ≥ 4 ∨ fieldAt c.bytes 2 2 ≠ 0 then some csReserved
  else if op = 0 ∨ op > 10 then some csOpcode
  else if !opAllowed f op then some csNotPermitted
  else if op ≠ opMailboxCmd ∧ op ≠ opFenceCmd ∧ s.fwc.st ≠ 3 then some csNotStarted
  else if !argsOk c then some csReserved
  else if barePole s && [1, 2, 3, 4, 9].contains op then some csBusy
  else none

/-- Every earlier command has started, and for an ORDERED one has completed (R482). -/
def startable (r : HRing) (c : HCmd) : Bool :=
  let earlier := r.cmds.filter fun (x : HCmd) => decide (x.serial < c.serial)
  c.st == .waiting && (if cmdOrdered c then earlier.isEmpty else earlier.all fun (x : HCmd) => x.st != .waiting)

/-- Commands of a function fetched before `c` and not yet reported, from ring `n` or from every ring (R502). -/
def fencePending (s : State) (f n : Nat) (c : HCmd) : Bool :=
  let before (r : HRing) : Bool := r.cmds.any (fun (x : HCmd) => decide (x.serial < c.serial)) || r.done.any (fun (x : Done) => decide (x.serial < c.serial))
  if fieldAt c.bytes 8 1 = 0 then before (getHRing s f n) else (getFn s f).rings.any fun x => before x.2

/-- The record of a cancelled LAUNCH still waits for its CQ slot. -/
def recordWaits (s : State) (f : Nat) (ls : List Nat) : Bool :=
  (getFn s f).rings.any fun x => x.2.done.any fun d => d.status == stCancelled && match d.launch with | some l => ls.contains l | none => false

/-- The launches of a CANCEL are over, and their records are written (R503). -/
def cancelOver (s : State) (f : Nat) (ls : List Nat) : Bool :=
  !(s.hif.jobs.any fun j => fnPart f == some j.part && ls.contains j.launch && j.cancel.isSome) && !recordWaits s f ls

/-- The command is complete: its status and result. -/
def completes (s : State) (f n : Nat) (c : HCmd) : Option (Nat × List Byte) :=
  match c.st with
  | .waiting =>
    if startable (getHRing s f n) c then (startRefusal s f c).map fun st => (st, []) else none
  | .started => if cmdOp c = opFenceCmd ∧ !fencePending s f n c then some (stOk, []) else none
  | .posting ids =>
    if ids.any fun i => s.hub.sends.any fun e => e.id == i then none
    else some (stOk, leBytes 1 ((List.range 4).filter fun i => fieldAt c.bytes (24 + 2 * i) 2 != 0xFFFF).length)
  | .scrubbing rs skipped =>
    if rs.all fun r => (getRegion s r).st == .free then some (stOk, leBytes 2 rs.length ++ leBytes 2 skipped) else none
  | .cancelling ls q => if cancelOver s f ls then some (stOk, leBytes 4 ls.length ++ leBytes 2 (Config.cancelTag q).toNat) else none
  | .recovering => none
  | .placed => none

/-- Complete, in fetch order, every command of a ring that is over. -/
def sweepRing (s : State) (f n : Nat) : State :=
  (getHRing s f n).cmds.foldl (fun s c => match completes s f n c with
    | some r => completeCmd s f n c.idx r.1 r.2
    | none => s) s

/-- A started row for command `k`: it must be of opcode `op` and startable; refusals come first. -/
def runCmd (f n k : Nat) (ok : HCmd → Bool) (s : State) (body : State → HCmd → State) : Out :=
  onRing f n <|
    match (getHRing s f n).cmds.find? fun c => c.idx == k with
    | none => .next s
    | some c =>
      if ok c && startable (getHRing s f n) c then
        match startRefusal s f c with
        | some st => .next (completeCmd s f n k st [])
        | none => .next (body (markCmd s f n k .started) c)
      else .next s

/-! ### Rows -/

/-- The ring reads or writes host memory for its function: it is enabled and its function is polled (R474). -/
def ringServed (s : State) (f : Nat) (r : HRing) : Bool := (r.st == .running || r.st == .draining) && fnPolled s f

/-- The ring enters ERROR: one RING_ERROR record if the CQ has room, and its vector (R481). -/
def ringError (s : State) (f n cause : Nat) : State :=
  let s1 := setHRing s f n { getHRing s f n with st := .error, cause := cause }
  if cqRoom (getHRing s f n) then putRecord s1 f n { cmdId := 0, status := csRing, op := 0, irq := false } true else signalRing s1 f n

/-- A C0 read longer than 760 ns (R526). -/
def hostLatency (s : State) (f : Nat) (r : HRing) (ns : Nat) : State :=
  if ringClass r = 0 ∧ ns > 760 then boundOccur s 4 ukFunction f bndHost (fnPart f) else s

def classInterval (cls : Nat) : Nat := if cls = 0 then 1 else if cls = 1 then 32 else if cls = 2 then 256 else 1024
/-- Longest interval of a ring, in microseconds (R490). -/
def pollTop (r : HRing) : Nat := min (max 1 (min 1024 (bf r.cfg.toNat 23 11))) (classInterval (ringClass r))

/-- The event queue's head as the doorbell page holds it (R614). -/
def readEvqHead (s : State) (f : Nat) : State :=
  let q := getEvq s f
  if q.enable then setEvq s f { q with head := BitVec.ofNat 32 (devNum s (busAddr ((getFn s f).dbBase.toNat + 0xFF0)) 4) } else s

/-- An error logged under AER (R473, R476). -/
def countAer (s : State) : State := { s with hif := { s.hif with aer := s.hif.aer + 1 } }

/-- DOORBELL_POLL: the ring's doorbell record is read and checked, and the interval adjusted (R480, R481, R490). A nonzero reserved
field is never ignored (R12): it is an error with cause DOORBELL (assumption 113). -/
def execDoorbellPoll (f n ns : Nat) (ok : Bool) (s : State) : Out :=
  onRing f n <|
    let r := getHRing s f n
    if !ringServed s f r then .next s
    else
      let s1 := hostLatency s f r ns
      if !ok then .next (ringError (countAer s1) f n 2)
      else
        let a := busAddr ((getFn s f).dbBase.toNat + 16 * n)
        let tail := devNum s a 4
        let head := devNum s (a + 4) 4
        let pending := (tail + 2 ^ 32 - r.fetched) % 2 ^ 32
        let badCq := decide ((head + 2 ^ 32 - r.cqHead) % 2 ^ 32 > (r.written + 2 ^ 32 - r.cqHead) % 2 ^ 32)
        let s2 := readEvqHead s1 f
        if (r.st = .running ∧ (pending > ringEntries r ∨ badCq)) ∨ devNum s (a + 8) 8 ≠ 0 then
          .next (ringError (setHRing s2 f n { r with lastPoll := s.aon }) f n 1)
        else
          let found : Bool := tail != r.tail
          let iv := if ringClass r = 0 ∨ found then 1 else min (2 * r.interval) (pollTop r)
          .next (setHRing s2 f n { r with tail := tail, cqHead := if badCq then r.cqHead else head, interval := iv, lastPoll := s.aon - ns / 20 })

/-- Commands that the latest poll found and that are still to be fetched. -/
def toFetch (r : HRing) : Nat := min 8 ((r.tail + 2 ^ 32 - r.fetched) % 2 ^ 32)

/-- COMMAND_FETCH: up to 8 commands arrive, and those that cannot execute complete at once (R482, R483). -/
def execCommandFetch (f n ns : Nat) (ok : Bool) (s : State) : Out :=
  onRing f n <|
    let r := getHRing s f n
    let m := toFetch r
    if !(r.st == .running && fnPolled s f) ∨ m = 0 ∨ !cqRoom r then .next s
    else
      let x := getFn s f
      let cs := (List.range m).map fun i =>
        let k := (r.fetched + i) % 2 ^ 32
        ({ idx := k, serial := x.fetchNo + i, polled := r.lastPoll, failed := !ok
           bytes := devRead s (busAddr (r.sq.toNat + 64 * (k % ringEntries r))) 64 } : HCmd)
      let s1 := setFn s f { x with fetchNo := x.fetchNo + m }
      let s2 := setHRing s1 f n { r with fetched := (r.fetched + m) % 2 ^ 32, cmds := r.cmds ++ cs }
      .next (sweepRing (hostLatency (if ok then s2 else countAer s2) f r ns) f n)

/-- COMPLETION_RECORD_WRITE: the oldest completed command's record is written when its slot is free (R483). -/
def execCompletionRecordWrite (f n : Nat) (s : State) : Out :=
  onRing f n <|
    let s1 := sweepRing s f n
    let r := getHRing s1 f n
    match r.done with
    | [] => .next (drainRing s1 f n)
    | d :: rest =>
      if r.st ≠ .off ∧ cqRoom r then .next (drainRing (putRecord (setHRing s1 f n { r with done := rest }) f n d false) f n)
      else .next s1

/-! ### The event queue (R614, R615) -/

/-- The 32 bytes of an event record. -/
def evqRecord (q : Evq) (e : Event) : List Byte :=
  leBytes 2 e.code ++ leBytes 1 e.sev ++ leBytes 1 e.part ++ leBytes 1 e.kind ++ leBytes 1 e.flags ++ leBytes 2 e.unit
    ++ leBytes 8 e.time ++ leBytes 8 e.detail ++ leBytes 4 (satField 32 e.count) ++ leBytes 3 e.logSeq
    ++ [BitVec.ofNat 8 ((q.written.toNat / evqEntries q + 1) % 2)]

def signalEvq (s : State) (f : Nat) : State :=
  let q := getEvq s f
  signalVec (setEvq s f { q with unsig := 0 }) f q.vector.toNat

/-- Write one event record; UNIT and MODULE signal at once. -/
def putEvent (s : State) (f : Nat) (e : Event) : State :=
  let q := getEvq s f
  let s1 := devWrite s (busAddr (q.base.toNat + 32 * (q.written.toNat % evqEntries q))) (evqRecord q e)
  let q1 := { q with written := q.written + 1, unsig := q.unsig + 1, unsigSince := if q.unsig = 0 then s.aon else q.unsigSince }
  let s2 := setEvq s1 f q1
  if e.sev ≥ 3 ∨ q1.unsig ≥ max 1 q.modCount.toNat ∨ q.modTime = 0 then signalEvq s2 f else s2

/-- The record to write next: EVQ_OVERFLOW first when room has returned after losses (R615). -/
def nextEvent (s : State) (f : Nat) : Option (Event × Evq) :=
  let q := getEvq s f
  if q.overflow > 0 ∧ q.pending.length ≤ 64 then
    some ({ code := 0x0600, sev := 0, kind := ukFunction, unit := f, time := s.aon, detail := satField 32 q.overflow, logSeq := s.log.next % 2 ^ 24 },
      { q with overflow := 0 })
  else match q.pending with
  | [] => none
  | e :: rest => some (e, { q with pending := rest })

def onFn (f : Nat) (k : Out) : Out := if f ≤ 16 then k else .refused .noSuchUnit

def execEventRecordWrite (f : Nat) (s : State) : Out :=
  onFn f <|
    let q := getEvq s f
    if !q.enable ∨ evqFull q then .next s
    else match nextEvent s f with
    | some x => .next (putEvent (setEvq s f x.2) f x.1)
    | none => .next s

def execEvqHeadPoll (f : Nat) (s : State) : Out := onFn f <| .next (readEvqHead s f)

/-- MODERATION_TIMEOUT: the oldest unsignalled record of a queue is MOD_TIME old; queue 64 is the event queue (R509, R614). -/
def execModerationTimeout (f queue : Nat) (s : State) : Out :=
  if f > 16 then .refused .noSuchUnit
  else if queue = 64 then
    let q := getEvq s f
    if q.unsig > 0 ∧ s.aon ≥ q.unsigSince + q.modTime.toNat * usAon then .next (signalEvq s f) else .next s
  else
    onRing f queue <|
      let r := getHRing s f queue
      if r.unsig > 0 ∧ s.aon ≥ r.unsigSince + modTime r.cfg * usAon then .next (signalRing s f queue) else .next s

/-! ### Enable and disable (R478, R484, R491) -/

/-- Writable bits of PCI_RINGn_CFG. -/
def ringMask : W64 := 0xFFFFC003FFFFFF07

def c0Enabled (r : HRing) : Bool := r.cfg.getLsbD 0 && ringClass r == 0
/-- C0 rings that are enabled, of one function or in the module. -/
def c0RingsOf (x : Fn) : Nat := (x.rings.filter fun p => c0Enabled p.2).length
def c0RingsAll (s : State) : Nat := (s.hif.fns.map fun p => c0RingsOf p.2).foldl (· + ·) 0

/-- Cause for which a ring stays OFF (R491). -/
def enableCause (s : State) (f : Nat) (cfg : W64) : Nat :=
  if bf cfg.toNat 1 2 ≠ 0 then 0
  else if c0RingsAll s ≥ 128 then 3
  else match fnPart f with
  | some p => if c0RingsOf (getFn s f) ≥ (getPart s p).c0Rings.toNat then 4 else 0
  | none => 0

/-- RING_ENABLE: a write of PCI_RINGn_CFG with ENABLE set (R484, R491, R636). -/
def execRingEnable (f n : Nat) (cfg : W64) (s : State) : Out :=
  onRing f n <|
    let r := getHRing s f n
    let v := cfg &&& ringMask
    if r.cfg.getLsbD 0 then .next (ignoreWrite s)
    else if !v.getLsbD 0 then .next (setHRing s f n { r with cfg := v })
    else if r.st ≠ .off then .next (ignoreWrite s)
    else
      let cause := enableCause s f v
      if cause ≠ 0 then .next (setHRing s f n { r with cfg := v &&& ~~~1#64, cause := cause })
      else .next (setHRing s f n { sq := r.sq, cq := r.cq, cfg := v, st := .running })

/-- RING_DISABLE: ENABLE is written 0 (R484). -/
def execRingDisable (f n : Nat) (s : State) : Out :=
  onRing f n <|
    let r := getHRing s f n
    if r.st = .off then .next (setHRing s f n { r with cfg := r.cfg &&& ~~~1#64 })
    else .next (drainRing (setHRing s f n { r with cfg := r.cfg &&& ~~~1#64, st := .draining }) f n)

end Sys2Proof.Machine
end

