-- ==== Sys2Proof/Machine/Commands.lean ====
section
/-! DEFINITION. Machine/Commands.lean: the data commands of the command engine (R487, R501), FENCE, CANCEL, QUERY_LEDGER and SCRUB
(R502 to R505), and LAUNCH in its three modes (R494 to R500, R311, R312). -/

namespace Sys2Proof.Machine

open Sys2Proof

/-- Status of the address check of a range that a command of function `f` names (R487): the PF is held to no region. -/
def rangeBad (s : State) (f a n : Nat) : Option Nat :=
  if n = 0 then none
  else match spaceOf a n with
    | .unmapped => some stUnmapped
    | .host => none
    | .hbm => if f = 0 || regionsOk s (fnPart f) a n then none else some stRegion

/-- The first failing range. -/
def rangesBad (s : State) (f : Nat) (rs : List (Nat × Nat)) : Option Nat := rs.findSome? fun r => rangeBad s f r.1 r.2

/-- Finish a data command: the ECC findings are recorded, and bad ones read UNCORRECTABLE (R341). -/
def finishData (s : State) (f n k : Nat) (hits : EccHits) (result : List Byte) : State :=
  completeCmd (hbmEcc s hits) f n k (if hitsBad hits then stUncorr else stOk) result

/-- A command that passes its address checks waits while a channel of its ranges serves nothing (R415). -/
def rangesHeld (s : State) (f : Nat) (rs : List (Nat × Nat)) : Bool :=
  (rangesBad s f rs).isNone && rs.any fun r => rangeWaits s r.1 r.2

/-- A range in a failed channel is answered by nothing: UNCORRECTABLE (R402, R616). -/
def rangesLost (s : State) (rs : List (Nat × Nat)) : Bool := rs.any fun r => rangeFailed s r.1 r.2

/-- C0 tokens that a data command of a C0 ring takes: one for each packet of at most 128 bytes that it reads or writes in HBM (R513, R517). -/
def engineNeed (s : State) (f n : Nat) (rs : List (Nat × Nat)) : Nat :=
  if ringClass (getHRing s f n) = 0 then sumNat (rs.map fun r => if spaceOf r.1 r.2 = .hbm then ceilDiv r.2 128 else 0) else 0

/-- A command that needs `need` tokens takes the one that the engine's pacer holds, if it still needs it. -/
def engineTake (s : State) (c : HCmd) (need : Nat) : Nat × State :=
  if c.tokens < need && Tab.get true s.hub.pacer 0 then (c.tokens + 1, { s with hub := { s.hub with pacer := Tab.set s.hub.pacer 0 false } })
  else (c.tokens, s)

/-- A command keeps the tokens that it has and waits for the next one, which is reported once (R525, R526 cause 7). -/
def paceCmd (s : State) (f n : Nat) (c : HCmd) (got : Nat) : State :=
  let r := getHRing s f n
  let s1 := setHRing s f n { r with cmds := r.cmds.map fun x => if x.idx = c.idx then { x with tokens := got, paced := true } else x }
  if c.paced then s1 else boundOccur s1 7 ukNone 256 (bndHost + bndHbm) (fnPart f)

/-- A data command on ranges `rs`: it waits for their channels, is refused under R487, or ends UNCORRECTABLE for a failed channel; at C0 it
waits for its tokens; otherwise `body` runs it. -/
def dataCmd (f n k op : Nat) (rs : HCmd → List (Nat × Nat)) (s : State) (body : State → HCmd → State) : Out :=
  onRing f n <|
    match (getHRing s f n).cmds.find? fun c => c.idx == k with
    | none => .next s
    | some c0 =>
      let need := if (rangesBad s f (rs c0)).isSome || rangesLost s (rs c0) then 0 else engineNeed s f n (rs c0)
      let t := engineTake s c0 need
      let go : Bool := cmdOp c0 == op && !rangesHeld s f (rs c0) && startable (getHRing s f n) c0
      if go && (startRefusal s f c0).isNone && decide (t.1 < need) then .next (paceCmd t.2 f n c0 t.1)
      else runCmd f n k (fun c => cmdOp c == op && !rangesHeld s f (rs c)) (if go && (startRefusal s f c0).isNone then t.2 else s) fun s c =>
        match rangesBad s f (rs c) with
        | some st => completeCmd s f n k st []
        | none => if rangesLost s (rs c) then completeCmd s f n k stUncorr [] else body s c

/-! ### COPY, FILL, COMPACT (R501) -/

def devReader (s : State) (a : Nat) : Nat := ((devRead s a 1).headD 0).toNat

/-- A tensor in three phases: VALID zero, every other byte, VALID (R331). -/
def writeTensor (s : State) (dst : Nat) (bytes : List Byte) : State :=
  let s1 := devWrite s (dst + 63) [0]
  let s2 := devWrite (devWrite s1 dst (bytes.take 63)) (dst + 64) (bytes.drop 64)
  devWrite s2 (dst + 63) [bytes.getD 63 0]

/-- What the writes of a tensor of `n` bytes find: its VALID byte is a write of its own (R331, R412). -/
def tensorHits (dst n : Nat) (ecc : EccHits) : EccHits :=
  let v := accessHits (dst + 63) 1 true ecc
  v ++ (accessHits dst n true ecc).filter fun h => !v.contains h

/-- Ledger entries of assigned counters among the bytes read that cannot be read count for their counters (R310). -/
def readLedgers (s : State) (a len : Nat) (ecc : EccHits) : State :=
  if ecc.isEmpty then s
  else (List.range 256).foldl (fun s n =>
    let b := ledgerBase (getCtr s n)
    if (getCtr s n).assigned && (getCtr s n).st != .disabled then
      ((List.range (ledgerSegments s b)).filter fun i => overlaps (b + 64 + 2 * i) 2 a len && entryBad s b i ecc).foldl
        (fun s i => ledgerUe s n b i ecc) s
    else s) s

def copyTensor (s : State) (f n k src dst len : Nat) (ecc : EccHits) : State :=
  let h := hdrOf (fieldAt (devRead s src 64) 0 64)
  if len < 64 then completeCmd s f n k stShape []
  else
    let s1 := hbmEcc s (accessHits src 64 false ecc)
    if !hdrValid h src then completeCmd s1 f n k stAbsent []
    else if h.total > len then completeCmd s1 f n k stShape []
    else finishData (writeTensor (readLedgers s src h.total ecc) dst (devRead s src h.total)) f n k
      (accessHits src h.total false ecc ++ tensorHits dst h.total ecc)
      (leBytes 8 h.total)

def execCopyCommand (f n k : Nat) (ecc : EccHits) (s : State) : Out :=
  dataCmd f n k opCopyCmd (fun c => [(fieldAt c.bytes 8 8, fieldAt c.bytes 24 8), (fieldAt c.bytes 16 8, fieldAt c.bytes 24 8)]) s fun s c =>
    let src := fieldAt c.bytes 8 8
    let dst := fieldAt c.bytes 16 8
    let len := fieldAt c.bytes 24 8
    if fieldAt c.bytes 32 1 = 1 then copyTensor s f n k src dst len ecc
    else finishData (devWrite (readLedgers s src len ecc) dst (devRead s src len)) f n k (accessHits src len false ecc ++ accessHits dst len true ecc) (leBytes 8 len)

def execFillCommand (f n k : Nat) (ecc : EccHits) (s : State) : Out :=
  dataCmd f n k opFillCmd (fun c => [(fieldAt c.bytes 8 8, fieldAt c.bytes 16 8)]) s fun s c =>
    let dst := fieldAt c.bytes 8 8
    let len := fieldAt c.bytes 16 8
    finishData (devWrite s dst ((List.range len).map fun i => c.bytes.getD (24 + i % 8) 0)) f n k (accessHits dst len true ecc)
      (leBytes 8 len)

/-- The descriptor that stands for a COMPACT: bytes 32 to 39 are the OP_ARGS of a compaction store (R344, R486). -/
def compactDesc (c : HCmd) : Desc := descOf (BitVec.ofNat 1024 (fieldAt c.bytes 32 8 * 2 ^ 768))

/-- Refusal of the target format and threshold (R344); R489 has no OP_UNSUPPORTED, so a bad format reads FORMAT_MISMATCH. -/
def compactRefusal (d : Desc) : Option Nat :=
  if !([1, 2, 3, 4, 5].contains (argTgtFmt d)) || !flagsParamsOk (argTgtFmt d) (argTgtFlags d) (argTgtP0 d) (argTgtP1 d)
      || (argTgtFmt d == 1 && (argTgtFlags d).testBit 0 && !(argTgtP0 d == 2 && argTgtP1 d == 4)) then some stFormat
  else if isNan32 (argZeroThresh d) then some stType
  else none

/-- The bytes of a computed tensor. -/
def imageBytes (im : Image) : List Byte := im.hdr ++ im.body.flatMap (·.data)

def compactRun (s : State) (f n k src dst len : Nat) (d : Desc) (ecc : EccHits) : State :=
  let h := hdrOf (fieldAt (devRead s src 64) 0 64)
  let s1 := hbmEcc s (accessHits src 64 false ecc)
  if !hdrValid h src then completeCmd s1 f n k stAbsent []
  else if h.fmt ≠ 0 then completeCmd s1 f n k stFormat []
  else match rangeBad s f src h.total with
  | some st => completeCmd s1 f n k st []
  | none =>
    let im := compactImage d h (devReader s) src
    if im.total > len then completeCmd (hbmEcc s (accessHits src h.total false ecc)) f n k stShape []
    else
      let bs := imageBytes im
      finishData (writeTensor s dst (bs.take 63 ++ [0xA5] ++ bs.drop 64)) f n k (accessHits src h.total false ecc ++ tensorHits dst im.total ecc)
        (leBytes 8 im.total ++ leBytes 4 (satField 32 im.counts.overfull) ++ leBytes 2 (satField 16 im.counts.xpose))

/-- The tensor that a COMPACT reads, once its header shows one that lies in the function's space; nothing otherwise. -/
def compactSource (s : State) (f : Nat) (c : HCmd) : List (Nat × Nat) :=
  let src := fieldAt c.bytes 8 8
  let h := hdrOf (fieldAt (devRead s src 64) 0 64)
  if hdrValid h src && (rangeBad s f src h.total).isNone then [(src, h.total)] else []

def execCompact (f n k : Nat) (ecc : EccHits) (s : State) : Out :=
  dataCmd f n k opCompactCmd (fun c => (fieldAt c.bytes 8 8, 64) :: (fieldAt c.bytes 16 8, fieldAt c.bytes 24 8) :: compactSource s f c) s fun s c =>
    match compactRefusal (compactDesc c) with
    | some st => completeCmd s f n k st []
    | none => compactRun s f n k (fieldAt c.bytes 8 8) (fieldAt c.bytes 16 8) (fieldAt c.bytes 24 8) (compactDesc c) ecc

/-! ### FENCE, CANCEL, QUERY_LEDGER, SCRUB (R502 to R505) -/

def execFenceCommand (f n k : Nat) (s : State) : Out :=
  runCmd f n k (fun c => cmdOp c == opFenceCmd) s fun s _ => sweepRing s f n

def execCancel (f n k : Nat) (s : State) : Out :=
  runCmd f n k (fun c => cmdOp c == opCancelCmd) s fun s c =>
    let hit (j : Job) : Bool := fnPart f == some j.part && j.cancel.isNone && (fieldAt c.bytes 16 1 == 1 || j.launch == fieldAt c.bytes 8 8)
    let ls := (s.hif.jobs.filter hit).map (·.launch)
    sweepRing (cancelJobs (markCmd s f n k (.cancelling ls s.hif.nextTag)) stCancelled hit) f n

/-- Entries of a ledger that cannot be read count for the counter that holds it, or for the ledger alone, and are reported (R310). -/
def queryUe (s : State) (led : Nat) (ecc : EccHits) : State :=
  let bad := (List.range (ledgerSegments s led)).filter fun i => entryBad s led i ecc
  match (List.range 256).find? fun n => (getCtr s n).assigned && (getCtr s n).st != .disabled && ledgerBase (getCtr s n) == led with
  | none => bad.foldl (fun s i => looseUe s led i ecc) s
  | some n => bad.foldl (fun s i => ledgerUe s n led i ecc) s

def execQueryLedger (f n k : Nat) (ecc : EccHits) (s : State) : Out :=
  dataCmd f n k opQueryCmd (fun c => [(fieldAt c.bytes 8 8, 64), (fieldAt c.bytes 8 8, ledgerSize s (fieldAt c.bytes 8 8)),
      (fieldAt c.bytes 16 8, fieldAt c.bytes 24 8)]) s fun s c =>
    let led := fieldAt c.bytes 8 8
    let dst := fieldAt c.bytes 16 8
    let size := ledgerSize s led
    if spaceOf led 64 = .host then completeCmd s f n k stRegion []
    else if fieldAt c.bytes 24 8 < size then completeCmd s f n k stShape []
    else
        let b := devRead s led 64
        finishData (devWrite (queryUe s led ecc) dst (devRead s led size)) f n k (accessHits led size false ecc ++ accessHits dst size true ecc)
          (leBytes 4 (fieldAt b 16 4) ++ leBytes 4 (fieldAt b 24 4) ++ leBytes 4 (fieldAt b 8 4) ++ leBytes 1 (fieldAt b 5 1)
            ++ leBytes 1 (fieldAt b 6 1))

/-- Start the scrub of a region that is QUARANTINED or FREE (R505). -/
def scrubFree (s : State) (r : Nat) : State :=
  let x := getRegion s r
  scrubBegin (if x.st = .free then setRegion s r { x with st := .quarantined } else s) r

/-- SCRUB: the row starts the scrubs; coming again, it restarts those that an interrupt returned to QUARANTINED (R505). -/
def execScrub (f n k : Nat) (s : State) : Out :=
  onRing f n <|
    match ((getHRing s f n).cmds.find? fun (c : HCmd) => c.idx == k).map (fun (c : HCmd) => c.st) with
    | some (CmdSt.scrubbing rs _) => .next (sweepRing (rs.foldl scrubBegin s) f n)
    | _ =>
      runCmd f n k (fun c => cmdOp c == opScrubCmd) s fun s c =>
        let a := fieldAt c.bytes 8 2
        let m := fieldAt c.bytes 10 2
        if a + m > 768 then completeCmd s f n k stUnmapped []
        else
          let rs := (List.range m).map (a + ·)
          let skip (r : Nat) : Bool := (getRegion s r).st == .assigned || (getRegion s r).st == .withdrawn
          let work := rs.filter fun r => !skip r
          sweepRing (markCmd (work.foldl scrubFree s) f n k (.scrubbing work (m - work.length))) f n

/-! ### LAUNCH: the record of a launch (R494, R495) -/

/-- The function's LAUNCH_ID is among the 256 latest of the partition. -/
def knownLaunch (s : State) (p l : Nat) : Bool := (Tab.get [] s.hif.launchIds p).contains l
def keepLaunch (s0 : State) (p l : Nat) : State :=
  let s := trace s0 2 24
  { s with hif := { s.hif with launchIds := Tab.set s.hif.launchIds p ((l :: Tab.get [] s.hif.launchIds p).take 256) } }

def launchId (b : List Byte) : Nat := fieldAt b 8 8
def launchMode (b : List Byte) : Nat := fieldAt b 16 1

/-! ### POST (R499) -/

def postCores (b : List Byte) : List Nat := ((List.range 4).map fun i => fieldAt b (24 + 2 * i) 2).filter (· != 0xFFFF)

/-- A listed core that is none, or lies outside the partition. -/
def postBad (s : State) (p : Nat) (b : List Byte) : Option Nat :=
  (postCores b).findSome? fun c => if !coreLive s c then some stUnmapped else if partOfCore s c = some p then none else some stRegion

/-- The message to one core: at class C0 it takes the engine's token, or waits for one (R517). -/
def postOne (p cls polled : Nat) (b : List Byte) (a : List Nat × State) (c : Nat) : List Nat × State :=
  let s := a.2
  let m : Message := { src := 0x1FE, srcCtx := 0, len := 32, cls := cls, part := p, payload := (b.drop 32).take 32 }
  let e : SendEx := { id := s.hub.sendNo, ctx := 0x1FE, seq := 0, exec := 0, dst := c, kind := 0, msg := mailOf m, cls := cls
                      since := s.aon, asked := polled }
  let s1 := { s with hub := { s.hub with sends := s.hub.sends ++ [e], sendNo := s.hub.sendNo + 1 } }
  (a.1 ++ [e.id], if cls = 0 then hubToken s1 (some p) fun s => postSend s e.id c else postSend s1 e.id c)

def postAll (s : State) (p cls polled : Nat) (b : List Byte) : List Nat × State := (postCores b).foldl (postOne p cls polled b) ([], s)

/-! ### Job images (R496) -/

structure ImgEntry where
  core : Nat
  ctx : Nat
  floor : Nat
  entry : Nat
  base : Nat
  bound : Nat
  codeOff : Nat
  codeLen : Nat
  argLen : Nat
  args : List Byte
  zero : Bool

def imgEntry (s : State) (image i : Nat) : ImgEntry :=
  let b := devRead s (image + 64 + 64 * i) 64
  { core := fieldAt b 0 2, ctx := fieldAt b 2 1, floor := fieldAt b 3 1, entry := fieldAt b 4 4, base := fieldAt b 8 4
    bound := fieldAt b 12 4, codeOff := fieldAt b 16 4, codeLen := fieldAt b 20 4, argLen := fieldAt b 24 1, args := b.drop 32
    zero := fieldAt b 25 7 == 0 }

def imgCount (s : State) (image : Nat) : Nat := devNum s (image + 8) 4
def imgList (s : State) (image : Nat) : List ImgEntry := (List.range (imgCount s image)).map (imgEntry s image)

def imgHeaderOk (s : State) (image : Nat) : Bool :=
  devNum s image 4 == 0x4A494B4E && devNum s (image + 4) 1 == 1 && devNum s (image + 5) 3 == 0 && devNum s (image + 12) 51 == 0
    && devNum s (image + 63) 1 == 0xA5 && decide (1 ≤ imgCount s image) && decide (imgCount s image ≤ 2048)

def imgEntryOk (e : ImgEntry) : Bool :=
  e.zero && decide (e.ctx < 8) && decide (e.floor < 4) && decide (e.entry < 65536) && e.entry % 2 == 0 && e.base % 64 == 0
    && e.bound % 64 == 0 && decide (e.base + e.bound ≤ spadSize) && decide (e.argLen ≤ 32)
    && (e.codeOff == 0 || (decide (1 ≤ e.codeLen) && decide (e.codeLen ≤ 65536)))

/-- Step 1 of R497: the status of the first failure. -/
def imgBad (s : State) (f p image : Nat) : Option Nat :=
  match rangeBad s f image 64 with
  | some st => some st
  | none =>
    if !imgHeaderOk s image then some csReserved
    else match rangeBad s f image (64 + 64 * imgCount s image) with
    | some st => some st
    | none =>
      let es := imgList s image
      if !es.all imgEntryOk || !(es.map fun e => (e.core, e.ctx)).Nodup then some csReserved
      else if es.any (fun e => !(coreLive s e.core && partOfCore s e.core == some p)) then some stRegion
      else rangesBad s f ((es.filter (·.codeOff != 0)).map fun e => (image + e.codeOff, e.codeLen))

/-- Step 2 of R497. -/
def imgBusy (s : State) (image : Nat) : Bool :=
  (imgList s image).any fun e => (ctxAt s e.core e.ctx).st != .idle || coreStale s e.core
    || (e.codeOff != 0 && (List.range 8).any fun n => (ctxAt s e.core n).st != .idle)

/-! ### Fold channels of a job (R293, R497) -/

/-- Lowest context that the image names on a core. -/
def imgOwnerCtx (es : List ImgEntry) (c : Nat) : Option Nat := ((es.filter (·.core == c)).map (·.ctx)).min?

/-- ACC_FOLDn_CFG of a heavy row's channel: the group, slots and rows of the LAUNCH; `ty` is the accumulator type. -/
def foldCfg (b : List Byte) (ty ctx ring last : Nat) : W64 :=
  BitVec.ofNat 64 (1 + ty * 16 + fieldAt b 19 1 % 4 * 64 + ctx * 256 + fieldAt b 21 1 % 64 * 2048 + fieldAt b 20 1 % 64 * 131072
    + ring * 8388608 + last * 2 ^ 48)

/-- End of the ring of an armed channel in the fold area, in units of 256 bytes. -/
def foldTop (x : Fold) : Nat := (foldSlotAddr x 0 + foldSlots x * foldSlotBytes x - 0x20000) / 256

/-- Arm one channel of the owner for a FOLD entry, its ring after those already armed; none where no context, channel or room is left. Where
R278 refuses the arming, because another context holds the group, the channel stays REFUSED and the LAUNCH goes on (DESIGN CHOICE,
assumption 150). -/
def armFold (b : List Byte) (ty : Nat) (es : List ImgEntry) (s : State) (f : SegEntry) : Option State :=
  let k := getCore s f.owner
  let live := k.acc.folds.filter fun p => foldAccepts p.2
  let ring := live.foldl (fun m p => max m (foldTop p.2)) 0
  match imgOwnerCtx es f.owner, (List.range 16).find? fun ch => !foldAccepts (getFold k ch) with
  | some n, some ch =>
    let cfg := foldCfg b ty n ring f.fragLast
    if ring + foldTop { cfg := foldCfg b ty n 0 f.fragLast } > 512 then none
    else match execFoldArm f.owner ch cfg s with
      | .next t => some t
      | _ => none
  | _, _ => none

def armFolds (b : List Byte) (ty : Nat) (es : List ImgEntry) : State → List SegEntry → Option State
  | s, [] => some s
  | s, f :: t => match armFold b ty es s f with
    | some s1 => armFolds b ty es s1 t
    | none => none

/-- The folds of a table, armed; the spec states no accumulator type for them, so that it is a free value. -/
def armAll (s : State) (b : List Byte) (es : List ImgEntry) (folds : List SegEntry) : Option State :=
  if folds.isEmpty then some s else let d := drawFree s; armFolds b (d.1 % 3) es d.2 folds

/-! ### PLACE (R497) -/

/-- Space of a table that passes its header (R290): the status of the check of R487. -/
def tableBad (s : State) (f table : Nat) : Option Nat :=
  match rangeBad s f table 64 with
  | some st => some st
  | none => if segHeaderOk s table then rangeBad s f table (64 + 32 * segEntries s table) else none

/-- Contexts to which the folds of a table are bound (R497). -/
def foldBound (es : List ImgEntry) (folds : List SegEntry) : List (Nat × Nat) :=
  dedup (folds.filterMap fun f => (imgOwnerCtx es f.owner).map fun n => (f.owner, n))

/-- Step 3 of R497: table, counter, ledger and fold channels; the status of a failure, or the state after it. -/
def setupTable (s : State) (f p : Nat) (b : List Byte) (es : List ImgEntry) : Nat × State :=
  let n := fieldAt b 18 1
  let table := fieldAt b 32 8
  let led := fieldAt b 40 8
  let x := getCtr s n
  let setUp (s : State) (st : CtrSt) : State :=
    let s1 := runCounter s n 0 (segClaimable s table) 1 led table (foldBound es ((segList s table).filter (·.kind == 2)))
    setCtr s1 n { getCtr s1 n with st := st, cls := BitVec.ofNat 2 (max 1 (fieldAt b 17 1)), dup := 0, ue := 0 }
  if let some st := tableBad s f table then (st, s)
  else if !tableOk s p table led false then (csSegTable, s)
  else if !(x.assigned && x.part.toNat == p) then (stRegion, s)
  else if s.hif.jobs.any (fun j => j.counter == some n) then (csBusy, s)
  else if !ledgerInside s p led then (stRegion, setUp s .disabled)
  else
    let s1 := ctrState (trace s 2 28) n .disabled
    match armAll s1 b es ((segList s table).filter (·.kind == 2)) with
    | none => (csSegTable, setUp s .disabled)
    | some s2 => (stOk, setUp s2 .running)

/-- A code image loads from instruction address 0; the rest of the instruction memory is zero (R116). -/
def loadCode (s : State) (image : Nat) (e : ImgEntry) : State :=
  if e.codeOff = 0 then s
  else setCore (trace s (0x10 + clusterOf e.core) 34) e.core { getCore s e.core with imem := memWriteN 0 [] 0 (devRead s (image + e.codeOff) e.codeLen) }

/-- The context's registers are written and it starts (R124). -/
def startEntry (s : State) (e : ImgEntry) : State :=
  let x := ctxAt s e.core e.ctx
  let y := started { x with classFloor := BitVec.ofNat 2 e.floor, entry := BitVec.ofNat 15 (e.entry / 2)
                            base := BitVec.ofNat 18 (e.base / 64), bound := BitVec.ofNat 19 (e.bound / 64) }
  setCtx (trace s (0x10 + clusterOf e.core) 35) e.core e.ctx y

/-- ARGS arrive as a firmware message of the scheduler core (R376, R513). -/
def sendArgs (s : State) (e : ImgEntry) : State :=
  if e.argLen = 0 then s
  else
    let m : Message := { src := 0x1FF, srcCtx := 0, len := e.argLen, cls := 1, part := 0xFF, payload := e.args.take e.argLen }
    if (getCore s e.core).mesh.mailbox.length < 64 then acceptFrom s e.core m none else refuseFrom s e.core m none

/-- Step 4 of R497: code, registers, start, arguments; the job is placed. -/
def startImage (s : State) (p : Nat) (b : List Byte) (image : Nat) (counter : Option Nat) (origin : Origin) (firstUe : Nat) : State :=
  let es := imgList s image
  let s1 := es.foldl (fun s e => loadCode s image e) (trace s 2 25)
  let s2 := es.foldl (fun s e => sendArgs (startEntry s e) e) s1
  let j : Job := { launch := launchId b, part := p, origin := origin, ctxs := es.map fun e => (e.core, e.ctx), counter := counter
                   firstUe := firstUe }
  { s2 with hif := { s2.hif with jobs := s2.hif.jobs ++ [j] } }

/-- Addresses that a LAUNCH in PLACE or RECOVER mode names, as far as every LAUNCH reads there: IMAGE, and with a TABLE that and LEDGER
(R487). -/
def namedRanges (b : List Byte) : List (Nat × Nat) :=
  (fieldAt b 24 8, 64) :: if fieldAt b 32 8 = 0 ∧ launchMode b = 0 then [] else [(fieldAt b 32 8, 64), (fieldAt b 40 8, 64)]

/-- Bytes of the image that its checks, its start and its code read. -/
def imageReads (s : State) (f p image : Nat) : List (Nat × Nat) :=
  if !imgHeaderOk s image then [(image, 64)]
  else if (rangeBad s f image (64 + 64 * imgCount s image)).isSome then [(image, 64)]
  else (image, 64 + 64 * imgCount s image) ::
    if (imgBad s f p image).isSome || imgBusy s image then []
    else ((imgList s image).filter (·.codeOff != 0)).map fun e => (image + e.codeOff, e.codeLen)

/-- Bytes of the table, and GEN and SEGMENTS of the ledger, that set-up and recovery read. -/
def tableReads (s : State) (f table led : Nat) : List (Nat × Nat) :=
  if (tableBad s f table).isSome then [(table, 64)]
  else [(table, 64 + if segHeaderOk s table then 32 * segEntries s table else 0), (led + 5, 7)]

/-- Every range that the LAUNCH reads or writes; nothing where an address that it names is refused. -/
def launchRanges (s : State) (f p : Nat) (b : List Byte) : List (Nat × Nat) :=
  if (rangesBad s f (namedRanges b)).isSome then []
  else imageReads s f p (fieldAt b 24 8) ++
    if fieldAt b 32 8 = 0 ∧ launchMode b = 0 then []
    else tableReads s f (fieldAt b 32 8) (fieldAt b 40 8) ++ [(fieldAt b 40 8, ledgerSize s (fieldAt b 40 8))]
      ++ if launchMode b = 2 then [(fieldAt b 48 8, 64 + 32 * segEntries s (fieldAt b 32 8))] else []

/-- The LAUNCH waits while a channel of its ranges serves nothing (R415). -/
def launchHeld (s : State) (f p : Nat) (b : List Byte) : Bool :=
  launchMode b != 1 && (launchRanges s f p b).any fun r => rangeWaits s r.1 r.2

/-- A LAUNCH that is to be performed here waits for its channels; a duplicate or a group launch touches none of them. -/
def launchWaits (s : State) (f p : Nat) (b : List Byte) (group : Bool) : Bool := !knownLaunch s p (launchId b) && !group && launchHeld s f p b

/-- What the checks of the words of image and table find is counted and reported (R411). -/
def launchEcc (s : State) (f p : Nat) (b : List Byte) (ecc : EccHits) : State :=
  let rs := imageReads s f p (fieldAt b 24 8)
    ++ if fieldAt b 32 8 = 0 ∧ launchMode b = 0 then [] else tableReads s f (fieldAt b 32 8) (fieldAt b 40 8)
  if (rangesBad s f (namedRanges b)).isSome then s else hbmEcc s (rs.flatMap fun r => accessHits r.1 r.2 false ecc)

/-- No ledger index, for FIRST_UE_IDX (R488). -/
def noUe : Nat := 0xFFFFFFFF

/-- PLACE for function `f` and partition `p`: the status of a failure or OK, and the state after it. -/
def placeJob (s0 : State) (f p : Nat) (b : List Byte) (origin : Origin) (ecc : EccHits) : Nat × State :=
  let image := fieldAt b 24 8
  match rangesBad s0 f (namedRanges b) with
  | some st => (st, s0)
  | none =>
    let s := launchEcc s0 f p b ecc
    match imgBad s f p image with
    | some st => (st, s)
    | none =>
      if imgBusy s image then (csBusy, s)
      else if fieldAt b 32 8 = 0 then (stOk, startImage s p b image none origin noUe)
      else
        let es := imgList s image
        let r := setupTable s f p b es
        if r.1 = stOk then (stOk, startImage r.2 p b image (some (fieldAt b 18 1)) origin noUe) else r

/-! ### RECOVER (R500, R311, R312) -/

def rangesMeet (a n b m : Nat) : Bool := decide (a < b + m) && decide (b < a + n)

/-- Status of the address check of the rest of an image whose header can be read: its entries and code images (R487). -/
def imgRangeBad (s : State) (f image : Nat) : Option Nat :=
  if !imgHeaderOk s image then none
  else (rangeBad s f image (64 + 64 * imgCount s image)).orElse fun _ =>
    rangesBad s f (((imgList s image).filter (·.codeOff != 0)).map fun e => (image + e.codeOff, e.codeLen))

/-- What R311, R312 and R487 check before the counter is frozen. -/
def recoverBad (s : State) (f p : Nat) (b : List Byte) : Option Nat :=
  let table := fieldAt b 32 8
  let led := fieldAt b 40 8
  let retry := fieldAt b 48 8
  let x := getCtr s (fieldAt b 18 1)
  let size := 64 + 32 * segEntries s table
  if let some st := rangesBad s f (namedRanges b) then some st
  else if let some st := imgRangeBad s f (fieldAt b 24 8) then some st
  else if !(x.assigned && x.part.toNat == p) || !ledgerInside s p led then some stRegion
  else if devNum s (led + 5) 1 = 255 then some csGen
  else if let some st := tableBad s f table then some st
  else if !tableOk s p table led true then some csSegTable
  else if retry % 64 ≠ 0 || spaceOf retry size != .hbm || !regionsOk s (some p) retry size || rangesMeet retry size table size
      || rangesMeet retry size led (64 + 2 * ledgerSegments s led) then some stRegion
  else none

/-- FOLD entries of a table that did not commit, as far as their ledger entries can be read (R310, R311). -/
def openFolds (s : State) (ecc : EccHits) (table led : Nat) : List SegEntry :=
  (segList s table).filter fun e => e.kind == 2 && (entryBad s led e.idx ecc || !entryCommitted (ledgerEntry s led e.idx))

/-- Owner contexts of the uncommitted folds of a table: those to which the latest job on the counter bound the channels of the owner cores, but
for one that is IDLE or that a job of another counter has taken since. -/
def foldOwners (s : State) (n : Nat) (ecc : EccHits) (table led : Nat) : List (Nat × Nat) :=
  let fs := openFolds s ecc table led
  (getCtr s n).owners.filter fun x => fs.any (·.owner == x.1) && (ctxAt s x.1 x.2).st != .idle
    && s.hif.jobs.all fun j => j.counter == some n || !j.ctxs.contains x

/-- A context of a job is over before the job is: it leaves the job's lists and keeps its count as FAULTED. -/
def dropJobCtx (s : State) (x : Nat × Nat) : State :=
  let drop (j : Job) : Job :=
    if j.ctxs.contains x then { j with ctxs := j.ctxs.filter (fun y => y != x), lost := j.lost + (if ctxFaulted s x then 1 else 0) } else j
  { s with hif := { s.hif with jobs := s.hif.jobs.map drop } }

/-- Freeze, advance GEN, and kill the owner contexts of uncommitted folds; those with nothing outstanding are IDLE at once. -/
def recoverFreeze (s : State) (ecc : EccHits) (b : List Byte) : List (Nat × Nat) × State :=
  let n := fieldAt b 18 1
  let led := fieldAt b 40 8
  let s1 := ctrState (trace s 2 29) n .frozen
  let s2 := setLedgerBytes s1 (led + 5) [BitVec.ofNat 8 (devNum s (led + 5) 1 + 1), 1] ecc
  let os := foldOwners s n ecc (fieldAt b 32 8) led
  let s3 := os.foldl (fun s x => idleCtx (dropJobCtx (killCtx s x.1 x.2) x) x.1 x.2) s2
  (os, s3)

/-- The killed owners are IDLE. -/
def ownersIdle (s : State) (ecc : EccHits) (b : List Byte) : Bool :=
  (openFolds s ecc (fieldAt b 32 8) (fieldAt b 40 8)).all fun e =>
    (List.range 8).all fun n => !((ctxAt s e.owner n).killPending)

/-- Re-issue, write the retry table, arm the folds, run the counter, and place the image by steps 1, 2 and 4 of R497. The counter keeps its CLASS,
which R311 does not set (DESIGN CHOICE, assumption 150). -/
def recoverRun (s : State) (ecc : EccHits) (f p : Nat) (b : List Byte) (origin : Origin) : Nat × State :=
  let n := fieldAt b 18 1
  let table := fieldAt b 32 8
  let led := fieldAt b 40 8
  let retry := fieldAt b 48 8
  let image := fieldAt b 24 8
  let gen := devNum s (led + 5) 1
  let firstUe := (((segList s table).filter fun e => entryBad s led e.idx ecc).map (·.idx)).foldl min noUe
  let r := reissueAll (trace s 2 29) n ecc led table gen
  let bs := retryBytes s table r.1 r.2.1
  let s1 := writeTensor (hbmEcc r.2.2 (tensorHits retry bs.length ecc)) retry bs
  let es := if imgHeaderOk s image then imgList s image else []
  match armAll s1 b es r.2.1 with
  | none => (csSegTable, s1)
  | some s2 =>
    let s3 := runCounter s2 n 0 r.1.length gen led retry (foldBound es r.2.1)
    let s4 := setLedgerBytes s3 (led + 6) [0] ecc
    match imgBad s4 f p image with
    | some st => (st, s4)
    | none => if imgBusy s4 image then (csBusy, s4) else (stOk, startImage s4 p b image (some n) origin firstUe)

/-! ### Group launches at a masthead (R463) -/

/-- Members that a launch of the masthead's host names (a free value: the spec lays out no field for them). -/
def groupMembers (s : State) (b : List Byte) : List Nat :=
  if isMasthead s then (Config.launchMembers b).filter fun m => s.fab.group.members.any fun x => x.2.module == m && x.2.st != .removed else []

/-- The launch record goes to every named member as a LAUNCH frame. -/
def distribute (s : State) (f n k p : Nat) (b : List Byte) (ms : List Nat) : State :=
  let s1 := ms.foldl (fun s m => sendCtl s ftGroupCtl p m ccLaunch (b ++ leBytes 1 p)) s
  let g : GroupLaunch := { id := launchId b, fn := f, ring := n, idx := k, since := s.aon, waiting := ms }
  markCmd { s1 with fab := { s1.fab with group := { s1.fab.group with out := s1.fab.group.out ++ [g] } } } f n k .placed

/-! ### The rows -/

/-- A LAUNCH of mode `m` by a VF: a known LAUNCH_ID is refused, a group launch is distributed, any other goes to `body`. -/
def launchCmd (f n k m : Nat) (s : State) (body : State → Nat → HCmd → State) : Out :=
  let waits (c : HCmd) : Bool := launchWaits s f ((fnPart f).getD 0) c.bytes (!(groupMembers s c.bytes).isEmpty)
  runCmd f n k (fun c => cmdOp c == opLaunchCmd && launchMode c.bytes == m && !procWaits s 2 && !waits c) s fun s c =>
    match fnPart f with
    | none => s
    | some p =>
      if knownLaunch s p (launchId c.bytes) then completeCmd s f n k csDup []
      else
        let s1 := keepLaunch s p (launchId c.bytes)
        let ms := groupMembers s1 c.bytes
        if ms.isEmpty then body s1 p c else distribute s1 f n k p c.bytes ms

/-- A placed job's command waits for the job's end; a failure completes it. -/
def afterPlace (f n k : Nat) (r : Nat × State) : State :=
  if r.1 = stOk then markCmd r.2 f n k .placed else completeCmd r.2 f n k r.1 []

def execLaunchPlace (f n k : Nat) (ecc : EccHits) (s : State) : Out :=
  launchCmd f n k 0 s fun s p c => afterPlace f n k (placeJob s f p c.bytes (.command f n k) ecc)

def execLaunchPost (f n k : Nat) (s : State) : Out :=
  launchCmd f n k 1 s fun s p c =>
    match postBad s p c.bytes with
    | some st => completeCmd s f n k st []
    | none =>
      let r := postAll s p (ringClass (getHRing s f n)) c.polled c.bytes
      sweepRing (markCmd r.2 f n k (.posting r.1)) f n

/-- The second half of a recovery, once the killed owners are IDLE. -/
def recoverGo (f n k p : Nat) (ecc : EccHits) (c : HCmd) (s : State) : State :=
  if ownersIdle s ecc c.bytes then afterPlace f n k (recoverRun s ecc f p c.bytes (.command f n k)) else markCmd s f n k .recovering

/-- LAUNCH_RECOVER: the row runs the recovery; where killed owners still have descriptors under way it stops there, and coming again
it goes on. -/
def execLaunchRecover (f n k : Nat) (ecc : EccHits) (s : State) : Out :=
  onRing f n <|
    match (getHRing s f n).cmds.find? fun c => c.idx == k && c.st == .recovering with
    | some c =>
      let p := (fnPart f).getD 0
      .next (if launchHeld s f p c.bytes then s else recoverGo f n k p ecc c s)
    | none =>
      launchCmd f n k 2 s fun s p c =>
        let s1 := launchEcc s f p c.bytes ecc
        match recoverBad s f p c.bytes with
        | some st => completeCmd s1 f n k st []
        | none => recoverGo f n k p ecc c (recoverFreeze s1 ecc c.bytes).2

/-! ### JOB_END (R498) -/

/-- A context of a job is over: HALTED by ECALL or EBREAK, FAULTED or IDLE, with nothing outstanding. -/
def ctxOver (s : State) (x : Nat × Nat) : Bool :=
  let c := ctxAt s x.1 x.2
  outstanding (getCore s x.1) x.2 == 0 &&
    (c.st == .faulted || c.st == .idle || (c.st == .halted && (c.cause.toNat == causeEcall || c.cause.toNat == causeEbreak)))

/-- The job's end: JOB_FAULTED aborts an open epoch of the partition (R459, second case). -/
def execJobEnd (p l : Nat) (s : State) : Out :=
  if p ≥ 16 then .refused .noSuchUnit
  else match s.hif.jobs.find? fun j => j.part == p && j.launch == l && j.cancel.isNone && j.ctxs.all (ctxOver s) with
  | none => .next s
  | some j =>
    if ledgerWaits s j || procWaits s 2 then .next s
    else if jobFaults s j > 0 then .next (abortEpoch (endJob s j csJobFaulted true) p 2)
    else .next (endJob s j stOk true)

end Sys2Proof.Machine
end

