-- ==== Sys2Proof/Machine/Units.lean ====
section
/-! DEFINITION. Machine/Units.lean: commission epochs, units that leave service, and recommission (R29, R174, R613, R616, R623 to R626). -/

namespace Sys2Proof.Machine

open Sys2Proof

/-! ### Epochs (R623) -/

def getCtlEpoch (s : State) (cl : Nat) : Epochs := Tab.get {} s.hub.ctl cl
def setCtlEpoch (s : State) (cl : Nat) (x : Epochs) : State := { s with hub := { s.hub with ctl := Tab.set s.hub.ctl cl x } }

def advCtl (s : State) (cl : Nat) : State := setCtlEpoch s cl { getCtlEpoch s cl with expected := (getCtlEpoch s cl).expected + 1 }
def advStack (s : State) (k : Nat) : State := setStack s k { getStack s k with expected := (getStack s k).expected + 1 }
def advPort (s : State) (p : Nat) : State := setPort s p { getPort s p with expected := (getPort s p).expected + 1 }

/-- Every core and control core is due for recommission. -/
def advAll (s : State) : State := (List.range 16).foldl advCtl ((List.range 272).foldl advPhys s)

/-! ### The state of a core after its reset (R624) -/

/-- A core as recommission leaves it; its row maps stay. -/
def freshCore (s : State) (c : Nat) (k : Core) : Core :=
  { cycle0 := coreSclk s c, spad := { lowBank := k.spad.lowBank, lowLeft := k.spad.lowLeft, mapped := k.spad.mapped } }

/-- The reset of a core that leaves service: its scratchpad's bytes and written-since-commission bits stay, since only commission clears
the bits (R168). -/
def offCore (s : State) (c : Nat) (k : Core) : Core :=
  let f := freshCore s c k
  { f with spad := { f.spad with bytes := k.spad.bytes, written := k.spad.written, written1 := k.spad.written1, written2 := k.spad.written2 } }

def resetCore (s : State) (c : Nat) : State := setCore s c (freshCore s c (getCore s c))
def stopCore (s : State) (c : Nat) : State := setCore s c (offCore s c (getCore s c))

/-! ### Leaving service (R613, R616) -/

/-- A self-test under way is void for case `k` of R629. -/
def voidSelftest (s : State) (k : Nat) : State :=
  { s with hif := { s.hif with selftest := s.hif.selftest.map fun t => if t.void = 0 then { t with void := k } else t } }

/-- A reset or recommission reaches the unit: a test of it is void (R629). A core is tested with its cluster, a channel with its stack. -/
def voidTested (s : State) (kind id : Nat) : State :=
  let cluster := ((List.range 256).find? fun c => physOf s c == some id).map clusterOf
  let hit (u : UnitRef) : Bool := (u.kind == kind && u.id == id) || (kind == ukCore && u.kind == ukCluster && cluster == some u.id)
    || (kind == ukStack && u.kind == ukChannel && u.id / 32 == id)
  match s.hif.selftest with
  | some t => if t.units.any hit then voidSelftest s 1 else s
  | none => s

/-- Core `c` leaves service: its jobs are cancelled, it is reset at once, its position is out and its epoch advances. Cause 1, an
uncorrectable error, suspends bounds as a hardware fault (R526). -/
def outCore (s : State) (c cause : Nat) : State :=
  match physOf s c with
  | none => s
  | some p =>
    let s1 := setPhys s p { getPhys s p with out := some cause, outSince := s.aon, expected := (getPhys s p).expected + 1 }
    let s2 := raise (cancelJobsOn s1 c) 0x060A 3 (partOfCore s c) ukCore p cause 0
    stopCore (if cause = 1 then boundBegin s2 3 ukCore p (unitBounds ukCore) (partOfCore s c) else s2) c

/-- CORE_OUT (R613, R616). -/
def execCoreOut (c cause : Nat) (s : State) : Out :=
  onCore c <| if coreLive s c ∧ 1 ≤ cause ∧ cause ≤ 4 then .next (outCore s c cause) else .next s

/-! ### Retirement (R29, R174) -/

/-- Positions of a row that are retired. -/
def setColMap (s : State) (spar row : Nat) (m : ColMap) : State :=
  { s with hub := { s.hub with colmap := Tab.set s.hub.colmap (spar * 8 + row) m } }

/-- The column map of a row after the core in physical column `p` is retired beside those that `was` names. -/
def mapRetire (m : ColMap) (was : Nat → Bool) (p : Nat) : ColMap :=
  let used := m.skipCol.toNat < 16
  if p < 16 then
    if !used then
      let m1 := { m with skipCol := BitVec.ofNat 5 p }
      if was 16 then { m1 with lost := true, lostCol := 16 } else m1
    else if !m.lost then { m with lost := true, lostCol := BitVec.ofNat 5 p } else { m with rowLost := true }
  else if !used then m
  else if !m.lost then { m with lost := true, lostCol := 16 } else { m with rowLost := true }

/-- Clusters withdrawn after a change and not before it. -/
def newlyWithdrawn (s t : State) : List Nat := (List.range 16).filter fun cl => withdrawn t cl && !withdrawn s cl

/-- A withdrawn cluster belongs to no partition (R30). -/
def leaveParts (s : State) (cls : Nat → Bool) : State :=
  let gone : BitVec 16 := BitVec.ofNat 16 (((List.range 16).filter cls).foldl (fun a c => a + 2 ^ c) 0)
  { s with parts := s.parts.map fun x => (x.1, { x.2 with clusters := x.2.clusters &&& ~~~gone }) }

/-- The column map of the row with the core of a position retired (R29). -/
def retiredRow (s : State) (spar row pcol : Nat) : State :=
  let was (j : Nat) : Bool := (getPhys s (physId spar row j)).retired
  let p := physId spar row pcol
  setColMap (setPhys s p { getPhys s p with retired := true }) spar row (mapRetire (colMap s spar row) was pcol)

/-- Cores whose use ends with a change of column maps from `s` to `t`: those whose logical position gets another core or none, and those
of newly withdrawn clusters. -/
def displaced (s t : State) : List Nat :=
  let new := newlyWithdrawn s t
  (List.range 256).filter fun c => physOf t c != physOf s c || new.contains (clusterOf c)

/-- Work of a job or of a context still uses one of the cores. -/
def coresBusy (s : State) (cs : List Nat) : Bool :=
  s.hif.jobs.any (fun j => j.ctxs.any fun x => cs.contains x.1) || cs.any fun c => (List.range 8).any fun n => (ctxAt s c n).st != .idle

/-- End the work on the cores: their jobs are cancelled, and contexts of no job are killed (R40, R616; assumption 114). -/
def vacate (s : State) (cs : List Nat) : State :=
  let s1 := cancelJobs s stCancelled fun j => j.ctxs.any fun x => cs.contains x.1
  let owned (c n : Nat) : Bool := s1.hif.jobs.any fun j => j.ctxs.contains (c, n)
  cs.foldl (fun s c => (List.range 8).foldl (fun s n =>
    if (ctxAt s c n).st = .idle ∨ owned c n then s else killCtx s c n) s) s1

/-- Retire a position (R29, R30). Cores that lose their position or their cluster with it are first vacated: while work is left on one,
it is cancelled and the retirement waits (R40). Then the column map changes, every such core is due for recommission (R41, R623), and
newly withdrawn clusters leave their partition and are reported. -/
def retireCore (s : State) (spar row pcol : Nat) : State :=
  let p := physId spar row pcol
  let s2 := retiredRow s spar row pcol
  let gone := displaced s s2
  if coresBusy s gone then vacate s gone
  else
    let held := (List.range 256).find? fun c => physOf s c == some p
    let part := match held with | some c => partOfCore s c | none => none
    let new := newlyWithdrawn s s2
    let s3 := gone.foldl advCore s2
    let s4 := raise s3 0x060B 3 none ukCore p (held.getD 0xFFFF) 0
    leaveParts (new.foldl (fun s cl => raise s 0x060C 3 part ukCluster cl 1 0) s4) new.contains

/-! ### Recommission (R624) -/

/-- A core of the position has a bank without enough spare rows (R174). -/
def posExhausted (s : State) (p : Nat) : Bool := (List.range 32).any (bankExhausted (failingOf s p))

/-- The row map of the position is made of its fuse and field entries, and SPD_SPARES loads (R171, R172, R176). -/
def applyRowMap (s : State) (p : Nat) (held : Option Nat) : State :=
  let l := failingOf s p
  let s1 := setPhys (trace s (ctlSource s p) 37) p { getPhys s p with applied := l }
  let left := (List.range 32).foldl (fun m b => min m (sparesLeft l b)) 16
  match held with
  | none => s1
  | some c =>
    let k := getCore s1 c
    setCore s1 c { k with spad := { k.spad with
      lowBank := BitVec.ofNat 5 (((List.range 32).find? fun b => sparesLeft l b == left).getD 0)
      lowLeft := BitVec.ofNat 5 left
      mapped := BitVec.ofNat 10 ((l.filter (fun e => decide (e.2 < 2048))).length) } }

/-- A core that fails its self-test: every spare row and one main row of one bank enter the table (R624; the bank is the model's
choice, assumption 16). -/
def failWhole (s : State) (p : Nat) : State :=
  (0 :: (List.range 16).map (2048 + ·)).foldl (fun s r => addFailing s p (0, r)) s

/-- The security core sets CORE_C0.EN of a commissioned core again (R516). -/
def restoreC0 (s : State) (c : Nat) : State :=
  let k := getCore s c
  let on : Bool := match partOfCore s c with | some p => (getPart s p).c0Cores.contains c | none => false
  setCore s c { k with mesh := { k.mesh with c0En := on } }

/-- The commission of a position: the core at it, if any, is reset, and its epoch is the expected one. -/
def commissionCore (s : State) (p : Nat) : State :=
  let x := getPhys s p
  let held := (List.range 256).find? fun c => physOf s c == some p
  let s1 := setPhys s p { x with epoch := x.expected, out := none }
  match held with
  | some c => raise (restoreC0 (applyRowMap (resetCore s1 c) p (some c)) c) 0x061B 0 (partOfCore s c) ukCore p x.expected.toNat 0
  | none => raise (applyRowMap s1 p none) 0x061B 0 none ukCore p x.expected.toNat 0

/-- Hardware-fault suspensions of the units that `p` holds of end with their recommission (R526). -/
def endFaults (s : State) (p : Nat → Nat → Bool) : State :=
  (s.hub.susp.filter fun x => x.cause == 3 && x.active && p x.kind x.unit).foldl (fun s x => boundEnd s 3 x.kind x.unit none) s

/-- A physical position that the module has. -/
def onPosition (spar row pcol : Nat) (k : Out) : Out := if spar < 2 ∧ row < 8 ∧ pcol < 17 then k else .refused .noSuchUnit

/-- CORE_RECOMMISSION: a core that left service for cause 1 or 2 is tested first; one that fails, or has an exhausted bank, is retired
(R174, R624). -/
def execCoreRecommission (spar row pcol : Nat) (passes : Bool) (s : State) : Out :=
  onPosition spar row pcol <|
    let p := physId spar row pcol
    let x := getPhys s p
    if x.retired ∨ procWaits s (ctlSource s p) ∨ sparLost s spar ∨ x.epoch = x.expected ∨ s.pwr.state.toNat ≥ 4 then .next s
    else if !passes ∧ (x.out = some 1 ∨ x.out = some 2) then .next (voidTested (retireCore (failWhole s p) spar row pcol) ukCore p)
    else if posExhausted s p then .next (voidTested (retireCore s spar row pcol) ukCore p)
    else .next (voidTested (endFaults (commissionCore s p) fun k u => k == ukCore && u == p) ukCore p)

/-- CONTROL_CORE_RECOMMISSION: one that R620 has left out does not load. -/
def execControlCoreRecommission (cl : Nat) (s : State) : Out :=
  if cl ≥ 16 then .refused .noSuchUnit
  else
    let x := getCtlEpoch s cl
    if x.epoch = x.expected ∨ procWaits s (0x10 + cl) ∨ s.fwc.dead.contains (0x10 + cl) ∨ sparLost s (cl / 8) ∨ s.pwr.state.toNat ≥ 4 then .next s
    else .next (voidTested (raise (setCtlEpoch s cl { x with epoch := x.expected }) 0x061B 0 (partOfCluster s cl) ukCluster cl x.expected.toNat 0) ukCluster cl)

/-! #### HBM stacks (R413, R414, R416, R418, R420, R625) -/

/-- The state of every region that no partition holds is derived again from the failed channels (R409, R414). -/
def rederiveAll (s : State) : State := (List.range 768).foldl rederive s

/-- A channel needs a spare bank; a second one makes it fail, which withdraws the regions that its storage is part of once no partition
holds them (R414). -/
def needSpare (s : State) (ch : Nat) : State :=
  let x := getChan s ch
  if x.spareBanks = 0 then setChan s ch { x with spareBanks := 1 }
  else if x.failed then s
  else
    let hit := (List.range 768).filter fun r => (regionStacks s r).contains (ch / 32)
    raise (setChan s ch { x with failed := true }) 0x060E 3 none ukChannel ch hit.length 0

/-- A commission restores a channel, with its spare bank (R409; assumption 139). -/
def restoreChan (s : State) (ch : Nat) : State :=
  let x := getChan s ch
  if x.failed then setChan s ch { x with failed := false, spareBanks := 0 } else s

/-- Soft repair of a stack: the rows of the repair list in it are re-mapped to spare rows (R413). -/
def softRepair (s : State) (st : Nat) : State :=
  { s with hbm := { s.hbm with remapped := (((repairList s).filterMap repairEntry).filter fun k => k % 256 / 32 == st).foldl (fun l k => insertNat k l) s.hbm.remapped } }

/-- The repairs of a commission: soft repair, then spare banks for the channels `failed` that have a bank with too few spare rows, with those
of `restored` in service again (R413, R414, R418). -/
def repairStack (s : State) (st : Nat) (failed restored : List Nat) : State :=
  let s1 := restored.foldl (fun s ch => restoreChan s (st * 32 + ch)) (softRepair s st)
  rederiveAll (failed.foldl (fun s ch => needSpare s (st * 32 + ch)) s1)

/-- The stack's contents are lost: its bytes read as memory that nothing has written (assumption 5), and its content epoch advances. -/
def loseContent (s : State) (st : Nat) : State :=
  setStack { s with hbm := { s.hbm with bytes := s.hbm.bytes.filter fun c => (hbmMap s c.1).1 != st } } st
    { getStack s st with content := (getStack s st).content + 1 }

/-- Assigned regions whose recorded content epoch of the stack is over are reported lost. -/
def reportLost (s : State) (st : Nat) : State :=
  (List.range 768).foldl (fun s r =>
    let g := getRegion s r
    if g.st = .assigned ∧ g.recorded.any (fun x => x.1 == st && x.2 != (getStack s st).content) then
      raise s 0x060F 2 (some g.part.toNat) ukNone 0 r 0
    else s) s

/-- The stack's channels after full training: no retraining under way, counts of the new epoch at zero; the requests that waited are
served (R416, R417). -/
def trainStack (s : State) (st : Nat) : State :=
  let s1 := (List.range 32).foldl (fun s ch => setChan s (st * 32 + ch) { getChan s (st * 32 + ch) with retraining := false, last := s.aon }) s
  let s2 := { s1 with hbm := { s1.hbm with rowCe := s1.hbm.rowCe.filter fun x => x.1 % 256 / 32 != st } }
  serveHbm (setStack s2 st { getStack s2 st with epoch := (getStack s2 st).expected, trained := true, selfRefresh := false })

def execStackRecommission (st : Nat) (kept : Bool) (failed restored : List Nat) (s : State) : Out :=
  if st ≥ 8 ∨ failed.any (· ≥ 32) ∨ restored.any (· ≥ 32) then .refused .noSuchUnit
  else
    let x := getStack s st
    if x.epoch = x.expected ∨ s.pwr.state = 5 then .next s
    else
      let s1 := interruptScrubs s fun r => (regionStacks s r).contains st
      let s2 := repairStack s1 st failed restored
      let s3 := trainStack (if kept then s2 else loseContent s2 st) st
      let s4 := endFaults s3 fun k u => (k == ukStack && u == st) || (k == ukChannel && u / 32 == st)
      .next (settleJobs (voidTested (reportLost (raise s4 0x061B 0 none ukStack st x.expected.toNat 0) st) ukStack st))

/-- HBM_RETRAIN_END: the channel serves its waiting requests, and cancels that waited for it go on (R415). -/
def execHbmRetrainEnd (st ch : Nat) (s : State) : Out :=
  onChan st ch <|
    let c := getChan s (st * 32 + ch)
    if !c.retraining then .next s
    else
      let s1 := setChan s (st * 32 + ch) { c with retraining := false }
      .next (settleJobs (serveHbm { s1 with hbm := { s1.hbm with
        retrains := satAdd s1.hbm.retrains 1
        pauseMax := BitVec.ofNat 16 (max s1.hbm.pauseMax.toNat (satField 16 ((s.aon - c.since) * 20))) } }))

/-! ### Suspensions of bounds that end (R526) -/

/-- BOUND_RESUME: a hardware-fault suspension of a unit ends 1 s after its latest fault. -/
def execBoundResume (u : UnitRef) (s : State) : Out :=
  let x := suspAt s 3 u.kind u.id
  if x.active ∧ s.aon ≥ x.since + secAon then .next (boundEnd s 3 u.kind u.id none) else .next s

end Sys2Proof.Machine
end

