-- ==== Sys2Proof/Machine/Keying.lean ====
section
/-! DEFINITION. Machine/Keying.lean: training, keying and rekeying of the optical ports, and their recommission (R423, R427, R428, R430,
R449, R573, R574, R624, R626). -/

namespace Sys2Proof.Machine

open Sys2Proof

/-! ### Keying messages (R574) -/

/-- The bytes of a message in the keying channel. -/
def keyMsgBytes (kind : Nat) (body : List Byte) : List Byte :=
  let m := leBytes 2 body.length ++ leBytes 1 kind ++ [0] ++ body
  m ++ leBytes 4 (crc32c m)

/-- The next index of an on-chip random value. -/
def nextRandom (s : State) : Nat × State := (s.sec.random, { s with sec := { s.sec with random := s.sec.random + 1 } })

def getCred (s : State) (k : Nat) : Cred := Tab.get {} (credTable s) k

/-- The handshake starts again a second later (R573). -/
def keyLater (s : State) (p : Nat) : State :=
  setPort s p { getPort s p with keying := { failed := some s.aon }, keyBytes := [], keyIn := [] }

/-- The handshake fails, which is logged (R573). -/
def failKeying (s : State) (p : Nat) : State := keyLater (securityRecord s 0x0402 0xFF 0 p) p

/-- This side's HELLO; without a domain key or a certificate the port stays in KEYING (R573 step 1). -/
def startKeying (s : State) (p : Nat) : State :=
  if (getCred s 18).data.isEmpty ∨ (getCred s 19).data.isEmpty then keyLater s p
  else
    let r1 := nextRandom s
    let r2 := nextRandom r1.2
    let body := leBytes 2 (ownModule s) ++ [0, 0] ++ Config.idDsaKey ++ Config.idKemKey ++ (getCred s 19).data ++ Config.nonce r1.1
      ++ Config.kemEphemeral r2.1
    setPort r2.2 p { getPort s p with keying := { hello := body, eph := r2.1 }, keyBytes := keyMsgBytes 1 body }

/-! ### Training (R423, R427, R434) -/

/-- The port enters KEYING: the division of its receive queue takes effect and its counters start. -/
def enterKeying (s : State) (p : Nat) : State :=
  let x := getPort s p
  let d := cfgCredits x.cfg
  let s1 := setPort s p { x with division := d, txSeq := 0, rxSeq := 0, lctlSeq := 0, spent := [0, 0, 0, 0], granted := [0, 0, 0, 0]
                                 returned := d, nakDue := false, naks := (0, 0), txSwitch := none, rxSwitch := none, rekeyed := false
                                 rekeyedCtl := false, keyAsked := false, keyIn := [], resend := [] }
  startKeying (setPortSt s1 p .keying true) p

/-- PORT_TRAINED: the lanes have trained; with fewer than four working ones the port goes DOWN. -/
def execPortTrained (p : Nat) (s : State) : Out :=
  onPort p <|
    let x := getPort s p
    if x.st ≠ .training ∨ !x.light ∨ x.epoch ≠ x.expected then .next s
    else .next (if (workingLanes x).length < 4 then setPortSt s p .down false else enterKeying s p)

/-! ### The handshake (R573) -/

/-- The complete message at the front of the keying bytes that have come, and the bytes behind it (R574). -/
def frontMsg (l : List Byte) : Option (KeyMsg × List Byte) :=
  let n := fieldAt l 0 2
  if l.length < n + 8 then none
  else some ({ kind := fieldAt l 2 1, body := (l.drop 4).take n, crcOk := fieldAt l (n + 4) 4 == crc32c (l.take (n + 4)) }, l.drop (n + 8))

/-- A port in KEYING whose handshake runs takes the message that stands in front of its keying bytes, of kind `kind`; any other message fails the
handshake. While the security core's queue is full the message waits (R545, R584). -/
def keyMsg (p kind len : Nat) (m : KeyMsg) (s : State) (k : State → Port → State) : Out :=
  onPort p <|
    let x := getPort s p
    match frontMsg x.keyIn with
    | none => .next s
    | some (m0, rest) =>
      if x.st ≠ .keying ∨ x.keying.failed.isSome ∨ m0 ≠ m ∨ (logQueue s 0).length ≥ 64 then .next s
      else if m.crcOk && m.kind == kind && m.body.length == len then
        .next (k (setPort s p { x with keyIn := rest }) { x with keyIn := rest })
      else .next (failKeying s p)

def fabricCtx : List Byte := labelBytes "KNALAR-FABRIC"
def linkCtx : List Byte := labelBytes "KNALAR-LINK"

/-- Fields of a HELLO body. -/
def helloId (b : List Byte) : Nat := fieldAt b 0 2 % 32768
def helloDsa (b : List Byte) : List Byte := (b.drop 4).take 2592
def helloKem (b : List Byte) : List Byte := (b.drop 2596).take 1568
def helloCert (b : List Byte) : List Byte := (b.drop 4164).take 4627
def helloEph (b : List Byte) : List Byte := (b.drop 8823).take 1568

/-- The peer's certificate verifies under the domain key. -/
def certOk (s : State) (b : List Byte) : Bool :=
  Config.dsaVerify (getCred s 18).data fabricCtx (Config.shake256 (helloDsa b) 64 ++ Config.shake256 (helloKem b) 64) (helloCert b)

/-- KEYING_HELLO: a peer with the module's own id leaves the port DOWN; a certified one gets this side's ENCAP. -/
def execKeyingHello (p : Nat) (m : KeyMsg) (s : State) : Out :=
  keyMsg p 1 10391 m s fun s x =>
    let id := helloId m.body
    if id = ownModule s then raise (setPortSt s p .down false) 0x0612 3 none ukPort p id 0
    else if !certOk s m.body || m.body.getD 1 0 &&& 0x80#8 != 0 then failKeying s p
    else
      let r := nextRandom s
      let e := Config.kemEncaps (helloEph m.body) r.1
      setPort r.2 p { x with peer := BitVec.ofNat 15 id, keyBytes := x.keyBytes ++ keyMsgBytes 2 e.1
                             keying := { x.keying with peerHello := m.body, encap := e.1, secret := e.2 } }

/-- The transcript hash T. -/
def linkTranscript (s : State) (k : Keying) : List Byte :=
  if ownModule s < helloId k.peerHello then Config.shake256 (k.hello ++ k.peerHello ++ k.encap ++ k.peerEncap) 64
  else Config.shake256 (k.peerHello ++ k.hello ++ k.peerEncap ++ k.encap) 64

/-- ENCAP: the peer's ciphertext gives its secret, and this side signs the transcript. -/
def execEncap (p : Nat) (m : KeyMsg) (s : State) : Out :=
  keyMsg p 2 1568 m s fun s x =>
    if x.keying.peerHello.isEmpty then failKeying s p
    else
      let k : Keying := { x.keying with peerEncap := m.body, peerSecret := Config.kemDecapsEph x.keying.eph m.body, signed := true }
      setPort s p { x with keying := k, keyBytes := x.keyBytes ++ keyMsgBytes 3 (Config.dsaSign linkCtx (linkTranscript s k)) }

/-- The link secret L. -/
def linkSecretOf (s : State) (k : Keying) : List Byte :=
  let lo := if ownModule s < helloId k.peerHello then k.secret ++ k.peerSecret else k.peerSecret ++ k.secret
  Config.shake256 (lo ++ linkTranscript s k) 64

/-- The frames of the retry buffer are to go out again with new LSEQs, as resent ones where the peer has changed (R449). -/
def resendKept (x : Port) : Port :=
  let diff := match x.lastPeer with | some q => q != x.peer.toNat | none => false
  let fs := (x.kept.zipIdx).map fun (e : Frame × Nat) => { e.1 with lseq := e.2, flags := { e.1.flags with resent := e.1.flags.resent || diff } }
  { x with kept := fs, resend := fs, txSeq := fs.length }

/-- The port comes UP on eight lanes, or DEGRADED on four with fewer that work, under the keys of L (R423, R427); with a different peer it aborts
the epochs that use it (R459). -/
def comeUp (s : State) (p : Nat) (x : Port) : State :=
  let l := linkSecretOf s x.keying
  let y := resendKept { x with linkSecret := l, txKey := dirKey l (ownModule s), rxKey := dirKey l x.peer.toNat, keying := {}, keyBytes := [], keyIn := [] }
  let s1 := setPortSt (setPort s p y) p (if (workingLanes y).length = 8 then .up else .degraded) false
  if x.lastPeer.any (· != x.peer.toNat) then abortOver s1 p else s1

/-- SIGN: the peer's signature of the transcript ends the handshake. -/
def execSign (p : Nat) (m : KeyMsg) (s : State) : Out :=
  keyMsg p 3 4627 m s fun s x =>
    if x.keying.signed && Config.dsaVerify (helloDsa x.keying.peerHello) linkCtx (linkTranscript s x.keying) m.body then comeUp s p x
    else failKeying s p

def execKeyingRetry (p : Nat) (s : State) : Out :=
  onPort p <|
    match (getPort s p).keying.failed with
    | some t => if (getPort s p).st = .keying ∧ s.aon ≥ t + secAon then .next (startKeying s p) else .next s
    | none => .next s

/-! ### Key changes (R430, R574) -/

/-- REKEY: one of the two counters has passed 2^46 for the first time, and this side names the LSEQ of its switch. -/
def execRekey (p : Nat) (s : State) : Out :=
  onPort p <|
    let x := getPort s p
    let data := !x.rekeyed && decide (x.txSeq > 2 ^ 46)
    let ctl := !x.rekeyedCtl && decide (x.lctlSeq > 2 ^ 46)
    if portOpen x ∧ (data ∨ ctl) ∧ x.txSwitch = none ∧ x.rxSwitch = none ∧ !x.keyAsked then
      let y := { nameKeySwitch x with keyAsked := true, rekeyed := x.rekeyed || data, rekeyedCtl := x.rekeyedCtl || ctl }
      .next (setPort (trace s 0 10) p y)
    else .next s

/-- KEY_SWITCH: a direction changes to its new key at the LSEQ that its transmitter named. -/
def execKeySwitch (p : Nat) (tx : Bool) (s : State) : Out :=
  onPort p <|
    let x := getPort s p
    match if tx then x.txSwitch else x.rxSwitch with
    | none => .next s
    | some q =>
      if (if tx then x.txSeq else x.rxSeq) < q then .next s
      else if tx then .next (setPort s p { x with txSwitch := none, txKey := dirKey x.linkSecret (ownModule s) })
      else .next (setPort s p { x with rxSwitch := none, rxKey := dirKey x.linkSecret x.peer.toNat })

/-! ### Recommission of a port (R624, R626) -/

/-- The lane that the spare replaces in a port that trains on the wavelengths `good`: the lowest lane whose own wavelength does not test good, if
the spare does (R427, log entry 48). -/
def spareFor (good : List Nat) : BitVec 4 :=
  if good.contains 8 then BitVec.ofNat 4 (((List.range 8).find? fun l => !good.contains l).getD 15) else 0xF

/-- PORT_RECOMMISSION: a stale port trains on the wavelengths that test good, keys again, and its attachments are dropped. -/
def execPortRecommission (p : Nat) (good : List Nat) (s : State) : Out :=
  onPort p <|
    let x := getPort s p
    if x.epoch = x.expected ∨ s.pwr.state = 5 ∨ s.fwc.st = 0 then .next s
    else
      let s1 := setPort s p { x with epoch := x.expected, bad := (List.range 9).filter fun l => !good.contains l, spare := spareFor good
                                     swapping := none, swapAt := none }
      let s2 := dropAttachments (setPortSt s1 p .training false) p
      .next (endFaults (raise s2 0x061B 0 none ukPort p x.expected.toNat 0) fun k u => k == ukPort && u == p)

end Sys2Proof.Machine
end

