-- ==== Sys2Proof/Machine/Selftest.lean ====
section
/-! DEFINITION. Machine/Selftest.lean: SELFTEST (R44, R506, R628, R629). -/

namespace Sys2Proof.Machine

open Sys2Proof

/-! ### What is tested (R44, R628) -/

/-- Positions of spare cores: they hold no logical column, and are not retired. -/
def spareCores (s : State) : List Nat :=
  (List.range 16).flatMap fun n =>
    let used := (List.range 16).filterMap (physicalColumn (colMap s (n / 8) (n % 8)))
    ((List.range 17).filter fun j => !used.contains j && !(getPhys s (physId (n / 8) (n % 8) j)).retired && !sparLost s (n / 8)).map
      (physId (n / 8) (n % 8))

def clusterIn (s : State) (cl : Nat) : Bool := !withdrawn s cl && !sparLost s (cl / 8)

/-- The units of a test, in order. -/
def testUnits (s : State) (kind : Nat) : List UnitRef :=
  let cls := (List.range 16).filter fun cl => clusterIn s cl && (kind == 1 || (partOfCluster s cl).isNone)
  let cores := cls.map (fun cl => ({ kind := ukCluster, id := cl } : UnitRef)) ++ (spareCores s).map fun p => { kind := ukCore, id := p }
  if kind = 0 then cores
  else cores ++ ((List.range 2).filter fun d => !sparLost s d).map (fun d => ({ kind := ukSpar, id := d } : UnitRef))
    ++ ((List.range 256).filter fun c => !(getChan s c).failed).map fun c => { kind := ukChannel, id := c }

/-- Some partition holds a cluster. -/
def anyCluster (s : State) : Bool := (List.range 16).any fun n => partLive (getPart s n) && (getPart s n).clusters != 0

/-! ### The result buffer (R629) -/

/-- One entry: a unit that fails carries a count and a first position that the spec leaves to the test (free values). -/
def testEntry (fails : List TestFail) (a : State × List Byte × Nat) (u : UnitRef) : State × List Byte × Nat :=
  let s := a.1
  let void : Bool := match s.hif.selftest with | some t => t.void != 0 | none => false
  let d := drawFree s
  let skipped := void && d.1 % 2 == 1
  let failed := !skipped && fails.any fun f => f.unit == u
  let n := drawFree (if void then d.2 else s)
  let q := drawFree n.2
  let head := leBytes 1 u.kind ++ leBytes 1 (if skipped then 2 else if failed then 1 else 0) ++ leBytes 2 u.id
  if failed then (q.2, a.2.1 ++ head ++ leBytes 4 n.1 ++ leBytes 8 q.1, a.2.2 + 1)
  else (if void then d.2 else s, a.2.1 ++ head ++ List.replicate 12 0, a.2.2)

def testHeader (t : SelfTest) (failed now : Nat) : List Byte :=
  leBytes 4 0x54584B4E ++ [1] ++ leBytes 1 t.kind ++ leBytes 1 (if t.void = 0 then 0 else 1) ++ leBytes 1 t.void
    ++ leBytes 4 t.units.length ++ leBytes 4 failed ++ leBytes 8 t.start ++ leBytes 8 now

/-! ### What a test leaves (R175, R624, R628) -/

/-- A failing core: its rows enter the field table, or it is retired as a whole. -/
def testCore (s : State) (x : Nat × List (Nat × Nat)) : State :=
  if x.1 ≥ 272 ∨ (getPhys s x.1).retired then s
  else if x.2.isEmpty then retireCore (advPhys (failWhole s x.1) x.1) (x.1 / 136) (x.1 % 136 / 17) (x.1 % 17)
  else x.2.foldl (fun s e => addFailing s x.1 e) s

/-- After KIND 1 every core and every tested stack is due for recommission, and the tested regions are scrubbed. -/
def afterFull (s : State) : State :=
  let s1 := (List.range 272).foldl advPhys s
  let s2 := (List.range 8).foldl advStack s1
  (List.range 768).foldl (fun s r =>
    let x := getRegion s r
    if x.st = .free ∨ x.st = .quarantined then scrubBegin (setRegion s r { x with st := .quarantined }) r else s) s2

/-- The test ends: result buffer, event, retirements, and the command's record. -/
def endSelftest (s : State) (t : SelfTest) (dst : Nat) (fails : List TestFail) : State :=
  let r := t.units.foldl (testEntry fails) (s, [], 0)
  let bs := testHeader t r.2.2 s.aon ++ r.2.1
  let s1 := devWrite (touch r.1 dst bs.length true) dst bs
  let reached := if t.void = 0 then fails.filter fun f => t.units.contains f.unit else []
  let s2 := (reached.flatMap (·.cores)).foldl testCore { s1 with hif := { s1.hif with selftest := none } }
  let s3 := raise s2 0x061A 0 none ukNone 0 (satField 16 r.2.2 + (if t.void = 0 then 0 else 65536)) 0
  let s4 := if t.kind = 1 then afterFull s3 else s3
  completeCmd s4 t.fn t.ring t.idx stOk (leBytes 2 r.2.2 ++ leBytes 1 (if t.void = 0 then 0 else 1))

/-- The result buffer waits for a channel (R415). -/
def resultHeld (s : State) (t : SelfTest) (dst : Nat) : Bool := rangeWaits s dst (32 + 16 * t.units.length)

def selftestDst (c : HCmd) : Nat := fieldAt c.bytes 16 8

/-- The test begins, unless a partition holds a cluster under KIND 1, or the result does not fit. -/
def beginSelftest (s : State) (f n k : Nat) (c : HCmd) : State :=
  let kind := fieldAt c.bytes 8 1
  let us := testUnits s kind
  if kind = 1 ∧ anyCluster s then completeCmd s f n k csBusy []
  else match rangeBad s f (selftestDst c) (fieldAt c.bytes 24 4) with
  | some st => completeCmd s f n k st []
  | none =>
    if fieldAt c.bytes 24 4 < 32 + 16 * us.length then completeCmd s f n k stShape []
    else { s with hif := { s.hif with selftest := some { fn := f, ring := n, idx := k, kind := kind, start := s.aon, units := us } } }

/-- SELFTEST: the row starts the test, and coming again ends it with the units that have failed. -/
def execSelftest (f n k : Nat) (fails : List TestFail) (s : State) : Out :=
  onRing f n <|
    match s.hif.selftest, (getHRing s f n).cmds.find? fun (c : HCmd) => c.idx == k with
    | some t, some c => if t.fn = f ∧ t.ring = n ∧ t.idx = k ∧ !resultHeld s t (selftestDst c) then .next (endSelftest s t (selftestDst c) fails) else .next s
    | some _, none => .next s
    | none, _ => runCmd f n k (fun c => cmdOp c == opSelftestCmd) s fun s c => beginSelftest s f n k c

end Sys2Proof.Machine
end

