-- ==== Sys2Proof/Machine/HostReset.lean ====
section
/-! DEFINITION. Machine/HostReset.lean: control sessions that end (R559), IDE streams (R572), the PCIe link and its failures (R468, R469,
R473, R476), function-level and hot resets (R510, R511, R639). -/

namespace Sys2Proof.Machine

open Sys2Proof

/-! ### Sessions -/

/-- Partition of a session's records. -/
def sessPart (k : Nat) : Nat := if 1 ≤ k ∧ k ≤ 16 then k - 1 else 0xFF

/-- UPDATE while nothing is staged: COMMITTED while another image than the running one is committed (assumption 144). -/
def restingUpdate (s : State) : BitVec 4 := if committedRuns s then 0 else 2

/-- Update ownership ends with the session (R548). -/
def dropOwner (s : State) (id : Nat) : State :=
  if s.fwc.owner = some id then
    { s with fwc := { s.fwc with owner := none, staging := false, update := if s.fwc.update = 1 then restingUpdate s else s.fwc.update } }
  else s

/-- The session of an interface ends: it is recorded, and what a proof has counted stays (R559, R563). While the security core's queue is full
the end waits (R545, R584). -/
def closeSession (s : State) (k : Nat) : State :=
  let x := getSess s k
  if !x.opened then s
  else if (logQueue s 0).length ≥ 64 then setSess s k { x with closing := true }
  else
    let s1 := securityRecord s 0x0401 (sessPart k) x.id k
    dropOwner (setSess s1 k { fails := x.fails, locked := x.locked, lockLen := x.lockLen }) x.id

/-- The ends that wait take place as far as the queue has room. -/
def settleClosing (s : State) : State := (List.range 18).foldl (fun s k => if (getSess s k).closing then closeSession s k else s) s

/-! ### IDE streams (R572) -/

def eraseIde (s : State) (f : Nat) : State := { s with sec := { s.sec with ide := Tab.erase s.sec.ide f } }

/-- A request to function `f` that arrives outside the stream to which its open session is bound; a stream that KEY_SET_STOP has stopped is
none (R572). -/
def outsideStream (s : State) (f : Nat) (inStream : Bool) : Bool :=
  (getSess s f).opened && (getSess s f).ide && (!inStream || (Tab.find s.sec.ide f).isNone)

/-- Secret of the pending handshake on a function, else of its open session. -/
def ideSecret (s : State) (f : Nat) : Option (List Byte) :=
  match s.sec.handshakes.find? fun h => h.target == f with
  | some h => some h.secret
  | none => if (getSess s f).opened then some (getSess s f).secret else none

def onFunction (f : Nat) (k : Out) : Out := if f ≤ 16 then k else .refused .noSuchUnit

/-- The six keys of 32 bytes and IV seeds of 8 that the output over S ‖ "IDE" ‖ F gives (R572). -/
def ideKeys (secret : List Byte) (f : Nat) : List (List Byte × List Byte) :=
  let b := Config.shake256 (secret ++ labelBytes "IDE" ++ leBytes 1 f) 240
  (List.range 6).map fun i => ((b.drop (40 * i)).take 32, (b.drop (40 * i + 32)).take 8)

/-- KEY_SET_GO: the function's stream is Secure with the keys of its session secret. -/
def execKeySetGo (f : Nat) (s : State) : Out :=
  onFunction f <| match ideSecret s f with
    | some x => .next { s with sec := { s.sec with ide := Tab.set s.sec.ide f (ideKeys x f) } }
    | none => .next s

def execKeySetStop (f : Nat) (s : State) : Out := onFunction f <| .next (eraseIde s f)

/-! ### Failed reads and BAR2 (R473, R476) -/

/-- The burst reads the host window and awaits its data. -/
def hostRead (b : Burst) : Bool := b.issued && !b.done && readsHost b

/-- Commands whose execution reads host memory. -/
def cmdReadsHost (c : HCmd) : Bool := [1, 2, 4, 10].contains (cmdOp c)

/-- COMPLETION_FAILURE: the read fails, and so does what owns it. -/
def execCompletionFailure (f : Nat) (o : ReadOwner) (s : State) : Out :=
  onFunction f <| match o with
    | .descriptor c n seq idx =>
      onCtx c n <|
        (match findRun (getCore s c) n seq with
          | none => .next s
          | some r => match r.bursts.find? fun b => b.idx == idx && hostRead b with
            | none => .next s
            | some b => .next (finishBurst (countAer s) c r b stUncorr false))
    | .command ring k => runCmd f ring k cmdReadsHost s fun s _ => completeCmd (countAer s) f ring k csHostAccess []
    | .doorbell ring =>
      onRing f ring <|
        if ringServed s f (getHRing s f ring) then .next (ringError (countAer s) f ring 2) else .next s

/-- BAR2_ACCESS: the debug window reaches HBM while debug is enabled; a read returns the bytes of its addresses. -/
def execBar2Access (inStream : Bool) (off : Nat) (data : Option (List Byte)) (len : Nat) (ecc : EccHits) (s : State) : Out :=
  let n := match data with | some d => d.length | none => len
  if !s.sec.debug ∨ outsideStream s 0 inStream ∨ off + n > hbmEnd then .next (countAer s)
  else .next (if data.isNone then bar2Read s off len ecc else hbmAccess s off data len ecc)

/-! ### Function-level resets (R510, R511, R639) -/

/-- The channel is a ring of function `f`. -/
def chanOfFn (f : Nat) (ch : Channel) : Bool := match ch with | .ring g _ => g == f | _ => false

/-- A response that waits for an activation's end goes nowhere once its channel is reset. -/
def dropReply (s : State) (p : Channel → Bool) : State :=
  let keep (r : ReplyTo) : Bool := match r.via with | .waiting ch => !p ch | _ => true
  { s with fwc := { s.fwc with requests := s.fwc.requests.filter (fun r => !p r.ch), act := s.fwc.act.filter keep } }

/-- Rings, event queue and vectors of a function at their reset values; jobs of its commands report nowhere. -/
def resetFn (s : State) (f : Nat) : State :=
  let s1 := dropReply (setEvq (setFn s f {}) f {}) (chanOfFn f)
  let mute (j : Job) : Job := match j.origin with
    | .command g _ _ => if g = f then { j with origin := .frame j.launch } else j
    | .frame _ => j
  { s1 with hif := { s1.hif with jobs := s1.hif.jobs.map mute } }

/-- Session, IDE stream and registers of a function. -/
def dropFn (s : State) (f : Nat) : State := eraseIde (closeSession (resetFn s f) f) f

/-- The core writes no byte of host memory any more. -/
def muteHost (s : State) (c : Nat) : State := let k := getCore s c; setCore s c { k with dma := { k.dma with hostMute := true } }

/-- FLR of a VF: its function is reset at once and its cores write no byte of host memory any more; the contexts are killed once the fences of
its jobs are reached (R511). -/
def flrVf (s : State) (f : Nat) : State :=
  let p := f - 1
  let s1 := (partCores s p).foldl muteHost (dropFn s f)
  cancelJobs { s1 with hif := { s1.hif with flrs := insertNat p s1.hif.flrs } } stCancelled fun j => j.part == p

def execFlrVf (f : Nat) (s : State) : Out := if 1 ≤ f ∧ f ≤ 16 then .next (flrVf s f) else .refused .noSuchUnit

/-- A self-test under way ends void with the ring of its command: its event is logged (R629). -/
def abandonTest (s : State) : State :=
  match s.hif.selftest with
  | none => s
  | some t =>
    let s1 := raise { s with hif := { s.hif with selftest := none } } 0x061A 0 none ukNone 0 65536 0
    if t.kind = 1 then afterFull s1 else s1

/-- FLR of the PF: VFs, the PF's own block and mailbox, and the START condition (R510, R542, R639). -/
def flrPf (s : State) : State :=
  let s1 := (List.range 16).foldl (fun s n => flrVf s (n + 1)) (abandonTest s)
  let s2 := dropReply (dropFn s1 0) (· == .pfMailbox)
  { s2 with
    hif := { s2.hif with vfEnable := false, numVfs := 0, link := { s2.hif.link with retrains := 0 } }
    fwc := { s2.fwc with mboxVector := 0, busy := false, done := false, ignored := 0, st := if s2.fwc.st = 3 then 2 else s2.fwc.st } }

def execFlrPf (s : State) : Out := .next (flrPf s)

/-- Hot reset, or the link going down: an FLR of the PF, configuration space and every IDE stream (R510). -/
def hotReset (s : State) : State :=
  let s1 := flrPf s
  { s1 with hif := { s1.hif with link := {}, aer := 0 }, sec := { s1.sec with ide := [] } }

def execHotReset (s : State) : Out := .next (hotReset s)

/-! ### The link (R468, R469) -/

/-- WIDTH of a number of lanes (R512). -/
def widthCode (lanes : Nat) : Nat := if lanes = 4 then 2 else if lanes = 8 then 3 else if lanes = 16 then 4 else 0

/-- LINK_TRAINING: the link settles at `speed` (1 for 2.5 GT/s to 6 for 64 GT/s) and `width` lanes; one below the limits is retrained,
and after the third time is left UNDERSPEC. -/
def execLinkTraining (speed width : Nat) (flit : Bool) (s : State) : Out :=
  let l := s.hif.link
  let up := l.state == 2
  if s.pins.pcieInReset ∨ s.fwc.st = 0 ∨ s.pwr.state = 5 then .next s
  else if 3 ≤ speed ∧ speed ≤ 6 ∧ widthCode width ≠ 0 then
    let n : BitVec 8 := if up && l.speed.toNat != speed then satAdd l.retrains 1 else l.retrains
    .next { s with hif := { s.hif with link := { state := 2, speed := BitVec.ofNat 4 speed, width := BitVec.ofNat 4 (widthCode width)
                                                 flit := flit, retrains := n, attempts := 0 } } }
  else
    let s1 := if up then hotReset s else s
    let n := s1.hif.link.attempts + 1
    let r := if n ≥ 3 then s1.hif.link.retrains else satAdd s1.hif.link.retrains 1
    .next { s1 with hif := { s1.hif with link := { state := if n ≥ 3 then 3 else 1, retrains := r, attempts := min n 3 } } }

end Sys2Proof.Machine
end

