-- ==== Sys2Proof/Machine/Resets.lean ====
section
/-! DEFINITION. Machine/Resets.lean: what the module reset and Off leave of the state (R410, R447, R543, R563, R571, R585, R600, R639,
R665, R666). -/

namespace Sys2Proof.Machine

open Sys2Proof

/-- Largest SEQ of the log ring plus 1, and largest session id of its records plus 1 (R544, R564). -/
def nextSeqOf (l : Log) : Nat := l.ring.foldl (fun m r => max m (r.2.seq + 1)) 0
/-- The start-up scan: SEQ goes on from the ring, and so do the records that have waited for the writer since the reset. -/
def scanLog (l : Log) : Log :=
  let n := nextSeqOf l
  { l with next := n + l.next, queues := l.queues.map fun q => (q.1, q.2.map fun r => { r with seq := n + r.seq }) }
def nextSessionOf (l : Log) : Nat := l.ring.foldl (fun m r => max m (r.2.session + 1)) 1

/-- What a core keeps over a module reset: its scratchpad's bytes and written-since-commission bits, until its commission (R168). -/
def keepCore (k : Core) : Core :=
  { spad := { bytes := k.spad.bytes, written := k.spad.written, written1 := k.spad.written1, written2 := k.spad.written2 } }

/-- What fuses and flash keep of a physical core. -/
def keepPhys (x : PhysCore) : PhysCore := { retired := x.retired, fuse := x.fuse }
/-- What the part itself keeps of an HBM channel (R414). -/
def keepChan (x : Chan) : Chan := { failed := x.failed, spareBanks := x.spareBanks }

/-- The region table after a module reset, when every band is interleaved again: with a channel that has failed its storage is part of every
region, which is WITHDRAWN (R410, R414). -/
def resetRegions (h : Hbm) : Tab Region :=
  if h.chans.any fun x => x.2.failed then (List.range 768).map fun r => (r, { st := .withdrawn }) else []

/-- The HBM after a module reset: contents kept, every stack in self-refresh (R410, R666). -/
def resetHbm (h : Hbm) : Hbm :=
  { bytes := h.bytes, regions := resetRegions h, chans := h.chans.map fun x => (x.1, keepChan x.2), remapped := h.remapped
    stk := (List.range 8).map fun k => (k, { selfRefresh := true }) }

/-- Ports keep what their fibres bring; stay switches close (R447). -/
def resetFab (s : State) : Fab :=
  let c := closeStay (closeStay s 0) 1
  { stay := c.fab.stay, ports := (s.fab.ports.filter fun p => p.2.light).map fun p => (p.1, { light := true }) }

/-- The firmware's flash and fuses (R531, R550). -/
def resetFwc (s : State) : Fwc := { flash := s.fwc.flash, minSvn := s.fwc.minSvn, calmSince := s.aon }

/-- The certificate chain and the place in the stream of random values. -/
def resetSec (x : Sec) : Sec := { chain := x.chain, random := x.random }

/-- LAST_SHUTDOWN, the hold after a thermal shutdown, and the conditions of the surroundings (R592, R593, R604). -/
def resetPwr (p : Pwr) : Pwr :=
  { lastShutdown := p.lastShutdown, thermHold := p.thermHold, forceCurrent := p.forceCurrent, forceInput := p.forceInput
    forceJunction := p.forceJunction, inputBad := p.inputBad }

/-- The module reset, at start-up step `step` (R639, R665, R666). -/
def moduleReset (s : State) (step : Nat) : State :=
  { pending := s.pending, aon := s.aon, fresh := s.fresh, cores := s.cores.map fun x => (x.1, keepCore x.2), phys := s.phys.map fun x => (x.1, keepPhys x.2), host := s.host
    log := { ring := s.log.ring }
    hbm := resetHbm s.hbm, fab := resetFab s, fwc := resetFwc s, sec := resetSec s.sec, pwr := resetPwr s.pwr
    pins := { s.pins with holdOut := [], step := step, pcieInReset := true } }

/-- Off: the contents of scratchpads and HBM and the log ring are lost as well (R593, R600). -/
def enterOff (s : State) : State :=
  let s1 := moduleReset s 1
  { s1 with cores := [], hbm := { s1.hbm with bytes := [] }, log := {} }

/-- A shutdown with cause `c` of LAST_SHUTDOWN: 1 undervoltage, 2 overvoltage, 3 thermal, 4 enable input (R593, R608, R659). -/
def shutdown (s : State) (c : Nat) : State :=
  let s1 := enterOff s
  { s1 with pwr := { s1.pwr with lastShutdown := BitVec.ofNat 8 c, thermHold := s1.pwr.thermHold || c == 3 }
            pins := { s1.pins with shutHold := true, thermtripN := s1.pins.thermtripN && c != 3 } }

/-- Step 3 of start-up: fuses have loaded and the module reset is released; the PCIe controller leaves reset when PERST# is high too
(R668, R667). -/
def releaseReset (s : State) : State := { s with pins := { s.pins with step := 3, pcieInReset := !s.pins.perstN } }

/-- Step 2: the mast-die rails come up, and start-up goes on unless MOD_RST_N holds the module reset. -/
def leaveOff (s : State) : State :=
  let s1 := { s with pins := { s.pins with step := 2 } }
  if s.pins.modRstN then releaseReset s1 else s1

/-- The module is Off. -/
def isOff (s : State) : Bool := decide (s.pins.step ≤ 1)

end Sys2Proof.Machine
end

