-- ==== Sys2Proof/Machine/Power.lean ====
section
/-! DEFINITION. Machine/Power.lean: supply limits, reef states, control loops, emergencies, bare-pole, standby and telemetry (20), and the
module fault (R621). -/

namespace Sys2Proof.Machine

open Sys2Proof

/-! ### Access -/

def setPwr (s : State) (p : Pwr) : State := { s with pwr := p }

/-- The power-management core runs: stage 1 has started it, its watchdog has not left it out, and no record of its waits (R535, R545, R620). -/
def pmcOn (s : State) : Bool := decide (s.fwc.stage ≥ 2) && !s.fwc.dead.contains 1 && !procWaits s 1
/-- It waits for its swap: only hardware forces act, and the reef state does not rise (R597, R554). -/
def pmcWaits (s : State) : Bool := s.fwc.update == 5

/-! ### The effective reef state (R597) -/

def hwForce (p : Pwr) : Nat := if p.forceCurrent || p.forceInput || p.forceJunction then 3 else 0
def effectiveReef (p : Pwr) : Nat := max (max (hwForce p) p.reefLimit.toNat) (max (min 3 p.capReq) (min 3 p.thermReq))

/-- The state that the next step moves toward; without the power-management core only a hardware force acts. -/
def reefGoal (s : State) : Nat :=
  if pmcWaits s || !pmcOn s then max (hwForce s.pwr) s.pwr.state.toNat else effectiveReef s.pwr

/-- TARGET follows the effective reef state while the module is in Full or a reef. -/
def retarget (s : State) : State :=
  if s.pwr.state.toNat ≤ 3 ∧ !s.pwr.entering then setPwr s { s.pwr with target := BitVec.ofNat 3 (reefGoal s) } else s

/-! ### Events (R612) -/

/-- POWER_STATE goes to the PF and every live VF. -/
def powerEvent (s : State) : State :=
  let d := s.pwr.state.toNat + (if s.hub.moduleFault then 8 else 0)
  let e : Event := { code := 0x0618, sev := 0, time := s.aon, detail := d, logSeq := s.log.next % 2 ^ 24 }
  let s1 := traceAll (logRecord s 1 1 0x0618 0xFF 0 (d * 2 ^ 64)) (eventPoints 1 0x0618)
  (0 :: (List.range 17).filter (vfLive s)).foldl (fun s f => giveEvent s f e) s1

/-- The power state changes; a self-test under way is void (R629). -/
def setPowerState (s : State) (st : Nat) : State :=
  if s.pwr.state.toNat = st then s
  else powerEvent (voidSelftest (setPwr s { s.pwr with state := BitVec.ofNat 3 st }) 3)

/-! ### Emergencies (R605) -/

def thermalNow (p : Pwr) : Bool := p.hot || p.forceJunction
def powerNow (p : Pwr) : Bool := p.inputBad || p.forceCurrent || p.capUnmet || !p.railsBad.isEmpty

/-- PWR_STATUS shows the emergencies; each start and end is reported, a start voids a self-test, and calm begins with the
last end (R552, R605, R629). -/
def updateEmerg (s : State) : State :=
  let t := thermalNow s.pwr
  let p := powerNow s.pwr
  if t = s.pwr.thermalEmerg ∧ p = s.pwr.powerEmerg then s
  else
    let began := (t && !s.pwr.thermalEmerg) || (p && !s.pwr.powerEmerg)
    let d := (if t then 1 else 0) + (if p then 2 else 0)
    let s1 := setPwr s { s.pwr with thermalEmerg := t, powerEmerg := p }
    let s2 := if t || p then s1 else { s1 with fwc := { s1.fwc with calmSince := s1.aon } }
    let s3 := raise s2 0x0619 0 none ukNone 0 d 0
    if began then voidSelftest s3 2 else s3

/-- A change of forces or requests takes effect. -/
def settlePower (s : State) : State := retarget (updateEmerg s)

/-! ### Supply (R592, R593) -/

/-- INPUT_OUT_OF_RANGE: below 36 V hardware forces reef 3. -/
def execInputOutOfRange (mv : Nat) (s : State) : Out :=
  if isOff s ∨ (36000 ≤ mv ∧ mv ≤ 44000) then .next s
  else .next (settlePower (setPwr s { s.pwr with inputBad := true, forceInput := s.pwr.forceInput || decide (mv < 36000) }))

def execInputInRange (mv : Nat) (s : State) : Out :=
  if 36000 ≤ mv ∧ mv ≤ 44000 then .next (settlePower (setPwr s { s.pwr with inputBad := false, forceInput := false })) else .next s

/-- INPUT_SHUTDOWN_LEVEL: below 34 V or above 46 V for 1 ms. -/
def execInputShutdownLevel (mv : Nat) (s : State) : Out :=
  if isOff s then .next s
  else if mv < 34000 then .next (shutdown s 1)
  else if mv > 46000 then .next (shutdown s 2)
  else .next s

def execOvercurrent (ma : Nat) (s : State) : Out :=
  if isOff s ∨ ma ≤ 56000 then .next s else .next (settlePower (setPwr s { s.pwr with forceCurrent := true }))

def execOvercurrentRelease (s : State) : Out := .next (settlePower (setPwr s { s.pwr with forceCurrent := false }))

def execRailOutOfRegulation (rail : Nat) (out : Bool) (s : State) : Out :=
  if isOff s then .next s
  else .next (settlePower (setPwr s { s.pwr with
    railsBad := if out then insertNat rail s.pwr.railsBad else s.pwr.railsBad.filter (· != rail) }))

/-! ### Loops (R601, R602) -/

def clampCap (w : Nat) : Nat := max 1200 (min 2000 w)
def effectiveCap (p : Pwr) : Nat := min (clampCap p.capHost.toNat) (clampCap p.capMgmt.toNat)

/-- One period of the cap loop. -/
def capStep (now watts : Nat) (p : Pwr) : Pwr :=
  let cap := effectiveCap p
  let p1 : Pwr :=
    if watts > cap then { p with capReq := min 3 (p.capReq + 1), capLow := 0 }
    else if watts * 10 < cap * 9 then
      if p.capLow + 1 ≥ 10 then { p with capReq := p.capReq - 1, capLow := 0 } else { p with capLow := p.capLow + 1 }
    else { p with capLow := 0 }
  let p2 : Pwr := if p1.capReq = 3 then { p1 with capDeepSince := some (p1.capDeepSince.getD now) } else { p1 with capDeepSince := none }
  { p2 with capUnmet := decide (watts > cap) && p2.capDeepSince.any fun t => decide (now ≥ t + 100 * msAon) }

def execCapLoop (watts : Nat) (s : State) : Out :=
  if pmcOn s then .next (settlePower (setPwr s (capStep s.aon watts s.pwr))) else .next s

def clampTemp (lo hi t : Nat) : Nat := max lo (min hi t)

/-- One sample of the thermal loop; readings are in half degrees. -/
def thermStep (now : Nat) (js hs : List Nat) (p : Pwr) : Pwr :=
  let tj := 2 * clampTemp 70 100 p.tJunction
  let th := 2 * clampTemp 70 90 p.tHbm
  let above := js.any (· > tj) || hs.any (· > th)
  let cool := js.all (· + 10 ≤ tj) && hs.all (· + 10 ≤ th)
  let p1 : Pwr := { p with junctions := js, hbmTemps := hs, hot := js.any (· ≥ 200) || hs.any (· ≥ 190) }
  let p2 : Pwr := if above ∧ p1.thermLast.all (fun t => decide (now ≥ t + 10 * msAon)) then
    { p1 with thermReq := min 3 (p1.thermReq + 1), thermLast := some now } else p1
  let p3 : Pwr := if !cool then { p2 with coolSince := none }
    else match p2.coolSince with
    | none => { p2 with coolSince := some now }
    | some t => if now ≥ t + 100 * msAon then { p2 with thermReq := p2.thermReq - 1, coolSince := some now } else p2
  if p3.state = 3 ∧ hwForce p3 = 3 ∧ js.any (· ≥ 220) then { p3 with hotSince := some (p3.hotSince.getD now) } else { p3 with hotSince := none }

/-- THERMAL_SAMPLE: 24 sensors of each spar die, 4 of the mast die, one of each optical engine and of each stack (R603). A module that
a thermal shutdown still holds Off after MOD_EN was cycled or the input applied again leaves Off once every junction is cool (R593). -/
def execThermalSample (spar0 spar1 mast engines hbm : List Nat) (s : State) : Out :=
  if spar0.length ≠ 24 ∨ spar1.length ≠ 24 ∨ mast.length ≠ 4 ∨ engines.length ≠ 4 ∨ hbm.length ≠ 8 then .refused .noSuchUnit
  else
    let js := spar0 ++ spar1 ++ mast ++ engines
    let s1 := setPwr s { s.pwr with thermHold := s.pwr.thermHold && js.any (· ≥ 180) }
    if isOff s then .next (if s.pwr.thermHold && !s1.pwr.thermHold && s.pins.thermtripN && s.pins.modEn then leaveOff s1 else s1)
    else if !pmcOn s1 then .next s1 else .next (settlePower (setPwr (traceAll s1 [(1, 19), (1, 21)]) (thermStep s1.aon js hbm s1.pwr)))

/-! ### Hardware limits (R604) -/

def execJunctionForce (s : State) : Out :=
  if isOff s then .next s else .next (settlePower (setPwr s { s.pwr with forceJunction := true }))

def execJunctionForceRelease (s : State) : Out := .next (settlePower (setPwr s { s.pwr with forceJunction := false }))

def execThermalShutdown (s : State) : Out := if isOff s then .next s else .next (shutdown s 3)

/-! ### Reef steps (R595 to R597) -/

def execReefStep (s : State) : Out :=
  let cur := s.pwr.state.toNat
  let goal := reefGoal s
  if procWaits s 1 ∨ cur > 3 ∨ s.pwr.entering ∨ cur = goal then .next s
  else .next (retarget (setPowerState s (if goal > cur then cur + 1 else cur - 1)))

/-! ### Bare-pole (R598, R621) -/

/-- Entry begins: new work is refused, and every job is cancelled. -/
def beginBarePole (s : State) : State :=
  if s.pwr.entering ∨ s.pwr.state.toNat ≥ 4 then s
  else cancelJobs (setPwr s { s.pwr with entering := true, target := 4 }) stCancelled fun _ => true

/-- A module fault (R621). -/
def moduleFault (s : State) : State :=
  let s1 := { s with hub := { s.hub with moduleFault := true } }
  if s1.pwr.state.toNat ≥ 4 then (if s.hub.moduleFault then s1 else powerEvent s1) else beginBarePole s1

def execThermalBarePole (s : State) : Out :=
  match s.pwr.hotSince with
  | some t => if s.aon ≥ t + secAon ∧ pmcOn s then .next (beginBarePole s) else .next s
  | none => .next s

/-- BARE_POLE_ENTRY: once every fence is held ACLK stops, the core rails go off, and every bound is suspended. -/
def execBarePoleEntry (s : State) : Out :=
  let s0 := settleJobs s
  if procWaits s 1 ∨ !s0.pwr.entering ∨ !s0.hif.jobs.isEmpty then .next s0
  else
    let s1 := setPwr { s0 with cores := s0.cores.map fun x => (x.1, offCore s0 x.1 x.2) } { s0.pwr with entering := false }
    .next (boundBegin (setPowerState (advAll s1) 4) 2 ukNone 0 15 none)

/-- BARE_POLE_EXIT: the module returns to reef 3, and goes on under R597. -/
def execBarePoleExit (s : State) : Out :=
  if s.pwr.state = 4 ∧ s.pwr.target.toNat ≤ 3 ∧ !procWaits s 1 then .next (retarget (boundEnd (setPowerState s 3) 2 ukNone 0 none)) else .next s

/-! ### Standby (R417, R599) -/

def sleepStack (s : State) (k : Nat) : State := setStack s k { getStack s k with selfRefresh := true, trained := false }

/-- STANDBY_ENTRY: each controller completes the requests that it has accepted, and its stack enters self-refresh. -/
def execStandbyEntry (s : State) : Out :=
  if s.pwr.state = 4 ∧ s.pwr.target = 5 ∧ !procWaits s 1 ∧ s.hbm.waiting.isEmpty then
    let s1 := (List.range 8).foldl sleepStack s
    let s2 := closeStay (closeStay s1 0) 1
    let s3 := (List.range 16).foldl (fun s p => advPort (setPortSt s p .down false) p) s2
    .next (hotReset (setPowerState s3 5))
  else .next s

/-- STANDBY_EXIT: through bare-pole; every stack is due for recommission. -/
def execStandbyExit (s : State) : Out :=
  if s.pwr.state = 5 ∧ s.pwr.target.toNat ≤ 3 ∧ !procWaits s 1 then .next (setPowerState ((List.range 8).foldl advStack s) 4) else .next s

/-! ### Telemetry (R607, R608) -/

def hottest (l : List Nat) : BitVec 16 := BitVec.ofNat 16 (satField 16 (l.foldl max 0))

/-- TELEMETRY_UPDATE: input voltage in mV, current in 10 mA, power in W, energy since the latest update in mJ. -/
def execTelemetryUpdate (vin iin pin energy : Nat) (s : State) : Out :=
  if !pmcOn s then .next s
  else
    let p := s.pwr
    .next (setPwr s { p with
      vin := BitVec.ofNat 16 (satField 16 vin), iin := BitVec.ofNat 16 (satField 16 iin), pin := BitVec.ofNat 16 (satField 16 pin)
      pinMax := BitVec.ofNat 16 (max p.pinMax.toNat (satField 16 pin)), energy := satAdd p.energy energy
      spar0Max := hottest (p.junctions.take 24), spar1Max := hottest ((p.junctions.drop 24).take 24)
      mastMax := hottest ((p.junctions.drop 48).take 4), hbmMax := hottest p.hbmTemps })

end Sys2Proof.Machine
end

