-- ==== Sys2Proof/Machine/Faults.lean ====
section
/-! DEFINITION. Machine/Faults.lean: lost spar dies and edge switches, lockstep mismatches and firmware watchdogs (R30, R32, R530, R585,
R616, R619 to R621). -/

namespace Sys2Proof.Machine

open Sys2Proof

/-! ### The attestation log (R585) -/

/-- Add an entry: LOG_ACCUM extends, and the first 64 entries are stored. -/
def attestAdd (s : State) (kind slot : Nat) (value : List Byte) : State :=
  let e := leBytes 1 s.sec.attestNo ++ leBytes 1 kind ++ leBytes 1 slot ++ List.replicate 5 0 ++ (value ++ List.replicate 56 0).take 56
  { s with sec := { s.sec with attest := if s.sec.attest.length < 64 then s.sec.attest ++ [e] else s.sec.attest
                               attestNo := s.sec.attestNo + 1, accum := Config.shake256 (s.sec.accum ++ e) 64 } }

/-- An entry whose VALUE the spec leaves open (a free value). -/
def attestFree (s : State) (kind slot : Nat) : State := let d := drawFree s; attestAdd d.2 kind slot (leBytes 56 d.1)

/-! ### Spar dies and edge switches (R32, R616, R621) -/

/-- A test covers something of the die. -/
def testsDie (s : State) (spar : Nat) : Bool := match s.hif.selftest with
  | some t => t.units.any fun u => (u.kind == ukSpar && u.id == spar) || (u.kind == ukCluster && u.id / 8 == spar) || (u.kind == ukCore && u.id / 136 == spar)
  | none => false

/-- Every position of the die leaves service. -/
def outDie (s : State) (spar : Nat) : State :=
  let s1 := ((List.range 136).map (spar * 136 + ·)).foldl (fun s p => advPhys (setPhys s p { getPhys s p with outSince := s.aon }) p) s
  ((List.range 8).map (spar * 8 + ·)).foldl advCtl s1

/-- SPAR_LOST: cause 1 mesh router, 2 clock, 3 rail. -/
def execSparLost (spar cause : Nat) (s : State) : Out :=
  if spar ≥ 2 then .refused .noSuchUnit
  else if sparLost s spar ∨ cause = 0 ∨ cause > 3 then .next s
  else
    let s1 := outDie { s with hub := { s.hub with sparLost := s.hub.sparLost ||| BitVec.ofNat 2 (2 ^ spar) } } spar
    let s2 := ((List.range 128).map (spar * 128 + ·)).foldl cancelJobsOn s1
    let s3 := leaveParts { s2 with cores := s2.cores.map fun x => (x.1, if x.1 / 128 = spar then offCore s2 x.1 x.2 else x.2) } fun cl => cl / 8 == spar
    let s4 := raise s3 0x060D 3 none ukSpar spar cause 0
    let s5 := if testsDie s spar then voidSelftest s4 1 else s4
    .next (if s5.hub.sparLost = 3 then moduleFault s5 else s5)

def execEdgeSwitchFailure (spar : Nat) (s : State) : Out := if spar ≥ 2 then .refused .noSuchUnit else .next (moduleFault s)

/-! ### Lockstep (R530, R559, R571, R585, R621) -/

def tenMin : Nat := 600 * secAon

/-- AON cycles of a list within the past 10 minutes. -/
def recent (s : State) (l : List Nat) : List Nat := l.filter fun t => decide (s.aon < t + tenMin)

/-- The ROM loads SEC of the boot slot (R530). -/
def reloadSec (s : State) : State :=
  let k := if s.fwc.slot then 1 else 0
  match Tab.find (fwImageOf (slotMem s k) k).comps 1 with
  | some c => { s with fwc := { s.fwc with running := { s.fwc.running with comps := Tab.set s.fwc.running.comps 1 c } } }
  | none => s

/-- A port whose link session loses its keys trains and keys again; its frames are held by retry (R428, R571; assumption 74). -/
def loseLinkKeys (s : State) (p : Nat) : State :=
  let x := getPort s p
  if portOpen x ∨ x.st = .keying then setPortSt (setPort s p { x with keying := {}, keyBytes := [], keyIn := [] }) p .training true else s

/-- LOCKSTEP: the security core reboots, and every session, handshake, link key and IDE key is gone; session ids go on above the largest in the
records of the log ring (R564). -/
def execLockstep (s : State) : Out :=
  let wiped := { s with sec := { s.sec with sess := s.sec.sess.map fun x => (x.1, { x.2 with secret := [] }) } }
  let s1 := (List.range 18).foldl closeSession wiped
  let s2 := (List.range 16).foldl loseLinkKeys
    (reloadSec { s1 with sec := { s1.sec with handshakes := [], ide := [], spdm := [], nextSession := nextSessionOf s1.log } })
  let s3 := raise (attestFree s2 4 s2.fwc.running.slot) 0x0617 3 none ukFirmware 0 0 0
  let m := recent s3 s3.fwc.mismatches ++ [s3.aon]
  let s4 := { s3 with fwc := { s3.fwc with mismatches := m } }
  .next (if m.length ≥ 3 then moduleFault s4 else s4)

/-! ### Firmware watchdogs (R619, R620) -/

/-- The processor runs: 1 power management, 2 scheduler, 0x10 + cluster a control core. -/
def procRuns (s : State) (src : Nat) : Bool :=
  !s.fwc.dead.contains src && ((src == 1 && decide (s.fwc.stage ≥ 2)) || ((src == 2 || (decide (0x10 ≤ src) && decide (src < 0x20))) && decide (s.fwc.stage ≥ 4)))

/-- A control core that is not loaded again: its cluster is withdrawn and its cores are out. -/
def loseCtl (s : State) (cl : Nat) : State :=
  let part := partOfCluster s cl
  let s1 := (coresOfCluster cl).foldl (fun s c => if coreLive s c then outCore s c 4 else s) s
  let s2 := advCtl { s1 with hub := { s1.hub with withdrawnCtl := s1.hub.withdrawnCtl ||| BitVec.ofNat 16 (2 ^ cl) } } cl
  leaveParts (raise s2 0x060C 3 part ukCluster cl 2 0) (· == cl)

/-- The control loops restart from their reset values. -/
def restartLoops (p : Pwr) : Pwr :=
  { p with capReq := 0, capLow := 0, capDeepSince := none, capUnmet := false, thermReq := 0, thermLast := none, coolSince := none, hotSince := none }

/-- Recoveries under way complete with JOB_FAULTED. -/
def failRecoveries (s : State) : State :=
  (s.hif.fns.flatMap fun x => x.2.rings.flatMap fun r => (r.2.cmds.filter (·.st == .recovering)).map fun c => (x.1, r.1, c.idx)).foldl
    (fun s y => completeCmd s y.1 y.2.1 y.2.2 csJobFaulted []) s

/-- The processor is loaded again. -/
def reload (s : State) (src : Nat) : State :=
  if src = 1 then settlePower (setPwr s (restartLoops s.pwr)) else if src = 2 then failRecoveries s else s

def execFwWatchdog (src : Nat) (s : State) : Out :=
  if !(src == 1 || src == 2 || (decide (0x10 ≤ src) && decide (src < 0x20))) then .refused .noSuchUnit
  else if !procRuns s src then .next s
  else
    let l := recent s (Tab.get [] s.fwc.expiries src) ++ [s.aon]
    let s1 := raise { s with fwc := { s.fwc with expiries := Tab.set s.fwc.expiries src l } } 0x0616 3 none ukFirmware src (satField 8 l.length) 0
    if l.length < 3 then .next (reload s1 src)
    else
      let s2 := { s1 with fwc := { s1.fwc with dead := insertNat src s1.fwc.dead } }
      .next (if src ≥ 0x10 then loseCtl s2 (src - 0x10) else moduleFault s2)

end Sys2Proof.Machine
end

