-- ==== Sys2Proof/Machine/Smitum.lean ====
section
/-! DEFINITION. Machine/Smitum.lean: Smitum messages: header, channels and their limits, responses, and the rows that bring a request in
(R507, R537 to R541, R565, R569, R576, R606, R630). -/

namespace Sys2Proof.Machine

open Sys2Proof

/-! ### The header (R538) -/

def msgType (m : List Byte) : Nat := fieldAt m 8 2
def msgLen (m : List Byte) : Nat := fieldAt m 16 4
def msgPayload (m : List Byte) : List Byte := (m.drop 64).take (msgLen m)

/-- Bytes 0 to 15 of a request, which keep their layout in every major version. -/
def headOk (m : List Byte) : Bool := fieldAt m 0 4 == 0x4D544D53 && fieldAt m 10 2 == 0
/-- The rest of the header. -/
def tailOk (m : List Byte) : Bool := decide (msgLen m ≤ 4032) && fieldAt m 20 2 == 0 && fieldAt m 22 2 == 0 && fieldAt m 24 4 == 0 && fieldAt m 28 36 == 0

/-- The header of a response and its payload. -/
def response (m : List Byte) (status session : Nat) (body : List Byte) : List Byte :=
  leBytes 4 0x4D544D53 ++ leBytes 2 1 ++ leBytes 2 0 ++ leBytes 2 (msgType m) ++ leBytes 2 1 ++ leBytes 4 (fieldAt m 12 4)
    ++ leBytes 4 body.length ++ leBytes 2 status ++ leBytes 2 0 ++ leBytes 4 session ++ List.replicate 36 0 ++ body

/-! ### STATUS (R540) -/

def smOk : Nat := 0
def smShape : Nat := 1
def smReserved : Nat := 6
def smOpcode : Nat := 0x40
def smNotPermitted : Nat := 0x41
def smBusy : Nat := 0x43
def smHostAccess : Nat := 0x48
def smVersion : Nat := 0x50
def smImage : Nat := 0x51
def smSvn : Nat := 0x52
def smNotCommitted : Nat := 0x53
def smExpired : Nat := 0x54
def smFlash : Nat := 0x55
def smNotHitless : Nat := 0x56

/-! ### The messages (R541, R576, R606, R630) -/

structure MsgRow where
  ty : Nat
  pf : Bool
  vf : Bool
  mgmt : Bool
  /-- Served without a session. -/
  free : Bool := false
  /-- Payload bytes that the firmware knows. -/
  len : List Byte → Nat

def msgRows : List MsgRow :=
  [ { ty := 0x01, pf := true, vf := true, mgmt := true, free := true, len := fun _ => 0 },
    { ty := 0x02, pf := true, vf := false, mgmt := false, len := fun _ => 0 },
    { ty := 0x10, pf := true, vf := true, mgmt := true, len := fun _ => 28 },
    { ty := 0x11, pf := true, vf := false, mgmt := true, len := fun _ => 8 },
    { ty := 0x20, pf := true, vf := false, mgmt := true, len := fun p => if fieldAt p 0 8 = 0 then 32 + fieldAt p 12 4 else 32 },
    { ty := 0x21, pf := true, vf := false, mgmt := true, len := fun _ => 0 },
    { ty := 0x22, pf := true, vf := false, mgmt := true, len := fun _ => 4 },
    { ty := 0x23, pf := true, vf := false, mgmt := true, len := fun _ => 0 },
    { ty := 0x24, pf := true, vf := true, mgmt := true, len := fun _ => 0 },
    { ty := 0x25, pf := true, vf := false, mgmt := true, len := fun _ => 0 } ] ++
  [ { ty := 0x30, pf := true, vf := true, mgmt := true, len := fun _ => 0 },
    { ty := 0x31, pf := true, vf := false, mgmt := true, len := fun _ => 2 },
    { ty := 0x32, pf := true, vf := false, mgmt := true, len := fun _ => 1 },
    { ty := 0x33, pf := true, vf := false, mgmt := true, len := fun _ => 1 },
    { ty := 0x34, pf := true, vf := false, mgmt := true, len := fun _ => 2 },
    { ty := 0x60, pf := true, vf := true, mgmt := true, len := fun _ => 0 },
    { ty := 0x61, pf := true, vf := false, mgmt := true, len := fun _ => 4 } ] ++
  [ { ty := 0x40, pf := true, vf := true, mgmt := true, free := true, len := fun _ => 3172 },
    { ty := 0x41, pf := true, vf := true, mgmt := true, free := true, len := fun p => 8 + fieldAt p 6 2 },
    { ty := 0x42, pf := true, vf := true, mgmt := true, len := fun _ => 0 },
    { ty := 0x43, pf := true, vf := true, mgmt := true, len := fun p => 104 + fieldAt p 4 4 },
    { ty := 0x44, pf := true, vf := false, mgmt := false, len := fun p => 48 + 2 * fieldAt p 6 2 },
    { ty := 0x45, pf := true, vf := false, mgmt := false, len := fun _ => 1 },
    { ty := 0x46, pf := true, vf := false, mgmt := false, len := fun p => 4 + 4 * fieldAt p 2 2 },
    { ty := 0x47, pf := true, vf := false, mgmt := false, len := fun _ => 1 },
    { ty := 0x48, pf := true, vf := true, mgmt := false, free := true, len := fun _ => 44 },
    { ty := 0x49, pf := true, vf := true, mgmt := true, free := true, len := fun _ => 20 } ]

def msgRow (ty : Nat) : Option MsgRow := msgRows.find? fun r => r.ty == ty

/-! ### A request at the security core -/

/-- A request: where it came from, its interface (0 the PF, k VF k, 17 the management port) and the session it acts under, 0 for none. -/
structure Req where
  via : Via
  key : Nat
  msg : List Byte
  session : Nat

def Req.payload (r : Req) : List Byte := msgPayload r.msg
def Req.at (r : Req) (o n : Nat) : Nat := fieldAt r.payload o n

def chanKey (ch : Channel) : Nat := match ch with | .pfMailbox => 0 | .ring f _ => f | .mgmt => 17

/-- The function may send the message. -/
def rowAllows (r : MsgRow) (key : Nat) : Bool := if key = 0 then r.pf else if key = 17 then r.mgmt else r.vf

/-- Slot of the credential of an interface (R567). -/
def ownSlot (key : Nat) : Nat := key

/-- A session under a MUST_CHANGE credential sends only HELLO, SESSION_END and CRED_SET of its own slot (R569). -/
def mustOk (s : State) (r : Req) : Bool :=
  !(r.session != 0 && (getSess s r.key).must) || msgType r.msg == 0x01 || msgType r.msg == 0x42
    || (msgType r.msg == 0x43 && r.at 0 1 == ownSlot r.key)

/-- STATUS with which a request is refused before it is looked into. -/
def refusal (s : State) (r : Req) : Option Nat :=
  let ty := msgType r.msg
  if !headOk r.msg then some smReserved
  else if fieldAt r.msg 4 2 ≠ 1 then (if ty = 0x01 then none else some smVersion)
  else if !tailOk r.msg then some smReserved
  else match msgRow ty with
  | none => some smOpcode
  | some row =>
    if !rowAllows row r.key then some smNotPermitted
    else if !row.free && r.session == 0 then some smNotPermitted
    else if !mustOk s r then some smNotPermitted
    else if (r.payload.drop (row.len r.payload)).any (· != 0) then some smReserved
    else none

/-! ### Responses (R507, R537, R540, R565) -/

/-- Key and salt of a direction of the management port's envelopes, and the IV of a SEQ. -/
def mgmtKey (secret : List Byte) (label : String) : List Byte := Config.shake256 (secret ++ labelBytes label) 36
/-- A message sealed with its tag under a key and salt. -/
def sealWith (k : List Byte) (session seq : Nat) (m : List Byte) : List Byte :=
  Config.gcmSeal (k.take 32) (k.drop 32 ++ leBytes 8 seq) (leBytes 4 session ++ leBytes 8 seq) m
/-- The envelope of a response. -/
def sealMgmt (s : State) (session seq : Nat) (m : List Byte) : List Byte :=
  leBytes 4 session ++ leBytes 8 seq ++ sealWith (mgmtKey (getSess s 17).secret "MGMT-RS") session seq m

/-- The MAILBOX command whose request is being served on a ring: the oldest one started. -/
def servedCmd (s : State) (f n : Nat) : Option HCmd := (getHRing s f n).cmds.find? fun c => cmdOp c == opMailboxCmd && c.st == .started

/-- The answer to channel `ch` waits for an HBM channel (R415). -/
def answerHeld (s : State) (ch : Channel) : Bool := match ch with
  | .ring f n => (servedCmd s f n).any fun c => rangesHeld s f [(fieldAt c.bytes 24 8, fieldAt c.bytes 20 4)]
  | _ => false

/-- Answer a MAILBOX command. -/
def answerRing (s : State) (f n : Nat) (m : List Byte) : State :=
  match servedCmd s f n with
  | none => s
  | some c =>
    if m.length > fieldAt c.bytes 20 4 then completeCmd s f n c.idx stShape []
    else completeCmd (devWrite (touch s (fieldAt c.bytes 24 8) m.length true) (fieldAt c.bytes 24 8) m) f n c.idx stOk (leBytes 4 m.length)

/-- Send a response back the way its request came; `secrets` is the state that holds the session's keys. -/
def reply (secrets s : State) (r : Req) (status : Nat) (body : List Byte) : State :=
  let m := response r.msg status (match r.via with | .mgmtSealed x _ _ _ => x | _ => openId s r.key) body
  match r.via with
  | .waiting .pfMailbox =>
    signalVec { trace s 0 7 with fwc := { s.fwc with rsp := memWriteN 0 s.fwc.rsp 0 m, busy := false, done := true } } 0 s.fwc.mboxVector.toNat
  | .waiting (.ring f n) => answerRing (trace s 0 7) f n m
  | .waiting .mgmt => s
  | .mgmtPlain _ => { s with sec := { s.sec with mgmtOut := m :: s.sec.mgmtOut } }
  | .mgmtSealed x q _ _ => { s with sec := { s.sec with mgmtOut := sealMgmt secrets x q m :: s.sec.mgmtOut } }

/-! ### Serving (R535, R537, R580) -/

/-- The security core serves Smitum requests: stage 1 is done and the module is not in RECOVERY (R535, R536, R668). -/
def serving (s : State) : Bool := decide (s.fwc.stage ≥ 2) && s.fwc.st != 0

/-- The request in front. -/
def frontReq (s : State) : Option Req := match s.fwc.requests with
  | [] => none
  | q :: _ => some { via := .waiting q.ch, key := chanKey q.ch, msg := q.msg, session := openId s (chanKey q.ch) }

def popReq (s : State) : State := { s with fwc := { s.fwc with requests := s.fwc.requests.drop 1 } }

/-- Answer the requests in front that are refused. -/
def sweepReqs : Nat → State → State
  | 0, s => s
  | n + 1, s => if !serving s || procWaits s 0 then s else match frontReq s with
    | none => s
    | some r => match refusal s r with
      | some st => if s.fwc.requests.any (fun q => answerHeld s q.ch) then s else sweepReqs n (reply s (popReq s) r st [])
      | none => s

def sweepAll (s : State) : State := sweepReqs (s.fwc.requests.length) s

/-- What a message does: it waits, goes on and waits, answers at once, or is answered later (R551). -/
inductive Ans where
  | waits
  | hold (s : State)
  | now (s : State) (status : Nat) (body : List Byte)
  | later (s : State)

/-- Answer of a handler, with the request taken from its channel; nothing where it waits. -/
def finishMsg (s : State) (r : Req) (take : State → State) (a : Ans) : Option State :=
  match a with
  | .waits => none
  | .hold t => some t
  | .now t st body => some (sweepAll (reply s (take t) r st body))
  | .later t => some (sweepAll (take t))

/-- Serve a request of type `ty` in state `s`, where `take` removes it from its channel. -/
def serveMsg (ty : Nat) (s : State) (r : Req) (take : State → State) (k : State → Req → Ans) : Option State :=
  match refusal s r with
  | some st => some (sweepAll (reply s (take s) r st []))
  | none => if msgType r.msg = ty then finishMsg s r take (k s r) else none

/-- The envelope is accepted: its session is open, its SEQ is new, and its bytes are the sealing of the message under the session's request key,
salt and SEQ, with SESSION and SEQ as additional data, so that its tag verifies (R565). -/
def envelopeOk (s : State) (session seq : Nat) (sealed msg : List Byte) : Bool :=
  let x := getSess s 17
  x.opened && x.id == session && (x.seq.all fun q => decide (seq > q)) && sealed == sealWith (mgmtKey x.secret "MGMT-RQ") session seq msg

/-- The management port holds its next message back: it has a request under way, or one of another channel came before it (R537, R580). -/
def mgmtBusy (s : State) : Bool :=
  !s.fwc.requests.isEmpty || s.fwc.act.any fun a => match a.via with
    | .waiting ch => ch == .mgmt
    | _ => true

/-- A row of a message: the request waits in front, or arrives on the management port. While a record of the security core waits for room in its
queue nothing is served (R545). -/
def runMsg (ty : Nat) (via : Via) (s : State) (k : State → Req → Ans) : Out :=
  if !serving s || procWaits s 0 then .next s
  else match via with
  | .waiting ch =>
    match s.fwc.requests with
    | q :: _ =>
      if answerHeld s q.ch then .next s
      else if q.ch = ch ∧ msgType q.msg = ty then
        .next ((serveMsg ty s { via := via, key := chanKey ch, msg := q.msg, session := openId s (chanKey ch) } popReq k).getD s)
      else .next (sweepAll s)
    | [] => .next s
  | .mgmtPlain m => .next <| if mgmtBusy s then s else ((serveMsg ty s { via := via, key := 17, msg := m, session := 0 } id k).getD s)
  | .mgmtSealed x q b m =>
    if envelopeOk s x q b m && !mgmtBusy s then
      let s1 := setSess s 17 { getSess s 17 with seq := some q, last := s.aon }
      .next ((serveMsg ty s1 { via := via, key := 17, msg := m, session := x } id k).getD s)
    else .next s

/-! ### Requests come in -/

/-- The channel holds a request, or waits for the answer of an activation. -/
def chanBusy (s : State) (ch : Channel) : Bool :=
  s.fwc.requests.any (·.ch == ch) || s.fwc.act.any fun a => a.via == .waiting ch

def pushReq (s : State) (ch : Channel) (m : List Byte) : State :=
  sweepAll { trace s 0 6 with fwc := { s.fwc with requests := s.fwc.requests ++ [{ ch := ch, msg := m }] } }

/-- MBOX_GO: FWC_MBOX_CTL is written with GO (R537, R556). -/
def execMboxGo (vector : Nat) (s : State) : Out :=
  let s1 := { s with fwc := { s.fwc with mboxVector := BitVec.ofNat 11 vector } }
  if s.fwc.st = 0 then .next s
  else if s1.fwc.busy then .next { s1 with fwc := { s1.fwc with ignored := satAdd s1.fwc.ignored 1 } }
  else
    let m := memReadN 0 s1.fwc.req 0 4096
    .next (pushReq { s1 with fwc := { s1.fwc with busy := true } } .pfMailbox (m.take (64 + msgLen m)))

/-- Where a MAILBOX command's request and response lie. -/
def mailboxRanges (c : HCmd) : List (Nat × Nat) := [(fieldAt c.bytes 8 8, fieldAt c.bytes 16 4), (fieldAt c.bytes 24 8, fieldAt c.bytes 20 4)]

/-- MAILBOX: the message at REQ waits on the ring's channel (R507, R537). -/
def execMailbox (f n k : Nat) (s : State) : Out :=
  runCmd f n k (fun c => cmdOp c == opMailboxCmd && !chanBusy s (.ring f n) && !rangesHeld s f (mailboxRanges c)) s fun s c =>
    let a := fieldAt c.bytes 8 8
    let len := min 4096 (fieldAt c.bytes 16 4)
    match rangesBad s f (mailboxRanges c) with
    | some st => completeCmd s f n k st []
    | none => pushReq (touch s a len false) (.ring f n) (devRead s a len)

end Sys2Proof.Machine
end

