-- ==== Sys2Proof/Machine/Firmware.lean ====
section
/-! DEFINITION. Machine/Firmware.lean: HELLO, START, the log, firmware images, staging, commit and activation, and PLDM (R531 to R555). -/

namespace Sys2Proof.Machine

open Sys2Proof

/-! ### HELLO and START (R542) -/

def helloBody (s : State) : List Byte :=
  leBytes 8 s.fwc.version.toNat ++ leBytes 2 1 ++ leBytes 2 0 ++ leBytes 1 s.fwc.st.toNat ++ leBytes 1 (if s.fwc.slot then 1 else 0) ++ leBytes 2 0
    ++ leBytes 4 s.fwc.running.svn ++ leBytes 4 s.fwc.minSvn ++ leBytes 8 s.aon

def execHello (via : Via) (s : State) : Out := runMsg 0x01 via s fun s _ => .now s smOk (helloBody s)

def execStart (via : Via) (s : State) : Out :=
  runMsg 0x02 via s fun s _ =>
    if s.fwc.st = 2 then .now { s with fwc := { s.fwc with st := 3 } } smOk []
    else .now s (if s.fwc.st = 3 then smOk else smBusy) []

/-! ### The log (R543 to R547) -/

/-- The 64 bytes of a record. -/
def logBytes (r : LogRec) : List Byte :=
  leBytes 8 r.seq ++ leBytes 8 r.time ++ leBytes 1 r.source ++ leBytes 1 r.sev ++ leBytes 2 r.code ++ leBytes 1 r.part ++ leBytes 3 0
    ++ leBytes 4 r.session ++ leBytes 32 r.data ++ leBytes 3 0 ++ leBytes 1 (r.seq % 256)

/-- LOG_RECORD_WRITE: the security core, once it has scanned the ring, writes the oldest record of a source; one whose index lies in a
failed channel is not stored. Session ends that waited for room take place (R584). -/
def execLogRecordWrite (src : Nat) (s : State) : Out :=
  match logQueue s src with
  | [] => .next s
  | r :: rest =>
    if s.fwc.stage < 2 then .next s else
    let i := r.seq % 16384
    let l := { s.log with queues := Tab.set s.log.queues src rest }
    .next (settleClosing { s with log := if (getChan s (i / 64)).failed then l else { l with ring := Tab.set l.ring i r } })

/-- The next SEQ to be written: the least that is queued, else the next to be given. -/
def nextWritten (s : State) : Nat := s.log.queues.foldl (fun m q => q.2.foldl (fun m r => min m r.seq) m) s.log.next

/-- Written records at or after `from_`, in SEQ order. -/
def logFrom (s : State) (from_ : Nat) : List LogRec :=
  ((s.log.ring.filter fun r => decide (from_ ≤ r.2.seq)).foldl (fun (t : Tab LogRec) r => Tab.set t r.2.seq r.2) []).map (·.2)

/-- A VF reads the records of its partition that follow its PART_SETUP record (R546, R581). -/
def logSees (s : State) (key : Nat) (r : LogRec) : Bool :=
  key == 0 || key == 17 || (r.part == key - 1 && decide (r.seq > (getPart s (key - 1)).setupSeq))

/-- LOG_READ; `fails` says that the host does not take the write at DST. -/
def execLogRead (via : Via) (fails : Bool) (s : State) : Out :=
  runMsg 0x10 via s fun s r =>
    let from_ := r.at 0 8
    let dst := r.at 16 8
    if r.at 12 4 ≠ 0 then .now s smReserved []
    else if dst ≠ 0 ∧ r.key = 17 then .now s smNotPermitted []
    else
      let most := min (r.at 8 4) (if dst = 0 then 62 else r.at 24 4 / 64)
      let all := logFrom s from_
      let rs := (all.filter (logSees s r.key)).take most
      let lost := nextWritten s - from_ - (all.filter fun x => decide (x.seq < nextWritten s)).length
      let head := leBytes 8 ((rs.map (·.seq)).headD from_) ++ leBytes 4 rs.length ++ leBytes 4 (satField 32 lost) ++ leBytes 8 (nextWritten s)
      let bs := rs.flatMap logBytes
      if dst = 0 then .now s smOk (head ++ bs)
      else if !fails && spaceOf dst bs.length == .host then .now (devWrite s dst bs) smOk head
      else .now s smHostAccess []

def execTraceSet (via : Via) (s : State) : Out :=
  runMsg 0x11 via s fun s r => .now { s with log := { s.log with traceEn := BitVec.ofNat 64 (r.at 0 8) } } smOk []

/-! ### Images (R534) -/

/-- STATUS of the first condition that fails: the image verifies where there is none. -/
def verifyImage (s : State) (m : Mem) : Option Nat :=
  let key := memReadN 0xFF m 128 2592
  if !(layoutOk m && Config.shake256 key 64 == Config.imageKeyHash
      && Config.dsaVerify key [] (memReadN 0xFF m 0 128 ++ memReadN 0xFF m 8192 256) (memReadN 0xFF m 2720 4627) && digestsOk m) then some smImage
  else if imgAt m 12 4 < s.fwc.minSvn then some smSvn
  else none

/-! ### Staging and commit (R548 to R550) -/

/-- 64 KiB sectors of a range that this staging has not erased are erased. -/
def eraseFor (x : Fwc) (slot off len : Nat) : Fwc :=
  let new := (rowsOfSectors off len).filter fun k => !x.erased.contains k
  let m := new.foldl (fun m k => memClear m (k * 65536) ((k + 1) * 65536)) (Tab.get [] x.flash.slots slot)
  { x with erased := x.erased ++ new, flash := { x.flash with slots := Tab.set x.flash.slots slot m } }
where
  rowsOfSectors (off len : Nat) : List Nat := if len = 0 then [] else (List.range ((off + len - 1) / 65536 - off / 65536 + 1)).map (off / 65536 + ·)

/-- FLASH_ERASE, FLASH_WRITE and UPDATE_STAGE (R547). -/
def stagePoints : List (Nat × Nat) := [(0, 5), (0, 4), (0, 48)]

/-- One request of a staging by session `id`: STATUS and the state after it. A write that fails leaves the bytes of the request's range open
and the bytes staged as they were (R549; assumption 80). -/
def stage (s : State) (id off : Nat) (begin_ : Bool) (data : List Byte) (fails : Bool) : Nat × State :=
  let x := s.fwc
  if (x.owner.isSome && x.owner != some id) ∨ 3 ≤ x.update.toNat then (smBusy, s)
  else if begin_ ∧ off ≠ 0 then (smImage, s)
  else if !begin_ ∧ !(x.staging && x.owner == some id && off == x.staged) then (smImage, s)
  else if off + data.length > slotSize then (smImage, s)
  else
    let slot := 1 - activeSlot s
    let x1 := if begin_ then eraseFor { x with owner := some id, staged := 0, erased := [], staging := true, update := 1 } slot 0 1 else x
    let x2 := eraseFor x1 slot off data.length
    let put (bs : List Byte) : Flash := { x2.flash with slots := Tab.set x2.flash.slots slot (memWriteN 0xFF (Tab.get [] x2.flash.slots slot) off bs) }
    if fails then
      let d := drawFree s
      (smFlash, { traceAll d.2 stagePoints with fwc := { x2 with flash := put (leBytes data.length d.1) } })
    else (smOk, { traceAll s stagePoints with fwc := { x2 with staged := off + data.length, flash := put data } })

def execFwStage (via : Via) (fails : Bool) (s : State) : Out :=
  runMsg 0x20 via s fun s r =>
    let src := r.at 0 8
    let len := r.at 12 4
    if (r.payload.drop 17).take 15 |>.any (· != 0) then .now s smReserved []
    else if r.at 16 1 > 1 ∨ len % 256 ≠ 0 ∨ len < 256 ∨ len > (if src = 0 then 3840 else 2 ^ 20) then .now s smReserved []
    else if src ≠ 0 ∧ r.key = 17 then .now s smNotPermitted []
    else if src ≠ 0 ∧ spaceOf src len ≠ .host then .now s smHostAccess []
    else
      let data := if src = 0 then (r.payload.drop 32 ++ List.replicate len 0).take len else devRead s src len
      let t := stage s r.session (r.at 8 4) (r.at 16 1 == 1) data fails
      .now t.2 t.1 []

/-- The inactive slot is verified and made the boot slot, unless the write of the boot record fails; none while the log queue is full (R545,
R549, R584). -/
def commit (s : State) (id : Nat) (fails : Bool) : Option (Nat × State) :=
  let x := s.fwc
  let slot := 1 - activeSlot s
  if x.owner.isSome && x.owner != some id then some (smBusy, s)
  else if !x.staging then some (smImage, s)
  else match verifyImage s (slotMem s slot) with
  | some st => some (st, s)
  | none =>
    if (logQueue s 0).length ≥ 64 then none
    else
      let s1 := traceAll (securityRecord s 0x040A 0xFF id slot) [(0, 1), (0, 4), (0, 49)]
      let done := { s1.fwc with flash := { x.flash with boot := itemWrite x.flash.boot slot }, owner := none, staging := false, update := 2 }
      if fails then some (smFlash, s1) else some (smOk, { s1 with fwc := done })

/-- A handler's answer from a STATUS and state, or a wait. -/
def ansOf (o : Option (Nat × State)) : Ans := match o with
  | some t => .now t.2 t.1 []
  | none => .waits

def execFwCommit (via : Via) (fails : Bool) (s : State) : Out := runMsg 0x21 via s fun s r => ansOf (commit s r.session fails)

def execFwAbort (via : Via) (s : State) : Out :=
  runMsg 0x23 via s fun s r =>
    if s.fwc.owner.isSome && s.fwc.owner != some r.session then .now s smBusy []
    else if s.fwc.staging then .now { s with fwc := { s.fwc with owner := none, staging := false, update := restingUpdate s } } smOk []
    else .now s smOk []

/-- FW_STATUS: the spec names no fields for its response, so that its body is open. -/
def execFwStatus (via : Via) (s : State) : Out :=
  runMsg 0x24 via s fun s _ => .now { s with fresh := s.fresh + 1 } smOk ((Config.openBody s.fresh).take 4032)

def execSvnRaise (via : Via) (s : State) : Out :=
  runMsg 0x25 via s fun s r =>
    if s.fwc.update ≠ 0 then .now s smBusy []
    else if (logQueue s 0).length ≥ 64 then .waits
    else
      let n := max s.fwc.minSvn s.fwc.running.svn
      let s1 := securityRecord s 0x040B 0xFF r.session n
      .now { s1 with fwc := { s1.fwc with minSvn := n } } smOk []

/-! ### Activation (R551 to R554) -/

/-- Accept an activation: the STATUS of a refusal, or the state that defers it. -/
def activate (s : State) (seconds : Nat) (back : ReplyTo) : Except Nat State :=
  let x := s.fwc
  if seconds > 86400 then .error smReserved
  else if x.update = 1 ∨ 3 ≤ x.update.toNat then .error smBusy
  else if committedRuns s then .error smNotCommitted
  else .ok { trace s 0 50 with fwc := { x with update := 3, deadline := s.aon + (if seconds = 0 then 600 else seconds) * secAon, act := some back } }

def execFwActivate (via : Via) (s : State) : Out :=
  runMsg 0x22 via s fun s r =>
    match activate s (r.at 0 4) { via := r.via, msg := r.msg, session := r.session } with
    | .error st => .now s st []
    | .ok t => .later t

/-- The activation's request is answered: PLDM under `.waiting .mgmt`, else a Smitum response. -/
def endAct (s : State) (status : Nat) : State :=
  let s1 := { s with fwc := { s.fwc with act := none } }
  match s.fwc.act with
  | none => s1
  | some a =>
    if a.via = .waiting .mgmt then { s1 with sec := { s1.sec with mgmtOut := Config.pldmBody 2 status :: s1.sec.mgmtOut } }
    else
      let key := match a.via with | .waiting ch => chanKey ch | _ => 17
      sweepAll (reply s1 s1 { via := a.via, key := key, msg := a.msg, session := a.session } status [])

/-- The activation's answer waits for an HBM channel (R415). -/
def actHeld (s : State) : Bool := s.fwc.act.any fun a => match a.via with
  | .waiting ch => answerHeld s ch
  | _ => false

/-- No emergency for 10 s (R552, R553). -/
def calm (s : State) : Bool := !s.pwr.thermalEmerg && !s.pwr.powerEmerg && decide (s.aon ≥ s.fwc.calmSince + 10 * secAon)

/-- Every STATE_MAJOR of the committed image is that of the running component. -/
def hitless (s : State) (m : Mem) : Bool :=
  (List.range 4).all fun i => (Tab.find s.fwc.running.comps (compType m i)).any fun c => c.1 == compMajor m i

/-- The activation ends without a swap. -/
def refuseAct (s : State) (status : Nat) : State := endAct { s with fwc := { s.fwc with update := 2 } } status

def execActivationStart (s : State) : Out :=
  let m := slotMem s (activeSlot s)
  if s.fwc.update ≠ 3 ∨ !calm s ∨ actHeld s ∨ s.aon ≥ s.fwc.deadline then .next s
  else if !digestsOk m then .next (refuseAct s smImage)
  else if !hitless s m then .next (refuseAct s smNotHitless)
  else logChange s 0x040A 0xFF ((s.fwc.act.map (·.session)).getD 0) (activeSlot s) fun s =>
    let s1 := attestFree (trace s 0 51) 3 (activeSlot s)
    .next { s1 with fwc := { s1.fwc with update := 4, swaps := 0 } }

def execActivationExpired (s : State) : Out :=
  if s.fwc.update = 3 ∧ s.aon ≥ s.fwc.deadline ∧ !actHeld s then .next (refuseAct s smExpired) else .next s

/-- A component of the committed image runs (type of R533). -/
def swapIn (s : State) (ty : Nat) : State :=
  match Tab.find (fwImageOf (slotMem s (activeSlot s)) (activeSlot s)).comps ty with
  | some c => { s with fwc := { s.fwc with running := { s.fwc.running with comps := Tab.set s.fwc.running.comps ty c } } }
  | none => s

/-- The last swap: the committed image runs in full, and the request is answered. -/
def lastSwap (s : State) : State :=
  let i := fwImageOf (slotMem s (activeSlot s)) (activeSlot s)
  let s1 := traceAll s [(1, 52), (0, 53)]
  endAct { s1 with fwc := { s1.fwc with running := i, version := i.version, update := 0, swaps := 19 } } smOk

/-- A cancel is under way on a core of the cluster. -/
def clusterBusy (s : State) (cl : Nat) : Bool := (coresOfCluster cl).any fun c => (getCore s c).dma.cancel.isSome

/-- A partition is being torn down. -/
def partChanging (s : State) : Bool := s.parts.any fun x => match x.2.st with | .teardown _ => true | _ => false

/-- COMPONENT_SWAP: the next processor swaps at its quiesce point; the power-management core waits for 10 s without emergency. -/
def execComponentSwap (s : State) : Out :=
  let n := s.fwc.swaps
  let done (t : State) : Out := .next { t with fwc := { t.fwc with swaps := n + 1 } }
  if s.fwc.update ≠ 4 then .next s
  else if n = 0 then done (swapIn s 3)
  else if n ≤ 16 then (if clusterBusy s (n - 1) then .next s else done (if n = 16 then swapIn s 4 else s))
  else if n = 17 then (if s.sec.handshakes.isEmpty && !partChanging s then done (swapIn s 1) else .next s)
  else if calm s && !actHeld s then .next (lastSwap s)
  else .next { s with fwc := { s.fwc with update := 5 } }

def execPmcSwap (s : State) : Out := if s.fwc.update = 5 ∧ calm s ∧ !actHeld s then .next (retarget (lastSwap s)) else .next s

/-! ### PLDM (R536, R555) -/

/-- The management port's PLDM is served: under an open session of the port (R541, R558), or in RECOVERY by the ROM (R536). -/
def pldmServed (s : State) : Bool := !mgmtBusy s && (serving s && (getSess s 17).opened) || s.fwc.st == 0

def pldmOut (s0 : State) (row status : Nat) : State :=
  let s := trace s0 0 55
  { s with sec := { s.sec with mgmtOut := Config.pldmBody row status :: s.sec.mgmtOut } }

def execPldmUpdateComponent (off : Nat) (begin_ : Bool) (data : List Byte) (fails : Bool) (s : State) : Out :=
  if !pldmServed s then .next s
  else
    let t := stage s (openId s 17) off begin_ data fails
    .next (pldmOut t.2 0 t.1)

def execPldmVerifyComplete (fails : Bool) (s : State) : Out :=
  if !pldmServed s then .next s
  else match commit s (openId s 17) fails with
  | some t => .next (pldmOut t.2 1 t.1)
  | none => .next s

/-- ActivateFirmware: with no firmware to swap, in RECOVERY, the image takes effect at the next reset. -/
def execPldmActivateFirmware (s : State) : Out :=
  if !pldmServed s then .next s
  else if s.fwc.st = 0 then .next (pldmOut s 2 smNotHitless)
  else match activate s 0 { via := .waiting .mgmt, msg := [], session := openId s 17 } with
  | .error st => .next (pldmOut s 2 st)
  | .ok t => .next t

end Sys2Proof.Machine
end

