-- ==== Sys2Proof/Machine/Sessions.lean ====
section
/-! DEFINITION. Machine/Sessions.lean: control sessions, credentials, partitions, debug (R560 to R583). -/

namespace Sys2Proof.Machine

open Sys2Proof

/-! ### Targets and credentials (R560, R566, R567, R570) -/

/-- Interface of a TARGET. -/
def targetKey (t : Nat) : Option Nat := if t ≤ 16 then some t else if t = 0x20 then some 17 else none

/-- Credential of an interface; while slot 17 is empty the management port takes the setup code of the fuses. -/
def credOf (s : State) (k : Nat) : Cred :=
  let c := getCred s k
  if k = 17 ∧ c.kind = 0 then { kind := 1, flags := 2, log2Iter := 16, salt := Config.setupSalt, hash := Config.setupHash } else c

/-- `n` more rounds of the password hash. -/
def hashRounds (salt : List Byte) : Nat → List Byte → List Byte
  | 0, h => h
  | n + 1, h => hashRounds salt n (Config.shake256 (h ++ salt) 64)

def passwordHash (salt p : List Byte) (log2 : Nat) : List Byte := hashRounds salt (2 ^ log2 - 1) (Config.shake256 (salt ++ p) 64)

/-- The proof of step 5 of R561 holds against a credential. -/
def proofOk (c : Cred) (transcript proof : List Byte) : Bool :=
  if c.kind = 1 then
    let n := (proof.headD 0).toNat
    decide (8 ≤ n) && decide (n ≤ 128) && proof.length == n + 1 && passwordHash c.salt (proof.drop 1) c.log2Iter.toNat == c.hash
  else c.kind == 2 && proof.length == 4627 && Config.dsaVerify c.data (labelBytes "KNALAR-SESSION") transcript proof

/-! ### Handshakes (R560 to R563) -/

def liveHands (s : State) : List Handshake := s.sec.handshakes.filter fun h => decide (s.aon < h.start + 10 * secAon)
def setHands (s : State) (l : List Handshake) : State := { s with sec := { s.sec with handshakes := l } }
def dropHands (s : State) (k : Nat) : State := setHands s (s.sec.handshakes.filter fun h => h.target != k)

def isLocked (s : State) (k : Nat) : Bool := (getSess s k).locked.any fun t => decide (s.aon < t)

/-- STATUS with which a SESSION_BEGIN is refused. -/
def beginRefusal (s : State) (k kind : Nat) : Option Nat :=
  if isLocked s k then some smBusy
  else if !([1, 2].contains kind && (credOf s k).kind.toNat == kind) || (decide (1 ≤ k) && decide (k ≤ 16) && !partLive (getPart s (k - 1))) then
    some smNotPermitted
  else if ((liveHands s).filter fun h => h.target != k).length ≥ 4 then some smBusy
  else none

/-- Steps 1 to 3 of R561. -/
def beginHandshake (s : State) (k : Nat) (r : Req) : State × List Byte :=
  let n1 := nextRandom s
  let n2 := nextRandom n1.2
  let ss1 := Config.kemDecaps ((r.payload.drop 1604).take 1568)
  let e := Config.kemEncaps ((r.payload.drop 36).take 1568) n1.1
  let s2 := n2.2
  let body := leBytes 4 s2.sec.nextHandle ++ Config.nonce n2.1 ++ e.1
  let t := Config.shake256 (r.payload ++ body) 64
  let secret := Config.shake256 (ss1 ++ e.2 ++ t) 64
  let h : Handshake := { handle := s2.sec.nextHandle, target := k, kind := r.at 1 1, start := s2.aon, transcript := t, secret := secret }
  ({ s2 with sec := { s2.sec with handshakes := (liveHands s2).filter (fun x => x.target != k) ++ [h]
                                  nextHandle := s2.sec.nextHandle % (2 ^ 32 - 1) + 1 } },
    body ++ Config.shake256 (secret ++ labelBytes "CONFIRM") 32)

def execSessionBegin (via : Via) (s : State) : Out :=
  runMsg 0x40 via s fun s r =>
    if r.at 2 2 ≠ 0 then .now s smReserved []
    else match targetKey (r.at 0 1) with
    | none => .now s smNotPermitted []
    | some k => match beginRefusal s k (r.at 1 1) with
      | some st => .now s st []
      | none => let b := beginHandshake s k r; .now b.1 smOk b.2

/-- A failed proof: it is counted and logged, and from the fifth on it locks the target (R563). -/
def failProof (s : State) (k : Nat) : State :=
  let x := getSess s k
  let s1 := securityRecord s 0x0402 (sessPart k) 0 k
  let n := x.fails + 1
  if n < 5 then setSess s1 k { x with fails := n }
  else
    let len := if x.lockLen = 0 then 60 else min 3600 (2 * x.lockLen)
    setSess (securityRecord s1 0x0403 (sessPart k) 0 k) k { x with fails := n, lockLen := len, locked := some (s.aon + len * secAon) }

/-- The proof holds: an earlier session ends and the new one opens. -/
def openSession (s : State) (k : Nat) (h : Handshake) (c : Cred) : State :=
  let id := s.sec.nextSession
  let s1 := securityRecord (closeSession s k) 0x0400 (sessPart k) id k
  let s2 := setSess s1 k { id := id, opened := true, must := c.flags.getLsbD 1, ide := c.flags.getLsbD 0 && k != 17, secret := h.secret, last := s.aon }
  { s2 with sec := { s2.sec with nextSession := id % (2 ^ 32 - 1) + 1 } }

/-- The function's stream is Secure with the handshake's keys, where the credential asks for it (R572). -/
def ideReady (s : State) (k : Nat) (h : Handshake) (c : Cred) : Bool :=
  !c.flags.getLsbD 0 || k == 17 || Tab.find s.sec.ide k == some (ideKeys h.secret k)

/-- The last fragment has come (step 6 of R561). -/
def lastFragment (s : State) (h : Handshake) (sealed : List Byte) : Ans :=
  let k := h.target
  let c := credOf s k
  let ks := Config.shake256 (h.secret ++ labelBytes "HS") 44
  let good : Bool := c.kind.toNat == h.kind && match Config.gcmOpen (ks.take 32) (ks.drop 32) h.transcript sealed with
    | some p => proofOk c h.transcript p
    | none => false
  let s1 := setHands s (s.sec.handshakes.filter fun x => x.handle != h.handle)
  if (logQueue s 0).length + (if (getSess s k).opened then 1 else 0) ≥ 64 then .waits
  else if !good then .now (failProof s1 k) smNotPermitted []
  else if !ideReady s k h c then .now s smNotPermitted []
  else .now (openSession s1 k h c) smOk (leBytes 4 s.sec.nextSession)

def execSessionProve (via : Via) (s : State) : Out :=
  runMsg 0x41 via s fun s r =>
    let n := r.at 6 2
    if r.at 4 1 > 1 ∨ r.at 5 1 > 1 ∨ n > 4000 then .now s smReserved []
    else match (liveHands s).find? fun h => h.handle == r.at 0 4 with
    | none => .now s smNotPermitted []
    | some h =>
      let bytes := h.proof ++ ((r.payload.drop 8) ++ List.replicate n 0).take n
      if r.at 4 1 ≠ h.frags ∨ (r.at 5 1 = 0 ∧ h.frags = 1) then .now s smNotPermitted []
      else if r.at 5 1 = 1 then lastFragment s h bytes
      else
        let up (x : Handshake) : Handshake := if x.handle = h.handle then { x with proof := bytes, frags := 1 } else x
        .now (setHands s (s.sec.handshakes.map up)) smOk (leBytes 4 0)

def execSessionEnd (via : Via) (s : State) : Out :=
  runMsg 0x42 via s fun s r => if (logQueue s 0).length ≥ 64 then .waits else .now (closeSession s r.key) smOk []

def execHandshakeExpiry (handle : Nat) (s : State) : Out :=
  .next (setHands s (s.sec.handshakes.filter fun h => !(h.handle == handle && decide (s.aon ≥ h.start + 10 * secAon))))

/-- LOCKOUT_EXPIRY of a TARGET. -/
def execLockoutExpiry (target : Nat) (s : State) : Out :=
  match targetKey target with
  | none => .refused .noSuchUnit
  | some k => if isLocked s k then .next s else .next (setSess s k { getSess s k with locked := none })

def execMgmtSessionIdle (s : State) : Out :=
  let x := getSess s 17
  if x.opened ∧ s.aon ≥ x.last + 1800 * secAon ∧ !procWaits s 0 then .next (closeSession s 17) else .next s

/-! ### CRED_SET (R568) -/

/-- The interface may write the slot (R558). -/
def slotAllowed (key slot : Nat) : Bool :=
  if key = 17 then [0, 17, 18, 19].contains slot else if key = 0 then decide (slot ≤ 16) else slot == key

/-- The fields fit the slot and its kind. -/
def credFieldsOk (slot kind flags iter len : Nat) : Bool :=
  decide (flags < 4) &&
    match kind with
    | 0 => true
    | 1 => decide (slot ≤ 17) && decide (10 ≤ iter) && decide (iter ≤ 20) && len == 0
    | 2 => decide (slot ≤ 18) && len == 2592
    | 3 => slot == 19 && len == 4627
    | _ => false

def putCred (s : State) (slot : Nat) (c : Option Cred) : State :=
  let t := credTable s
  setFlash s { s.fwc.flash with creds := itemWrite s.fwc.flash.creds (match c with | some x => Tab.set t slot x | none => Tab.erase t slot) }

def credFrom (r : Req) : Option Cred :=
  let part (o n : Nat) : List Byte := ((r.payload.drop o) ++ List.replicate n 0).take n
  let data := part 104 (r.at 4 4)
  if r.at 1 1 = 0 then none
  else if r.at 0 1 ≥ 18 then some { kind := BitVec.ofNat 8 (r.at 1 1), data := data }
  else some { kind := BitVec.ofNat 8 (r.at 1 1), flags := BitVec.ofNat 8 (r.at 2 1), log2Iter := BitVec.ofNat 8 (r.at 3 1), salt := part 8 32, hash := part 40 64
              data := data }

def execCredSet (via : Via) (fails : Bool) (s : State) : Out :=
  runMsg 0x43 via s fun s r =>
    let slot := r.at 0 1
    if !slotAllowed r.key slot then .now s smNotPermitted []
    else if !credFieldsOk slot (r.at 1 1) (r.at 2 1) (r.at 3 1) (r.at 4 4) then .now s smReserved []
    else if (logQueue s 0).length ≥ 64 then .waits
    else
      let s1 := securityRecord s 0x0404 (sessPart slot) r.session slot
      if fails then .now s1 smFlash [] else .now (putCred s1 slot (credFrom r)) smOk []

/-! ### PART_SETUP (R38, R40, R407, R516, R577) -/

structure SetupArgs where
  part : Nat
  placement : Bool
  clusters : List Nat
  c0Cores : Nat
  c0Rings : Nat
  c0Ids : List Nat
  counters : List Nat
  regions : List Nat

def setupArgs (r : Req) : SetupArgs :=
  let bits (v n : Nat) : List Nat := (List.range n).filter v.testBit
  { part := r.at 0 1, placement := r.at 1 1 == 1, clusters := bits (r.at 2 2) 16, c0Cores := r.at 4 1, c0Rings := r.at 5 1
    c0Ids := ((List.range 4).map fun i => r.at (8 + 2 * i) 2).filter (· != 0xFFFF), counters := bits (r.at 16 32) 256
    regions := dedup ((List.range (r.at 6 2)).map fun i => r.at (48 + 2 * i) 2) }

/-- Values within the fields' ranges. -/
def setupFieldsOk (r : Req) (a : SetupArgs) : Bool :=
  decide (a.part < 16) && decide (r.at 1 1 ≤ 1) && !a.clusters.isEmpty && decide (r.at 6 2 ≤ 768) && a.regions.all (· < 768)
    && decide (a.c0Ids.length ≤ a.c0Cores) && a.c0Ids.all fun c => a.clusters.contains (clusterOf c) && decide (c < 256)

/-- The cluster cannot be assigned: it has a partition, runs a context, is withdrawn or lost, or is under test (R30, R40, R627). A HALTED or
FAULTED context counts as running one too: only IDLE cores are free (DEDUCED, assumption 85). -/
def clusterTaken (s : State) (cl : Nat) : Bool :=
  (partOfCluster s cl).isSome || !clusterIn s cl || (coresOfCluster cl).any (fun c => (List.range 8).any fun n => (ctxAt s c n).st != .idle)
    || match s.hif.selftest with
      | some t => t.kind == 1 || t.units.any fun u => u.kind == ukCluster && u.id == cl
      | none => false

/-- The region's band holds a region in the other mode. -/
def bandClash (s : State) (mode : Bool) (r : Nat) : Bool :=
  bandMode s (r / 8) != mode && (List.range 8).any fun k => let x := (getRegion s (r / 8 * 8 + k)).st; x == .assigned || x == .scrubbing

/-- The C0 sums of R516 over the partitions. -/
def c0Sum (s : State) (f : Part → Nat) : Nat := ((List.range 16).map fun n => if partLive (getPart s n) then f (getPart s n) else 0).foldl (· + ·) 0

def setupBusy (s : State) (a : SetupArgs) : Bool :=
  partLive (getPart s a.part) || a.clusters.any (clusterTaken s) || a.regions.any (fun r => (getRegion s r).st != .free)
    || a.regions.any (fun r => bandClash s a.placement r || failedIn s a.placement r) || a.counters.any (fun n => (getCtr s n).assigned)
    || decide (c0Sum s (·.c0Budget) + a.c0Cores > 4) || decide (c0Sum s (fun p => p.c0Rings.toNat) + a.c0Rings > 128)

/-- The region is assigned, with the content epochs of its stacks (R625). -/
def assignRegion (p : Nat) (s : State) (r : Nat) : State :=
  setRegion (trace s 0 12) r { st := .assigned, part := BitVec.ofNat 4 p, recorded := (regionStacks s r).map fun k => (k, (getStack s k).content) }

def setupDo (s : State) (a : SetupArgs) (session : Nat) : State :=
  let s0 := securityRecord s 0x0405 a.part session a.part
  let s1 := (a.regions.map (· / 8)).foldl (fun s b => setBand s a.placement b) s0
  let s2 := a.regions.foldl (assignRegion a.part) s1
  let s3 := a.counters.foldl (fun s n => setCtr s n { getCtr s n with assigned := true, part := BitVec.ofNat 4 a.part }) s2
  let p : Part := { st := .setUp, placement := a.placement, clusters := BitVec.ofNat 16 (a.clusters.foldl (fun m c => m + 2 ^ c) 0), regions := a.regions
                    counters := a.counters, c0Budget := a.c0Cores, c0Cores := a.c0Ids, c0Rings := BitVec.ofNat 8 a.c0Rings, setupSeq := s.log.next }
  a.c0Ids.foldl restoreC0 (setPart s3 a.part p)

def execPartSetup (via : Via) (s : State) : Out :=
  runMsg 0x44 via s fun s r =>
    let a := setupArgs r
    if !setupFieldsOk r a then .now s smReserved []
    else if s.sec.debug then .now s smNotPermitted []
    else if setupBusy s a then .now s smBusy []
    else if (logQueue s 0).length ≥ 64 then .waits
    else .now (setupDo s a r.session) smOk []

/-! ### PART_TEARDOWN (R579) -/

/-- Steps 1 and 2; from now on no frame passes the peer check of the partition (R580). -/
def teardownStart (s : State) (p : Nat) : State :=
  let s1 := eraseIde (closeSession (dropHands s (p + 1)) (p + 1)) (p + 1)
  let s2 := setPart s1 p { getPart s1 p with st := .teardown 2, peers := [] }
  (partCores s2 p).foldl killAll (cancelJobs s2 stCancelled fun j => j.part == p)

/-- The partition's work is over. -/
def teardownClear (s : State) (p : Nat) : Bool :=
  !(s.hif.jobs.any fun j => j.part == p) && !(getSess s (p + 1)).closing && (partCores s p).all fun c => coreGone s c || (List.range 8).all fun n => (ctxAt s c n).st == .idle

/-- Steps 3 to 6. -/
def teardownEnd (s : State) (p session : Nat) : State :=
  let x := getPart s p
  let cs := partCores s p
  let s1 := x.counters.foldl (fun s n => setCtr s n { getCtr s n with st := .disabled, assigned := false, part := 0 }) s
  let s2 := ((List.range 64).filter fun n => treeRole (getTree s1 n) != 0 && treePart (getTree s1 n) == p).foldl (fun s n => setTree s n {}) s1
  let s3 := setPart s2 p { x with counters := [], peers := [], c0Budget := 0, c0Cores := [], c0Rings := 0, clusters := 0, regions := [] }
  let s4 := cs.foldl (fun s c => advCore (let k := getCore s c; setCore s c { k with mesh := { k.mesh with c0En := false } }) c) s3
  let s5 := x.regions.foldl (fun s r => scrubBegin (releaseRegion s r) r) s4
  setPart (securityRecord (putCred s5 (p + 1) none) 0x0406 p session p) p {}

def execPartTeardown (via : Via) (s : State) : Out :=
  runMsg 0x45 via s fun s r =>
    let p := r.at 0 1
    if p ≥ 16 then .now s smReserved []
    else if !partLive (getPart s p) then .now s smBusy []
    else
      let s1 := if (getPart s p).st = .setUp then teardownStart s p else settleJobs s
      if teardownClear s1 p ∧ (logQueue s1 0).length < 64 then .now (teardownEnd s1 p r.session) smOk [] else .hold s1

/-! ### PART_PEERS and DEBUG_SET (R578, R583) -/

def execPartPeers (via : Via) (s : State) : Out :=
  runMsg 0x46 via s fun s r =>
    let p := r.at 0 1
    let n := r.at 2 2
    let es := (List.range n).map fun i => r.at (4 + 4 * i) 4
    if p ≥ 16 ∨ r.at 1 1 ≠ 0 ∨ n > 256 then .now s smReserved []
    else if es.any fun e => e.testBit 15 || decide (e ≥ 2 ^ 20) then .now s smReserved []
    else if (getPart s p).st ≠ .setUp then .now s smBusy []
    else if (logQueue s 0).length ≥ 64 then .waits
    else
      let s1 := securityRecord s 0x0407 p r.session n
      .now (setPart s1 p { getPart s1 p with peers := es.map fun e => (e % 32768, e / 65536) }) smOk []

def execDebugSet (via : Via) (s : State) : Out :=
  runMsg 0x47 via s fun s r =>
    let on := r.at 0 1
    if on > 1 then .now s smReserved []
    else if on = 1 ∧ !Config.debugAllowed then .now s smNotPermitted []
    else if on = 1 ∧ (List.range 16).any fun n => partLive (getPart s n) then .now s smBusy []
    else if (logQueue s 0).length ≥ 64 then .waits
    else
      let s1 := securityRecord s 0x0408 0xFF r.session on
      .now { s1 with sec := { s1.sec with debug := on == 1, debugSince := s1.sec.debugSince || on == 1 } } smOk []

end Sys2Proof.Machine
end

