-- ==== Sys2Proof/Machine/Admin.lean ====
section
/-! DEFINITION. Machine/Admin.lean: register words that messages carry, power messages (R606), fault messages (R627, R630), the attestation
report, identity and SPDM (R586 to R588). -/

namespace Sys2Proof.Machine

open Sys2Proof

/-! ### Register words (R421, R608, R632, R642) -/

def bit (b : Bool) (k : Nat) : Nat := if b then 2 ^ k else 0

/-- PWR_STATUS. -/
def pwrStatus (s : State) : Nat :=
  let p := s.pwr
  p.target.toNat + p.state.toNat * 8 + bit (hwForce p == 3) 8 + bit p.thermalEmerg 9 + bit p.powerEmerg 10 + bit p.capUnmet 11
    + p.lastShutdown.toNat * 2 ^ 24
/-- PWR_TELEM and PWR_TEMP. -/
def pwrTelem (s : State) : Nat :=
  s.pwr.pinMax.toNat + s.pwr.pin.toNat * 2 ^ 16 + s.pwr.iin.toNat * 2 ^ 32 + s.pwr.vin.toNat * 2 ^ 48
def pwrTemp (s : State) : Nat :=
  s.pwr.spar0Max.toNat + s.pwr.spar1Max.toNat * 2 ^ 16 + s.pwr.mastMax.toNat * 2 ^ 32 + s.pwr.hbmMax.toNat * 2 ^ 48

def withdrawnList (s : State) : List Nat := (List.range 16).filter (withdrawn s)
def withdrawnMask (s : State) : Nat := (withdrawnList s).foldl (fun a c => a + 2 ^ c) 0
/-- LOGICAL_CORES of HUB_CAPS. -/
def logicalCores (s : State) : Nat := 16 * ((List.range 16).filter (clusterIn s)).length

/-- HUB_FAULT and HUB_CORE_OUTk. -/
def hubFault (s : State) : Nat := withdrawnMask s + s.hub.sparLost.toNat * 2 ^ 16 + bit s.hub.moduleFault 31
def isOut (s : State) (c : Nat) : Bool := match physOf s c with | some p => (getPhys s p).out.isSome | none => false
def coreOutWord (s : State) (k : Nat) : Nat := ((List.range 64).filter fun j => isOut s (64 * k + j)).foldl (fun a j => a + 2 ^ j) 0

/-- HBM_CAPS. -/
def hbmCaps (s : State) : Nat :=
  let failed := ((List.range 256).filter fun c => (getChan s c).failed).length
  failed % 256 + (255 - failed) * 256 + ((List.range 768).filter fun r => (getRegion s r).st != .withdrawn).length * 65536

/-! ### Power and thermal messages (R595, R601, R602, R606) -/

def execPowerGet (via : Via) (s : State) : Out :=
  runMsg 0x30 via s fun s _ => .now s smOk (leBytes 4 (pwrStatus s) ++ leBytes 8 (pwrTelem s) ++ leBytes 8 (pwrTemp s))

/-- POWER_SET_CAP: the PF sets CAP_HOST, the management port CAP_MGMT. -/
def execPowerSetCap (via : Via) (s : State) : Out :=
  runMsg 0x31 via s fun s r =>
    let w := BitVec.ofNat 12 (min 4095 (r.at 0 2))
    .now (setPwr (trace s 1 17) (if r.key = 17 then { s.pwr with capMgmt := w } else { s.pwr with capHost := w })) smOk []

def execPowerSetLimit (via : Via) (s : State) : Out :=
  runMsg 0x32 via s fun s r =>
    if r.at 0 1 > 3 then .now s smReserved [] else .now (retarget (setPwr s { s.pwr with reefLimit := BitVec.ofNat 2 (r.at 0 1) })) smOk []

/-- The transition that a POWER_STATE names, if the table of R595 lists it. -/
def powerMove (s : State) (t : Nat) : Option State :=
  let st := s.pwr.state.toNat
  let go (n : BitVec 3) : Option State := some (setPwr s { s.pwr with target := n })
  match t with
  | 0 => if s.hub.moduleFault then none else if st = 4 ∧ s.pwr.target ≠ 5 then go 3 else if st = 5 then go 3 else none
  | 1 => if st ≤ 3 ∧ !s.pwr.entering then some (beginBarePole s) else none
  | _ => if st = 4 ∧ s.pwr.target = 4 then go 5 else none

def execPowerState (via : Via) (s : State) : Out :=
  runMsg 0x33 via s fun s r =>
    let t := r.at 0 1
    if t > 2 then .now s smReserved []
    else if (t = 2 ∨ s.pwr.state = 5) ∧ r.key ≠ 17 then .now s smNotPermitted []
    else match powerMove s t with
    | some u => .now u smOk []
    | none => .now s smBusy []

def execThermalSet (via : Via) (s : State) : Out :=
  runMsg 0x34 via s fun s r =>
    let j := r.at 0 1
    let h := r.at 1 1
    if j < 70 ∨ j > 100 ∨ h < 70 ∨ h > 90 then .now s smReserved [] else .now (setPwr s { s.pwr with tJunction := j, tHbm := h }) smOk []

/-! ### Fault messages (R627, R630) -/

def execFaultStatus (via : Via) (s : State) : Out :=
  runMsg 0x60 via s fun s _ =>
    .now s smOk (leBytes 4 (hubFault s) ++ (List.range 4).flatMap (fun k => leBytes 8 (coreOutWord s k)) ++ leBytes 4 (hbmCaps s)
      ++ (List.range 16).flatMap fun p => leBytes 1 (portCode (getPort s p).st))

/-- The unit is due for recommission; one that a partition holds or uses is refused. -/
def recommissionUnit (s : State) (kind id : Nat) : Option (Nat × State) :=
  let held (p : Nat) : Bool := (List.range 256).any fun c => physOf s c == some p && (partOfCore s c).isSome
  match kind with
  | 1 => if id ≥ 272 then none else if held id then some (smBusy, s)
    else some (smOk, if (getPhys s id).epoch = (getPhys s id).expected then advPhys s id else s)
  | 2 => if id ≥ 16 then none else if (partOfCluster s id).isSome then some (smBusy, s)
    else some (smOk, if (getCtlEpoch s id).epoch = (getCtlEpoch s id).expected then advCtl s id else s)
  | 5 => if id ≥ 8 then none
    else if (List.range 768).any fun r => (getRegion s r).st == .assigned && (regionStacks s r).contains id then some (smBusy, s)
    else some (smOk, if (getStack s id).epoch = (getStack s id).expected then advStack s id else s)
  | 6 => if id ≥ 16 then none else some (smOk, if (getPort s id).epoch = (getPort s id).expected then advPort s id else s)
  | _ => none

def execUnitRecommission (via : Via) (s : State) : Out :=
  runMsg 0x61 via s fun s r => match recommissionUnit s (r.at 0 1) (r.at 2 2) with
    | some t => .now t.2 t.1 []
    | none => .now s smReserved []

/-! ### The attestation report (R586, R587) -/

/-- A field of `n` bytes. -/
def fit (n : Nat) (l : List Byte) : List Byte := (l ++ List.replicate n 0).take n

/-- Entry of the partition table. -/
def partEntry (s : State) (n : Nat) : List Byte :=
  let p := getPart s n
  if !partLive p then List.replicate 32 0
  else
    let rs := p.regions.foldl (fun l r => insertNat r l) []
    leBytes 2 p.clusters.toNat ++ leBytes 2 rs.length ++ leBytes 1 1 ++ leBytes 1 (if p.placement then 1 else 0) ++ leBytes 1 p.c0Budget
      ++ leBytes 1 p.c0Rings.toNat ++ leBytes 4 (p.setupSeq % 2 ^ 32) ++ leBytes 4 0 ++ fit 16 (Config.shake256 (rs.flatMap (leBytes 2)) 16)

def runningDigest (s : State) (ty : Nat) : List Byte := fit 32 (Tab.get (0, []) s.fwc.running.comps ty).2

/-- Bytes 0 to 1,055 of the report. -/
def reportHead (s : State) (nonce : List Byte) : List Byte :=
  leBytes 4 0x54524B4E ++ leBytes 2 1 ++ leBytes 2 0 ++ fit 32 nonce ++ fit 64 (Config.shake256 Config.idDsaKey 64)
    ++ fit 64 (Config.shake256 Config.idKemKey 64) ++ leBytes 2 (ownModule s + (if s.fab.role.known then 0 else 32768))
    ++ leBytes 2 (logicalCores s) ++ leBytes 2 (withdrawnMask s) ++ leBytes 1 (bit s.fwc.slot 0 + bit s.fwc.fallback 1)
    ++ leBytes 1 (bit s.sec.debug 0 + bit s.sec.debugSince 1 + bit Config.debugAllowed 2) ++ leBytes 4 s.fwc.running.svn ++ leBytes 4 s.fwc.minSvn
    ++ leBytes 8 s.fwc.running.version.toNat ++ fit 64 Config.imageKeyHash ++ fit 64 (Config.fuseDigest s.fwc.minSvn)
    ++ [1, 2, 3, 4].flatMap (runningDigest s) ++ fit 64 s.sec.accum ++ leBytes 8 s.aon ++ leBytes 8 0
    ++ (List.range 16).flatMap (partEntry s) ++ leBytes 1 s.sec.attest.length ++ List.replicate 15 0

def report (s : State) (nonce : List Byte) : List Byte :=
  let h := reportHead s nonce
  h ++ fit 4627 (Config.dsaSign (labelBytes "KNALAR-ATTEST") h)

/-- Write at DST through the host window of the channel's function. -/
def toHost (s : State) (dst len : Nat) (bs : List Byte) (body : List Byte) : Ans :=
  if len < bs.length then .now s smShape []
  else if spaceOf dst bs.length ≠ .host then .now s smHostAccess []
  else .now (devWrite s dst bs) smOk body

def execAttest (via : Via) (s : State) : Out :=
  runMsg 0x48 via s fun s r =>
    let bs := report s (r.payload.take 32) ++ s.sec.attest.flatten
    toHost (trace s 0 13) (r.at 32 8) (r.at 40 4) bs (leBytes 4 bs.length)

def execIdentity (via : Via) (s : State) : Out :=
  runMsg 0x49 via s fun s r =>
    match r.at 0 1 with
    | 0 => .now s smOk Config.idKemKey
    | 1 => .now s smOk Config.idDsaKey
    | 2 => if r.key = 17 then .now s smNotPermitted [] else toHost s (r.at 8 8) (r.at 16 4) s.sec.chain []
    | _ => .now s smReserved []

/-! ### SPDM (R588): over DOE (transport 0) and over MCTP (1) -/

def spdmIdx (mgmt : Bool) : Nat := if mgmt then 1 else 0
def getSpdm (s : State) (mgmt : Bool) : Spdm := Tab.get {} s.sec.spdm (spdmIdx mgmt)
def setSpdm (s : State) (mgmt : Bool) (x : Spdm) : State := { s with sec := { s.sec with spdm := Tab.set s.sec.spdm (spdmIdx mgmt) x } }

/-- A response: its code (0 ERROR, 1 to 7 by the order of R588) and body, at a new phase. -/
def spdmSay (s : State) (mgmt : Bool) (phase code : Nat) (input : List Byte) : State :=
  setSpdm s mgmt { phase := phase, out := (code, Config.spdmBody code input) :: (getSpdm s mgmt).out }

/-- A teardown has begun and has not ended: what lies between is no state that a report reflects (R580). -/
def changeUnderWay (s : State) : Bool := (List.range 16).any fun n => match (getPart s n).st with
  | .teardown _ => true
  | _ => false

/-- Answer a request once negotiation has come to `need`, else ERROR; while a change of another channel is under way it waits (R580). -/
def spdmAt (mgmt : Bool) (need : Nat) (s : State) (k : State → Nat → State) : Out :=
  if !serving s || procWaits s 0 || changeUnderWay s then .next s
  else
    let p := (getSpdm s mgmt).phase
    .next (if p ≥ need then k s p else spdmSay s mgmt p 0 [])

def execGetVersion (mgmt : Bool) (s : State) : Out := spdmAt mgmt 0 s fun s _ => spdmSay s mgmt 1 1 []

def execGetCapabilities (mgmt : Bool) (caps : List Byte) (s : State) : Out := spdmAt mgmt 1 s fun s _ => spdmSay s mgmt 2 2 caps

/-- NEGOTIATE_ALGORITHMS: bit 0 of each operand says that ML-DSA-87 and SHA3-512 are among the requester's. -/
def execNegotiateAlgorithms (mgmt : Bool) (asym hash : Nat) (s : State) : Out :=
  spdmAt mgmt 2 s fun s p => if asym.testBit 0 && hash.testBit 0 then spdmSay s mgmt 3 3 [] else spdmSay s mgmt p 0 []

def execGetDigests (mgmt : Bool) (s : State) : Out := spdmAt mgmt 3 s fun s p => spdmSay s mgmt p 4 s.sec.chain

def execGetCertificate (mgmt : Bool) (slot off len : Nat) (s : State) : Out :=
  spdmAt mgmt 3 s fun s p => if slot = 0 then spdmSay s mgmt p 5 ((s.sec.chain.drop off).take len) else spdmSay s mgmt p 0 []

def execChallenge (mgmt : Bool) (nonce : List Byte) (s : State) : Out := spdmAt mgmt 3 s fun s p => spdmSay s mgmt p 6 nonce

/-- GET_MEASUREMENTS: block 1 is the report, block 2 the stored attestation log. -/
def execGetMeasurements (mgmt : Bool) (nonce : List Byte) (block : Nat) (s : State) : Out :=
  spdmAt mgmt 3 s fun s p =>
    match block with
    | 1 => spdmSay s mgmt p 7 (report s nonce)
    | 2 => spdmSay s mgmt p 7 s.sec.attest.flatten
    | _ => spdmSay s mgmt p 0 []

end Sys2Proof.Machine
end

