-- ==== Sys2Proof/Machine/GroupCtl.lean ====
section
/-! DEFINITION. Machine/GroupCtl.lean: the group session: roles, membership, heartbeats, group launches, schedules, telemetry and domain
summaries (R460 to R465). -/

namespace Sys2Proof.Machine

open Sys2Proof

def setGroup (s : State) (g : Group_) : State := { s with fab := { s.fab with group := g } }

/-- A GROUP_CTL frame of this module: no partition is named outside a LAUNCH, so that 0 stands there. -/
def sayGroup (s : State) (module code : Nat) (body : List Byte) : State := sendCtl s ftGroupCtl 0 module code body

/-- A GROUP_CTL frame `code` for this module, after its link check; it waits while the scheduler core does (R545). -/
def groupIn (code : Nat) (rx : Rx) (s : State) (k : State → Frame → State) : Out :=
  onWay rx <| if procWaits s 2 then .next s else ctlIn ftGroupCtl code rx s fun s f => k (trace s 2 46) f

/-- The frame comes from the masthead of a worker that is a member. -/
def fromHead (s : State) (f : Frame) : Bool := !isMasthead s && f.srcModule == masthead s

/-- The masthead was heard. -/
def hearHead (s : State) : State := setGroup s { s.fab.group with heard := s.aon }

/-- Index of a module in the membership table. -/
def memberIdx (s : State) (m : Nat) : Option Nat := (s.fab.group.members.find? fun x => x.2.module == m && x.2.st != .removed).map (·.1)
def putMember (s : State) (i : Nat) (x : Member) : State := setGroup s { s.fab.group with members := Tab.set s.fab.group.members i x }

/-- The member was heard; one that was suspected is a member again. -/
def hearMember (s : State) (m : Nat) (f : Member → Member) : State :=
  match memberIdx s m with
  | some i => match Tab.find s.fab.group.members i with
    | some x => putMember s i (f { x with heard := s.aon, st := .member })
    | none => s
  | none => s

/-! ### OPT_ROLE (R460, R467, R638) -/

/-- Writable fields of OPT_ROLE. -/
def roleMask : W64 := 0x7FFF7FFFFF077FFF

/-- COMMIT is accepted: GSTATE, ROLE, and MODULE_ID that changes only while every port is DOWN. -/
def commitOk (s : State) (v : W64) : Bool :=
  (s.fab.group.gstate == 0 || s.fab.group.gstate == 3) && decide (bf v.toNat 16 2 ≤ 1)
    && ((s.fab.role.known && bf v.toNat 0 15 == ownModule s) || (List.range 16).all fun p => (getPort s p).st == .down)

/-- The fields apply, and the group session starts: a worker sends JOIN with its GROUP and its logical-core count (R460, R461). -/
def commitRole (s : State) (v : W64) : State :=
  let w := v &&& roleMask
  let g : Group_ := { gstate := if bf w.toNat 16 2 = 1 then 0 else 1, heard := s.aon, launches := s.fab.group.launches, out := s.fab.group.out }
  let s1 := { s with fab := { s.fab with role := { live := w, shadow := w, known := true }, group := g } }
  if g.gstate = 1 then sayGroup s1 (masthead s1) ccJoin (leBytes 1 (roleGroup s1) ++ leBytes 2 (logicalCores s1)) else s1

def roleOffset : Nat := 0x300408

/-- ROLE_COMMIT: a host write of OPT_ROLE with COMMIT set, under an open session of the PF (R460, R467). -/
def execRoleCommit (fn : Nat) (v : W64) (s : State) : Out :=
  if fn > 16 then .refused .noSuchUnit
  else if fn ≠ 0 then .next s
  else if !(getSess s 0).opened then .next (ignoreWrite s)
  else logChange s 0x0409 0xFF (openId s 0) (roleOffset + v.toNat * 2 ^ 64) fun s => .next (if commitOk s v then commitRole s v else ignoreWrite s)

/-! ### Membership (R461) -/

/-- The lowest free member index from 1 to 127. -/
def freeIndex (s : State) : Option Nat :=
  ((List.range 127).map (· + 1)).find? fun i => (Tab.find s.fab.group.members i).all fun x => x.st == .removed

def execJoin (rx : Rx) (s : State) : Out :=
  groupIn ccJoin rx s fun s f =>
    let m := f.srcModule
    if !isMasthead s then s
    else if fieldAt f.payload 1 1 ≠ roleGroup s then sayGroup s m ccRefuse []
    else match (memberIdx s m).orElse fun _ => freeIndex s with
    | none => sayGroup s m ccRefuse []
    | some i => sayGroup (putMember s i { module := m, cores := fieldAt f.payload 2 2, heard := s.aon }) m ccAccept (leBytes 1 i)

def execAccept (rx : Rx) (s : State) : Out :=
  groupIn ccAccept rx s fun s f =>
    if fromHead s f && s.fab.group.gstate == 1 then setGroup s { s.fab.group with gstate := 2, index := fieldAt f.payload 1 1, heard := s.aon } else s

def execRefuse (rx : Rx) (s : State) : Out :=
  groupIn ccRefuse rx s fun s f => if fromHead s f && s.fab.group.gstate == 1 then setGroup s { s.fab.group with gstate := 0 } else s

/-- REMOVE: the masthead's host names a module. -/
def execRemove (m : Nat) (s : State) : Out :=
  if !isMasthead s then .next s
  else match memberIdx s m with
  | none => .next s
  | some i => match Tab.find s.fab.group.members i with
    | some x => .next (sayGroup (putMember s i { x with st := .removed }) m ccRemove [])
    | none => .next s

/-! ### Heartbeats (R462) -/

/-- Modules of the members that are not removed. -/
def memberModules (s : State) : List Nat := (s.fab.group.members.filter fun x => x.2.st != .removed).map fun x => x.2.module

/-- HEARTBEAT_SEND: 10 ms after the last one. -/
def execHeartbeatSend (s : State) : Out :=
  let g := s.fab.group
  if s.aon < g.beat + 10 * msAon then .next s
  else
    let s1 := setGroup s { g with beat := s.aon }
    if isMasthead s then .next ((memberModules s).foldl (fun s m => sayGroup s m ccHeartbeat []) s1)
    else if g.gstate = 2 then .next (sayGroup s1 (masthead s) ccHeartbeat [])
    else .next s

def execHeartbeat (rx : Rx) (s : State) : Out :=
  groupIn ccHeartbeat rx s fun s f =>
    if isMasthead s then hearMember s f.srcModule id else if fromHead s f && s.fab.group.gstate == 2 then hearHead s else s

/-- A report to the masthead's host, for which the spec has no event (assumption 153). -/
def sayToHost (s : State) (l : List Said) : State := setGroup s { s.fab.group with said := s.fab.group.said ++ l }

/-- MEMBER_SILENCE: nothing from a member for 30 ms. -/
def execMemberSilence (i : Nat) (s : State) : Out :=
  match Tab.find s.fab.group.members i with
  | some x =>
    if isMasthead s ∧ x.st = .member ∧ s.aon ≥ x.heard + 30 * msAon then .next (sayToHost (putMember s i { x with st := .suspect }) [.suspect i])
    else .next s
  | none => .next s

/-- MASTHEAD_SILENCE: nothing from the masthead for 50 ms, for a member or a worker that still joins. -/
def execMastheadSilence (s : State) : Out :=
  let g := s.fab.group
  if !isMasthead s ∧ (g.gstate = 1 ∨ g.gstate = 2) ∧ s.aon ≥ g.heard + 50 * msAon then .next (setGroup s { g with gstate := 3 }) else .next s

/-! ### Group launches (R463) -/

/-- Status of a launch on a member and the state after it; none where a recovery waits for its owners. -/
def launchHere (s : State) (p : Nat) (b : List Byte) (ecc : EccHits) : Option Nat × State :=
  let f := p + 1
  if s.fwc.st ≠ 3 then (some csNotStarted, s)
  else if !argsOk { idx := 0, bytes := b } then (some csReserved, s)
  else if barePole s then (some csBusy, s)
  else if knownLaunch s p (launchId b) then (some csDup, s)
  else
    let s1 := keepLaunch s p (launchId b)
    match launchMode b with
    | 0 => let r := placeJob s1 f p b (.frame (launchId b)) ecc; (some r.1, r.2)
    | 1 => match postBad s1 p b with
      | some st => (some st, s1)
      | none => (some stOk, (postAll s1 p 1 s1.aon b).2)
    | _ => match recoverBad s1 f p b with
      | some st => (some st, s1)
      | none =>
        let s2 := (recoverFreeze (launchEcc s1 f p b ecc) ecc b).2
        if ownersIdle s2 ecc b then let r := recoverRun s2 ecc f p b (.frame (launchId b)); (some r.1, r.2) else (none, s2)

def ackLaunch (s : State) (m l st : Nat) : State := sayGroup s m ccLaunchAck (leBytes 8 l ++ leBytes 2 st)

/-- The launch is answered, and its status is kept for a repeated LAUNCH. -/
def closeLaunch (s : State) (m p l st : Nat) : State :=
  ackLaunch (setGroup s { s.fab.group with launches := (p, l, st) :: s.fab.group.launches }) m l st

/-- The LAUNCH of the frame waits at the receiver while a channel of its ranges serves nothing (R415). -/
def frameHeld (s : State) (f : Frame) : Bool :=
  let b := (f.payload.drop 1).take 64
  let p := fieldAt f.payload 65 1
  fromHead s f && s.fwc.st == 3 && decide (p < 16) && launchWaits s (p + 1) p b false

/-- LAUNCH at a member: a known launch id of its partition is answered again (R463, R494), one that still waits when it is done. -/
def execLaunchFrame (rx : Rx) (s : State) : Out :=
  onWay rx <| if frameHeld s rx.frame then .next s else groupIn ccLaunch rx s fun s f =>
    let b := (f.payload.drop 1).take 64
    let p := fieldAt f.payload 65 1
    let l := launchId b
    if !(fromHead s f && s.fab.group.gstate == 2) || decide (p ≥ 16) then s
    else
      let s0 := hearHead s
      let waits (x : Recovering) : Bool := x.part == p && x.id == l
      match s0.fab.group.launches.find? fun x => x.1 == p && x.2.1 == l with
      | some x => ackLaunch s0 f.srcModule l x.2.2
      | none =>
        let more (x : Recovering) : Recovering := if waits x then { x with from_ := x.from_ ++ [f.srcModule] } else x
        if s0.fab.group.recovering.any waits then setGroup s0 { s0.fab.group with recovering := s0.fab.group.recovering.map more }
        else
          let r := launchHere s0 p b rx.ecc
          match r.1 with
          | none => setGroup r.2 { r.2.fab.group with recovering := r.2.fab.group.recovering ++ [{ id := l, from_ := [f.srcModule], part := p, record := b }] }
          | some st => closeLaunch r.2 f.srcModule p l st

/-- A group recovery whose killed owners are IDLE goes on, and is answered (R311, R463). -/
def resumeRecovery (ecc : EccHits) (s : State) (x : Recovering) : State :=
  if ownersIdle s ecc x.record && !launchHeld s (x.part + 1) x.part x.record then
    let s1 := setGroup s { s.fab.group with recovering := s.fab.group.recovering.filter (· != x) }
    let r := recoverRun s1 ecc (x.part + 1) x.part x.record (.frame x.id)
    x.from_.tail.foldl (fun s m => ackLaunch s m x.id r.1) (closeLaunch r.2 (x.from_.headD 0) x.part x.id r.1)
  else s

/-- CONTEXT_IDLE (R124): group recoveries that waited for the context go on, with what their HBM words show (R411). -/
def execContextIdle (c n : Nat) (ecc : EccHits) (s : State) : Out :=
  onCtx c n <|
    let s1 := idleCtx s c n
    .next (s1.fab.group.recovering.foldl (resumeRecovery ecc) s1)

/-- The values of STATUS in a completion record, but for OK (R489). -/
def badStatuses : List Nat :=
  [1, 2, 3, 4, 6, 0x10, 0x21, 0x22, 0x30, 0x40, 0x41, 0x42, 0x43, 0x44, 0x45, 0x46, 0x47, 0x48, 0x49]

/-- The combined result goes to the host, with the members that did not answer marked: OK when every member answered OK; otherwise which value
of R489 STATUS has is open, as RESULT always is. -/
def reportLaunch (s : State) (g : GroupLaunch) : State :=
  let ok := g.waiting.isEmpty && g.statuses.all fun x => x.2 == stOk
  let d := drawFree s
  let e := drawFree d.2
  let s1 := setGroup e.2 { e.2.fab.group with out := e.2.fab.group.out.filter fun x => !(x.id == g.id && x.fn == g.fn) }
  let s2 := sayToHost s1 (g.waiting.map (Said.silent g.id))
  completeCmd s2 g.fn g.ring g.idx (if ok then stOk else badStatuses.getD (d.1 % badStatuses.length) csBusy) (leBytes 15 e.1)

def execLaunchAck (rx : Rx) (s : State) : Out :=
  groupIn ccLaunchAck rx s fun s0 f =>
    let l := fieldAt f.payload 1 8
    let s := hearMember s0 f.srcModule id
    match s.fab.group.out.find? fun g => g.id == l && g.waiting.contains f.srcModule with
    | none => s
    | some g =>
      let g1 := { g with waiting := g.waiting.filter (· != f.srcModule), statuses := g.statuses ++ [(f.srcModule, fieldAt f.payload 9 2)] }
      let s1 := setGroup s { s.fab.group with out := s.fab.group.out.map fun x => if x.id = g.id ∧ x.fn = g.fn then g1 else x }
      if g1.waiting.isEmpty then reportLaunch s1 g1 else s1

def execLaunchReportTimeout (l : Nat) (s : State) : Out :=
  match s.fab.group.out.find? fun g => g.id == l && decide (s.aon ≥ g.since + 100 * msAon) with
  | some g => .next (reportLaunch s g)
  | none => .next s

/-! ### Schedules and telemetry (R464, R607) -/

def execSchedule (rx : Rx) (s : State) : Out :=
  groupIn ccSchedule rx s fun s f =>
    if fromHead s f && s.fab.group.gstate == 2 then
      let t := hearHead s
      setGroup t { t.fab.group with schedule := f.payload.drop 1 }
    else s

/-- TELEMETRY_SEND: a member sends its values every 100 ms. -/
def execTelemetrySend (s : State) : Out :=
  let g := s.fab.group
  if !isMasthead s ∧ g.gstate = 2 ∧ s.aon ≥ g.telem + 100 * msAon then
    .next (sayGroup (setGroup s { g with telem := s.aon }) (masthead s) ccTelemetry
      (leBytes 8 (pwrTelem s) ++ leBytes 8 (pwrTemp s) ++ leBytes 8 s.pwr.energy.toNat))
  else .next s

def execTelemetry (rx : Rx) (s : State) : Out :=
  groupIn ccTelemetry rx s fun s f =>
    if isMasthead s then hearMember s f.srcModule fun x => { x with telemetry := f.payload.drop 1 } else s

/-! ### The domain manager (R465) -/

/-- DOMAIN_SUMMARY: byte 0 of a summary is the masthead's GROUP; a second masthead of a GROUP is refused, and one summary is taken of each every
second. -/
def execDomainSummary (m : Nat) (summary : List Byte) (s : State) : Out :=
  let grp := fieldAt summary 0 1
  if isDomainMgr s ∧ (Tab.find s.fab.group.domain grp).all (fun x => x.1 == m && decide (s.aon ≥ x.2.2 + secAon)) then
    .next (setGroup s { s.fab.group with domain := Tab.set s.fab.group.domain grp (m, summary, s.aon) })
  else .next s

end Sys2Proof.Machine
end

