-- ==== Sys2Proof/Machine/Startup.lean ====
section
/-! DEFINITION. Machine/Startup.lean: the sideband pins that enable and reset the module, start-up and the boot stages (R535, R536, R658 to
R671). -/

namespace Sys2Proof.Machine

open Sys2Proof

/-! ### Output pins that the state determines (R658, R659) -/

/-- PWR_GOOD: high while the mast-die rails are in regulation. -/
def pwrGood (s : State) : Bool := decide (s.pins.step ≥ 2)

/-- ALERT_N (R659). -/
def alertN (s : State) : Bool :=
  !(s.pwr.powerEmerg || s.pwr.thermalEmerg || s.hub.moduleFault || (s.fwc.st == 0 && decide (s.pins.step ≥ 3)) || s.pins.shutHold)

/-- The module's I3C address: the dynamic one once it is assigned, otherwise the static one, 0x30 + GA (R657). -/
def i3cStatic (s : State) : BitVec 7 := 0x30 + s.pins.ga.setWidth 7
def i3cAddress (s : State) : BitVec 7 := s.pins.i3cDynamic.getD (i3cStatic s)

/-! ### Enable, resets (R660, R665 to R668) -/

/-- POWER_ON_RESET: the always-on logic starts; LAST_SHUTDOWN and the stay switches keep what they hold, and start-up goes on as the
pins and a thermal hold allow. -/
def execPowerOnReset (s : State) : Out :=
  let s1 := enterOff s
  let s2 := { s1 with aon := 0, aclks := [], nclks := [], xclk := 0
                      fab := { s1.fab with stay := s.fab.stay }
                      pwr := { lastShutdown := s.pwr.lastShutdown, thermHold := s.pwr.thermHold }
                      pins := { s1.pins with thermtripN := true, holdStuck := [] } }
  .next (if s2.pins.modEn && !s2.pwr.thermHold then leaveOff s2 else s2)

/-- MOD_EN_RISE: a recorded shutdown is cleared, and the module leaves Off unless it is still too hot (R593, R659). -/
def execModEnRise (s : State) : Out :=
  let s1 := { s with pins := { s.pins with modEn := true, shutHold := false, thermtripN := true } }
  .next (if isOff s && !s.pwr.thermHold && !s.pins.modEn then leaveOff s1 else s1)

/-- MOD_EN_FALL: Off, with the enable input recorded. -/
def execModEnFall (s : State) : Out :=
  let s1 := shutdown s 4
  .next { s1 with pins := { s1.pins with modEn := false } }

/-- MOD_RST_N_FALL: the module reset, for as long as the pin is low. -/
def execModRstNFall (s : State) : Out :=
  let s1 := { s with pins := { s.pins with modRstN := false } }
  .next (if isOff s then s1 else moduleReset s1 2)

/-- MOD_RST_N_RISE: start-up continues from step 3. -/
def execModRstNRise (s : State) : Out :=
  let s1 := { s with pins := { s.pins with modRstN := true } }
  .next (if s.pins.step = 2 then releaseReset s1 else s1)

/-- PERST_FALL: a hot reset; during a module reset or start-up it only holds the PCIe controller in reset (R660, R667). -/
def execPerstFall (s : State) : Out :=
  let s1 := if s.fwc.stage ≥ 5 then hotReset s else { s with hif := { s.hif with link := {} } }
  .next { s1 with pins := { s1.pins with perstN := false, pcieInReset := true } }

/-- PERST_RISE: the PCIe controller leaves reset once step 3 has been reached too. -/
def execPerstRise (s : State) : Out :=
  .next { s with pins := { s.pins with perstN := true, pcieInReset := decide (s.pins.step < 3) } }

/-! ### Boot (R535, R536) -/

/-- RECOVERY: no port leaves DOWN, and the PCIe link stays in Detect. -/
def enterRecovery (s : State) : State :=
  { s with fwc := { s.fwc with st := 0 }, hif := { s.hif with link := {} }, fab := { s.fab with ports := s.fab.ports.map fun p => (p.1, { p.2 with st := .down }) } }

/-- The module waits for boot stage `n`. -/
def booting (s : State) (n : Nat) : Bool := decide (s.pins.step = 3) && s.fwc.st == 1 && s.fwc.stage == n

/-- The measurements of an image (R534, R585). -/
def measure (s : State) (slot : Nat) : State :=
  let m := slotMem s slot
  let s1 := attestAdd s 1 slot (memReadN 0xFF m 24 8 ++ memReadN 0xFF m 16 8 ++ memReadN 0xFF m 12 4)
  (List.range 4).foldl (fun s i => attestAdd s 2 slot (leBytes 8 (compType m i) ++ compDigest m i)) s1

/-- The ROM boots a slot. -/
def bootSlot (s : State) (slot : Nat) (fallback : Bool) : State :=
  let s1 := measure s slot
  { s1 with fwc := { s1.fwc with slot := slot == 1, fallback := fallback, running := fwImageOf (slotMem s slot) slot, stage := 1 } }

/-- A record whose SEVERITY, CODE and DATA the spec does not give. -/
def bootLog (s : State) (src which : Nat) : State :=
  let d := drawFree s
  logRecord d.2 src (Config.bootRecord which).1 (Config.bootRecord which).2 0xFF 0 (d.1 % 2 ^ 256)

/-! #### The two-copy items as boot finds them (R532, R570) -/

def dropCopies {α : Type} (bad : List ItemCopy) (i : FlashItem) (x : TwoCopy α) : TwoCopy α :=
  { copy0 := if bad.contains { item := i, second := false } then none else x.copy0
    copy1 := if bad.contains { item := i, second := true } then none else x.copy1 }

/-- Copies that are found not valid hold nothing. -/
def loseCopies (s : State) (bad : List ItemCopy) : State :=
  let f := s.fwc.flash
  setFlash s { f with boot := dropCopies bad .bootRecord f.boot, fieldMap := dropCopies bad .rowMap f.fieldMap
                      repair := dropCopies bad .repairList f.repair, creds := dropCopies bad .credentials f.creds }

/-- FLASH_ITEM_LOST of an item with no valid copy, recorded by processor `src`. -/
def logLost {α : Type} (src : Nat) (x : TwoCopy α) (s : State) : State := if (copyInUse x).isNone then bootLog s src 2 else s
/-- CRED_STORE_LOST. -/
def logCreds (s : State) : State := if (copyInUse s.fwc.flash.creds).isNone then securityRecord s 0x040C 0xFF 0 0 else s

/-- BOOT_STAGE_0: the ROM reads the boot record and verifies the active slot under R534, else the other one. -/
def execBootStage0 (bad : List ItemCopy) (s : State) : Out :=
  let ok (k : Nat) : Bool := (verifyImage s (slotMem s k)).isNone
  let s1 := loseCopies s (bad.filter (·.item == .bootRecord))
  let s2 := logLost 3 s1.fwc.flash.boot s1
  let a := if activeSlot s2 = 1 then 1 else 0
  if !booting s 0 then .next s
  else if ok a then .next (bootSlot s2 a false)
  else if ok (1 - a) then .next (bootSlot (bootLog s2 3 0) (1 - a) true)
  else .next (enterRecovery s2)

/-- BOOT_STAGE_1: SEC verifies the digests of the slot that boots and reads the other items of the flash, the log goes on from its largest SEQ, session ids from its largest id, and mailboxes are served (R544, R564). -/
def execBootStage1 (bad : List ItemCopy) (s : State) : Out :=
  if !booting s 1 then .next s
  else if !digestsOk (slotMem s (if s.fwc.slot then 1 else 0)) then .next (enterRecovery s)
  else
    let s0 := bootLog { s with log := scanLog s.log } 0 1
    let f := loseCopies s0 (bad.filter (·.item != .bootRecord))
    let s1 := logCreds (logLost 0 f.fwc.flash.repair (logLost 0 f.fwc.flash.fieldMap f))
    .next (sweepAll { s1 with fwc := { s1.fwc with stage := 2, version := s1.fwc.running.version, calmSince := s1.aon }
                              sec := { s1.sec with nextSession := nextSessionOf s1.log } })

/-- The commission of stack `st` at start-up; of the module's channels, those of `failed` need a spare bank, and those of `restored` are in
service again (R409, R413, R414, R418). -/
def bootStack (failed restored : List Nat) (s : State) (st : Nat) : State :=
  let own (l : List Nat) : List Nat := (l.filter fun ch => ch / 32 == st).map (· % 32)
  trainStack (repairStack s st (own failed) (own restored)) st

/-- BOOT_STAGE_2: every stack is commissioned; a failure is a hardware shutdown, whose code in LAST_SHUTDOWN the spec leaves open. -/
def execBootStage2 (rails : BootCheck) (failed restored : List Nat) (s : State) : Out :=
  if failed.any (· ≥ 256) || restored.any (· ≥ 256) then .refused .noSuchUnit
  else if !booting s 2 then .next s
  else if rails = .fails then
    let d := drawFree s
    .next (shutdown d.2 d.1)
  else
    let s1 := (List.range 8).foldl (bootStack failed restored) s
    .next { trace s1 1 0 with fwc := { s1.fwc with stage := 3 } }

/-- The column map of a row with every retired position in it, in the order of the columns (R29, R33). -/
def retiredMap (s : State) (spar row : Nat) : ColMap :=
  let gone := (List.range 17).filter fun j => (getPhys s (physId spar row j)).retired
  gone.foldl (fun m p => mapRetire m (fun j => gone.contains j && decide (j < p)) p) {}

/-- The 16 column maps from the positions that are retired. -/
def restoreMaps (s : State) : State :=
  (List.range 16).foldl (fun s n =>
    if (List.range 17).any fun j => (getPhys s (physId (n / 8) (n % 8) j)).retired then
      setColMap s (n / 8) (n % 8) (retiredMap s (n / 8) (n % 8))
    else s) s

/-- Positions that fuse or field entries name, rising. -/
def mapPositions (s : State) : List Nat :=
  (List.range 272).filter fun p => !(getPhys s p).fuse.isEmpty || (fieldMap s).any fun w => (fieldEntry w).any (·.1 == p)

/-- A position whose core its entries make exhausted is retired at this commission (R174). -/
def retireExhausted (s : State) : State :=
  ((mapPositions s).filter fun p => !(getPhys s p).retired).foldl (fun s p =>
    if posExhausted s p then retireCore s (p / 136) (p % 136 / 17) (p % 17) else s) s

/-- The commission of every core: the row maps of the positions that have entries are programmed, and then every core is as a commission
leaves it, its scratchpad's written-since-commission bits cleared (R168, R172). -/
def commissionAll (s : State) : State :=
  let s1 := (s.phys.map (·.1)).foldl (fun s p => setPhys s p { getPhys s p with epoch := (getPhys s p).expected }) s
  let stopped := coreSclk s1 0 = 0 ∧ coreSclk s1 128 = 0
  let s2 := { s1 with cores := if stopped then [] else (List.range 256).map fun c => (c, { cycle0 := coreSclk s1 c }) }
  ((mapPositions s2).filter fun p => !(getPhys s2 p).retired).foldl (fun s p =>
    applyRowMap s p ((List.range 256).find? fun c => physOf s c == some p)) s2

/-- BOOT_STAGE_3: the spar dies and control cores are commissioned, and P4 to P15 train. -/
def execBootStage3 (spars : BootCheck) (s : State) : Out :=
  if !booting s 3 then .next s
  else if spars = .fails then .next (enterRecovery s)
  else
    let s1 := commissionAll (retireExhausted (restoreMaps (trace s 0 0)))
    let s2 := { s1 with hub := { s1.hub with ctl := s1.hub.ctl.map fun x => (x.1, { x.2 with epoch := x.2.expected }) }, fwc := { s1.fwc with stage := 4 } }
    .next (((List.range 12).map (· + 4)).foldl (fun s p => if (getPort s p).light then setPortSt s p .training false else s) s2)

/-- The whole HBM is scrubbed: every region that is not WITHDRAWN is FREE and reads zero (R410, R419); no partition holds one yet. -/
def scrubAll (s : State) : State :=
  let gone (r : Nat) : Bool := (getRegion s r).st == .withdrawn || (getRegion s r).st == .assigned
  { s with hbm := { s.hbm with
      regions := (List.range 768).foldl (fun t r => if gone r then t else Tab.set t r { st := .free }) s.hbm.regions
      bytes := s.hbm.bytes.filter fun c => gone (c.1 / gib) } }

/-- BOOT_STAGE_4: scrub, then READY. -/
def execBootStage4 (s : State) : Out :=
  if !booting s 4 then .next s
  else
    let s1 := scrubAll (trace s 2 0)
    .next { s1 with fwc := { s1.fwc with st := 2, stage := 5 } }

end Sys2Proof.Machine
end

