-- ==== Sys2Proof/Machine/RegMap.lean ====
section
/-! DEFINITION. Machine/RegMap.lean: the register maps of BAR0 of the PF and of a VF (R640 to R650), and the value that every register
reads (R33, R123, R176, R222, R254, R289, R313, R365, R404, R421, R467, R512, R528, R556, R589, R608, R632, R642). -/

namespace Sys2Proof.Machine

open Sys2Proof

/-! ### Registers -/

/-- Registers of a per-core window (R648); `n` is the context, queue, channel or ring. -/
inductive CoreReg where
  | ctxCtl (n : Nat) | ctxEntry (n : Nat) | ctxBase (n : Nat) | ctxBound (n : Nat) | ctxStatus (n : Nat) | c0
  | spdSize | spdSpares | spdEcc | spdEvents | fldCaps | fldStats | fldStalls | arrCaps | arrStalls | arrStats
  | accCaps | accEvents | foldCfg (n : Nat) | foldStatus (n : Nat)
  | dmaCaps | dmaCancel | dmaFence | dmaEvents | halCfg | halStatus | halStats | queueCfg (n : Nat) | queueStatus (n : Nat)
  | mshCfg | mshEvents | mshMbox | ringStatus (n : Nat)
deriving DecidableEq, Repr

/-- Registers of BAR0. -/
inductive Reg where
  | hubId | hubCaps | hubFault | barEvents | cdcErr | c0Status | c0Mon (k : Nat) | c0Budget (n : Nat) | coreOut (k : Nat) | colmap (n : Nat)
  | part (n : Nat)
  | fwcState | fwcVersion | mboxCtl | mboxStatus | traceEn | fwcLog | reqBuffer | rspBuffer | secSess (k : Nat) | secDebug
  | pwrCtl | pwrCap | pwrStatus | pwrTelem | pwrTemp | pwrEnergy
  | pciLink | dbBase | evqBase | evqCfg | evqStatus | ringSq (n : Nat) | ringCq (n : Nat) | ringCfg (n : Nat) | ringStat (n : Nat)
  | vector (v : Nat) | pendingBits
  | ctrCtl (n : Nat) | ctrValue (n : Nat) | ctrLimit (n : Nat) | ctrLedger (n : Nat) | wctEvents
  | hbmCaps | bandmap (k : Nat) | trainCfg | hbmEvents | hbmEcc (n : Nat) | region (n : Nat)
  | portCfg (n : Nat) | portStatus (n : Nat) | portStats (n : Nat) | stay | role | optEvents | route (m : Nat) | tree (n : Nat)
  | treeStatus (n : Nat)
  | arbClass (set n : Nat) | arbQuota (set : Nat) | arbCommit (set : Nat) | mshCdc (die : Nat)
  | core (c : Nat) (r : CoreReg)
deriving DecidableEq, Repr

/-- A row of a map: `count` registers of `size` bytes from `base`, `stride` bytes apart. -/
structure MapRow (α : Type) where
  base : Nat
  stride : Nat := 0
  count : Nat := 1
  size : Nat
  reg : Nat → α

/-- The register that holds offset `o`, with its own offset and size. -/
def rowAt {α : Type} (o : Nat) (r : MapRow α) : Option (α × Nat × Nat) :=
  let n := if r.stride = 0 then 0 else (o - r.base) / r.stride
  let b := r.base + n * r.stride
  if r.base ≤ o ∧ n < r.count ∧ o < b + r.size then some (r.reg n, b, r.size) else none

/-- R641. -/
def hubRows : List (MapRow Reg) :=
  [ { base := 0x0000, size := 8, reg := fun _ => .hubId }, { base := 0x0008, size := 8, reg := fun _ => .hubCaps },
    { base := 0x0010, size := 4, reg := fun _ => .hubFault }, { base := 0x0018, size := 4, reg := fun _ => .barEvents },
    { base := 0x0020, size := 4, reg := fun _ => .cdcErr }, { base := 0x0040, size := 4, reg := fun _ => .c0Status },
    { base := 0x0048, stride := 8, count := 3, size := 8, reg := .c0Mon }, { base := 0x0080, stride := 8, count := 16, size := 4, reg := .c0Budget },
    { base := 0x0100, stride := 8, count := 4, size := 8, reg := .coreOut }, { base := 0x0200, stride := 8, count := 16, size := 4, reg := .colmap },
    { base := 0x0300, stride := 8, count := 16, size := 8, reg := .part } ]

/-- R643, firmware, security and power. -/
def fwRows : List (MapRow Reg) :=
  [ { base := 0x10000, size := 4, reg := fun _ => .fwcState }, { base := 0x10008, size := 8, reg := fun _ => .fwcVersion },
    { base := 0x10010, size := 4, reg := fun _ => .mboxCtl }, { base := 0x10018, size := 4, reg := fun _ => .mboxStatus },
    { base := 0x10020, size := 8, reg := fun _ => .traceEn }, { base := 0x10028, size := 8, reg := fun _ => .fwcLog },
    { base := 0x11000, size := 4096, reg := fun _ => .reqBuffer }, { base := 0x12000, size := 4096, reg := fun _ => .rspBuffer },
    { base := 0x18000, stride := 8, count := 18, size := 8, reg := .secSess }, { base := 0x18100, size := 4, reg := fun _ => .secDebug },
    { base := 0x20000, size := 4, reg := fun _ => .pwrCtl }, { base := 0x20008, size := 4, reg := fun _ => .pwrCap },
    { base := 0x20010, size := 4, reg := fun _ => .pwrStatus }, { base := 0x20018, size := 8, reg := fun _ => .pwrTelem },
    { base := 0x20020, size := 8, reg := fun _ => .pwrTemp }, { base := 0x20028, size := 8, reg := fun _ => .pwrEnergy } ]

/-- A function's own registers, with its block at `b`, its MSI-X table at `t`, `rings` rings and `vecs` vectors (R643, R650). -/
def fnRows (b t rings vecs : Nat) : List (MapRow Reg) :=
  [ { base := b + 0x08, size := 8, reg := fun _ => .dbBase }, { base := b + 0x10, size := 8, reg := fun _ => .evqBase },
    { base := b + 0x18, size := 8, reg := fun _ => .evqCfg }, { base := b + 0x20, size := 8, reg := fun _ => .evqStatus },
    { base := b + 0x100, stride := 0x20, count := rings, size := 8, reg := .ringSq }, { base := b + 0x108, stride := 0x20, count := rings, size := 8, reg := .ringCq },
    { base := b + 0x110, stride := 0x20, count := rings, size := 8, reg := .ringCfg }, { base := b + 0x118, stride := 0x20, count := rings, size := 8, reg := .ringStat },
    { base := t, stride := 16, count := vecs, size := 16, reg := .vector }, { base := t + 0x1000, size := 16, reg := fun _ => .pendingBits } ]

/-- R644. -/
def midRows : List (MapRow Reg) :=
  [ { base := 0x100000, stride := 0x20, count := 256, size := 4, reg := .ctrCtl }, { base := 0x100008, stride := 0x20, count := 256, size := 4, reg := .ctrValue },
    { base := 0x100010, stride := 0x20, count := 256, size := 4, reg := .ctrLimit }, { base := 0x100018, stride := 0x20, count := 256, size := 8, reg := .ctrLedger },
    { base := 0x102000, size := 8, reg := fun _ => .wctEvents },
    { base := 0x200000, size := 4, reg := fun _ => .hbmCaps }, { base := 0x200010, stride := 8, count := 3, size := 4, reg := .bandmap },
    { base := 0x200030, size := 4, reg := fun _ => .trainCfg }, { base := 0x200038, size := 8, reg := fun _ => .hbmEvents },
    { base := 0x200100, stride := 0x10, count := 8, size := 16, reg := .hbmEcc }, { base := 0x201000, stride := 4, count := 768, size := 4, reg := .region },
    { base := 0x300000, stride := 0x20, count := 16, size := 8, reg := .portCfg }, { base := 0x300008, stride := 0x20, count := 16, size := 4, reg := .portStatus },
    { base := 0x300010, stride := 0x20, count := 16, size := 8, reg := .portStats }, { base := 0x300400, size := 4, reg := fun _ => .stay },
    { base := 0x300408, size := 8, reg := fun _ => .role }, { base := 0x300410, size := 8, reg := fun _ => .optEvents },
    { base := 0x310000, stride := 2, count := 32768, size := 2, reg := .route }, { base := 0x320000, stride := 0x40, count := 64, size := 64, reg := .tree },
    { base := 0x321000, stride := 8, count := 64, size := 8, reg := .treeStatus }, { base := 0x400400, stride := 8, count := 2, size := 4, reg := .mshCdc } ]

/-- R645. -/
def arbRows (set : Nat) : List (MapRow Reg) :=
  [ { base := arbOffset set, stride := 8, count := 4, size := 4, reg := .arbClass set }, { base := arbOffset set + 0x20, size := 4, reg := fun _ => .arbQuota set },
    { base := commitOffset set, size := 4, reg := fun _ => .arbCommit set } ]

/-- R648. -/
def coreRows : List (MapRow CoreReg) :=
  [ { base := 0x0000, stride := 0x40, count := 8, size := 4, reg := .ctxCtl }, { base := 0x0008, stride := 0x40, count := 8, size := 8, reg := .ctxEntry },
    { base := 0x0010, stride := 0x40, count := 8, size := 4, reg := .ctxBase }, { base := 0x0018, stride := 0x40, count := 8, size := 4, reg := .ctxBound },
    { base := 0x0020, stride := 0x40, count := 8, size := 8, reg := .ctxStatus }, { base := 0x0200, size := 4, reg := fun _ => .c0 },
    { base := 0x1000, size := 4, reg := fun _ => .spdSize }, { base := 0x1008, size := 4, reg := fun _ => .spdSpares },
    { base := 0x1010, size := 8, reg := fun _ => .spdEcc }, { base := 0x1018, size := 8, reg := fun _ => .spdEvents },
    { base := 0x2000, size := 4, reg := fun _ => .fldCaps }, { base := 0x2008, size := 8, reg := fun _ => .fldStats }, { base := 0x2010, size := 8, reg := fun _ => .fldStalls },
    { base := 0x3000, size := 4, reg := fun _ => .arrCaps }, { base := 0x3008, size := 8, reg := fun _ => .arrStalls }, { base := 0x3010, size := 8, reg := fun _ => .arrStats },
    { base := 0x4000, size := 4, reg := fun _ => .accCaps }, { base := 0x4008, size := 8, reg := fun _ => .accEvents },
    { base := 0x4100, stride := 0x10, count := 16, size := 8, reg := .foldCfg }, { base := 0x4108, stride := 0x10, count := 16, size := 8, reg := .foldStatus },
    { base := 0x5000, size := 4, reg := fun _ => .dmaCaps }, { base := 0x5008, size := 4, reg := fun _ => .dmaCancel }, { base := 0x5010, size := 4, reg := fun _ => .dmaFence },
    { base := 0x5018, size := 8, reg := fun _ => .dmaEvents }, { base := 0x5020, size := 8, reg := fun _ => .halCfg }, { base := 0x5028, size := 8, reg := fun _ => .halStatus },
    { base := 0x5030, size := 8, reg := fun _ => .halStats }, { base := 0x5100, stride := 0x10, count := 16, size := 4, reg := .queueCfg },
    { base := 0x5108, stride := 0x10, count := 16, size := 4, reg := .queueStatus }, { base := 0x6000, size := 8, reg := fun _ => .mshCfg },
    { base := 0x6008, size := 8, reg := fun _ => .mshEvents }, { base := 0x6010, size := 4, reg := fun _ => .mshMbox },
    { base := 0x6100, stride := 8, count := 16, size := 8, reg := .ringStatus } ]

/-- The map of the PF outside the per-core windows. -/
def pfRows : List (MapRow Reg) :=
  hubRows ++ fwRows ++ ({ base := 0x30000, size := 4, reg := fun _ => .pciLink } :: fnRows 0x30000 0x40000 4 128) ++ midRows
    ++ (List.range 5).flatMap arbRows

/-- The register at an offset of BAR0 of function `f`, with its own offset and size. -/
def regAt (f o : Nat) : Option (Reg × Nat × Nat) :=
  if f ≠ 0 then (fnRows 0 0x10000 64 120).findSome? (rowAt o)
  else if 0x1000000 ≤ o ∧ o < 0x2000000 then
    let c := (o - 0x1000000) / 0x10000
    (coreRows.findSome? (rowAt ((o - 0x1000000) % 0x10000))).map fun x => (.core c x.1, 0x1000000 + c * 0x10000 + x.2.1, x.2.2)
  else pfRows.findSome? (rowAt o)

/-- What an access reaches (R633, R635). -/
inductive RegHit where
  /-- It completes as Unsupported Request. -/
  | bad
  | unused
  /-- Register and offset of the access in it. -/
  | reg (r : Reg) (o : Nat)
deriving DecidableEq, Repr

/-- Function whose map an access uses. -/
def accessFn (a : BarAccess) : Nat := if a.agent = .host then a.fn else 0

/-- The access lies in the register, or is one of the exceptions of R644. -/
def accessFits (a : BarAccess) (r : Reg) (b size : Nat) : Bool := match r with
  | .route _ => true
  | .tree _ => a.size == 8
  | _ => decide (a.off + a.size ≤ b + size)

def regHit (a : BarAccess) : RegHit :=
  if (a.size ≠ 4 ∧ a.size ≠ 8) ∨ a.off % a.size ≠ 0 then .bad
  else match regAt (accessFn a) a.off with
  | none => .unused
  | some x => if accessFits a x.1 x.2.1 x.2.2 then .reg x.1 (a.off - x.2.1) else .bad

/-! ### Values -/

/-- A word from fields: lowest bit and value. -/
def packFields (l : List (Nat × Nat)) : Nat := l.foldl (fun a x => a + x.2 * 2 ^ x.1) 0

def foldCode : FoldSt → Nat
  | .idle => 0 | .armed => 1 | .complete => 2 | .timeout => 3 | .refused => 4 | .waiting => 5
def halCode : HalSt → Nat
  | .off => 0 | .running => 1 | .broken => 2 | .configError => 3 | .stopped => 4
def ctxCode : CtxSt → Nat
  | .idle => 0 | .running => 1 | .waiting => 2 | .halted => 3 | .faulted => 4
def ctrCode : CtrSt → Nat
  | .disabled => 0 | .running => 1 | .frozen => 2
def regionCode : RegSt → Nat
  | .free => 0 | .assigned => 1 | .quarantined => 2 | .scrubbing => 3 | .withdrawn => 4
def ringCode : RingSt → Nat
  | .off => 0 | .running => 1 | .draining => 2 | .error => 3
def partCode : PartSt → Nat
  | .none => 0 | .setUp => 1 | .teardown _ => 2
def stayCode : StaySt → Nat
  | .closed => 0 | .opened => 1 | .moving _ _ => 2

/-- Dispatched large-path descriptors of a DMA queue (R365). -/
def queueRuns (k : Core) (q : Nat) : List Run := k.runs.filter fun r => r.eng == .dma && !r.small && (descOf r.desc).queue == q

/-- Value of a core's register at NCLK cycle `now`. -/
def coreRegValue (now : Nat) (k : Core) : CoreReg → Nat
  | .ctxCtl n => packFields [(4, (getCtx k n).classFloor.toNat)]
  | .ctxEntry n => packFields [(1, (getCtx k n).entry.toNat)]
  | .ctxBase n => packFields [(6, (getCtx k n).base.toNat)]
  | .ctxBound n => packFields [(6, (getCtx k n).bound.toNat)]
  | .ctxStatus n => packFields [(32, (getCtx k n).faultPc.toNat), (16, (getCtx k n).cause.toNat), (8, outstanding k n), (0, ctxCode (getCtx k n).st)]
  | .c0 => packFields [(8, k.mesh.c0Token.toNat), (0, k.mesh.c0En.toNat)]
  | .spdSize => packFields [(16, 0x20), (0, 0x0800)]
  | .spdSpares => packFields [(21, k.spad.lowBank.toNat), (16, k.spad.lowLeft.toNat), (0, k.spad.mapped.toNat)]
  | .spdEcc => packFields [(32, k.spad.ueWord.toNat), (16, k.spad.ueCount.toNat), (0, k.spad.ceCount.toNat)]
  | .spdEvents => packFields [(32, k.spad.gathers.toNat), (0, k.spad.unwrittenNarrow.toNat)]
  | .fldCaps => packFields [(24, 0x40), (16, 0x10), (8, 0x10), (4, 0x4)]
  | .fldStats => packFields [(32, k.acc.fldEntries.toNat), (0, k.acc.fldMatches.toNat)]
  | .fldStalls => packFields [(32, k.acc.fldAbufStall.toNat), (0, k.acc.fldSpadStall.toNat)]
  | .arrCaps => packFields [(25, 0x40), (18, 0x40), (10, 0x80), (8, 0x2), (4, 0x4), (0, 0x7)]
  | .arrStalls => packFields [(32, k.acc.arrSupply.toNat), (0, k.acc.arrWriteback.toNat)]
  | .arrStats => packFields [(32, k.acc.arrBusy.toNat), (0, k.acc.mvpBusy.toNat)]
  | .accCaps => packFields [(24, 0x10), (20, 0x8), (15, 0x10), (4, 0x100), (0, 0x4)]
  | .accEvents => packFields [(48, k.acc.abandoned.toNat), (32, k.acc.implicitOpen.toNat), (16, k.acc.foldDiscard.toNat), (8, k.acc.ueCount.toNat),
      (0, k.acc.ceCount.toNat)]
  | .foldCfg n => (getFold k n).cfg.toNat
  | .foldStatus n => packFields [(48, (getFold k n).next), (0, foldCode (getFold k n).st)]
  | .dmaCaps => packFields [(24, 0x10), (12, 0x100), (4, 0x40), (0, 0x9)]
  | .dmaCancel => 0
  | .dmaFence => packFields [(17, k.dma.cancel.isSome.toNat), (16, k.dma.fenceDone.toNat), (0, k.dma.fenceTag.toNat)]
  | .dmaEvents => packFields [(32, k.dma.discarded.toNat), (16, k.dma.cancelBusy.toNat)]
  | .halCfg => k.dma.hal.cfg.toNat
  | .halStatus => packFields [(32, k.dma.hal.tile.toNat), (0, halCode k.dma.hal.st)]
  | .halStats => packFields [(32, (halStall now k.dma.hal).toNat), (0, k.dma.hal.forwarded.toNat)]
  | .queueCfg n => (Tab.get 0x20#8 k.dma.limit n).toNat
  | .queueStatus n => packFields [(16, (queueRuns k n).length), (0, queueHeld k n)]
  | .mshCfg => packFields [(48, k.mesh.respTimeout.toNat), (32, k.mesh.creditWait.toNat), (16, k.mesh.slotWait.toNat)]
  | .mshEvents => packFields [(48, k.mesh.xpartDrop.toNat), (32, k.mesh.slotDiscard.toNat), (16, k.mesh.creditNack.toNat), (0, k.mesh.mboxNack.toNat)]
  | .mshMbox => k.mesh.mailbox.length
  | .ringStatus n => ringStatus k n false

/-- The core whose registers a window shows: none reads zero; a CORE_OUT core shows its reset values (R649). -/
def windowCore (s : State) (c : Nat) : Option Core :=
  if sparLost s (sparOf c) || withdrawn s (clusterOf c) || (physOf s c).isNone then none
  else if coreLive s c then some (getCore s c) else some {}

/-- Bounds that are suspended anywhere in the module, bit 0 host to bit 3 fabric hop (R526, R528). -/
def suspended (s : State) : Nat :=
  ((List.range 4).filter fun b => s.hub.susp.any fun x => x.active && x.bounds.testBit b).foldl (fun a b => a + 2 ^ b) 0

def regValue (s : State) (f : Nat) : Reg → Nat
  | .hubId => packFields [(48, 0x9480), (40, Config.stepping.toNat), (0, Config.serial.toNat)]
  | .hubCaps => packFields [(48, logicalCores s), (40, 8), (32, 0xFF), (24, 0x10), (21, (!sparLost s 1).toNat), (20, (!sparLost s 0).toNat),
      (8, ((List.range 16).filter (clusterIn s)).length), (0, 0x10)]
  | .hubFault => hubFault s
  | .barEvents => packFields [(16, s.hub.ignoredWr.toNat), (0, s.hub.badAccess.toNat)]
  | .cdcErr => packFields [(16, s.hub.cdcLost.toNat), (8, s.hub.cdcResets.toNat), (0, s.hub.cdcLast.toNat)]
  | .c0Status => packFields [(4, suspended s), (0, (profileOf s).toNat)]
  | .c0Mon k => packFields [(32, (Tab.get 0#32 s.hub.monExceed k).toNat), (0, (Tab.get 0#32 s.hub.monMax k).toNat)]
  | .c0Budget n => packFields [(8, (getPart s n).c0Rings.toNat), (0, (getPart s n).c0Budget)]
  | .coreOut k => coreOutWord s k
  | .colmap n =>
    let m := colMap s (n / 8) (n % 8)
    packFields [(11, m.rowLost.toNat), (10, m.lost.toNat), (5, m.lostCol.toNat), (0, m.skipCol.toNat)]
  | .part n =>
    let p := getPart s n
    packFields [(48, p.clusters.toNat), (38, p.regions.length), (33, p.placement.toNat), (32, (vfLive s (n + 1)).toNat), (0, partCode p.st)]
  | .fwcState => packFields [(24, 1), (12, s.fwc.update.toNat), (5, s.fwc.fallback.toNat), (4, s.fwc.slot.toNat), (0, s.fwc.st.toNat)]
  | .fwcVersion => s.fwc.version.toNat
  | .mboxCtl => packFields [(8, s.fwc.mboxVector.toNat)]
  | .mboxStatus => packFields [(16, s.fwc.ignored.toNat), (1, s.fwc.done.toNat), (0, s.fwc.busy.toNat)]
  | .traceEn => s.log.traceEn.toNat
  | .fwcLog => packFields [(32, s.log.dropped.toNat), (0, nextWritten s % 2 ^ 32)]
  | .reqBuffer => leNum (memReadN 0 s.fwc.req 0 4096)
  | .rspBuffer => leNum (memReadN 0 s.fwc.rsp 0 4096)
  | .secSess k =>
    let x := getSess s k
    packFields [(32, if x.opened then x.id else 0), (4, min 15 x.fails), (3, (isLocked s k).toNat), (2, x.ide.toNat), (1, x.must.toNat), (0, x.opened.toNat)]
  | .secDebug => packFields [(2, Config.debugAllowed.toNat), (1, s.sec.debugSince.toNat), (0, (s.sec.debug).toNat)]
  | .pwrCtl => packFields [(16, s.pwr.reefLimit.toNat), (0, s.pwr.capHost.toNat)]
  | .pwrCap => packFields [(16, effectiveCap s.pwr), (0, s.pwr.capMgmt.toNat)]
  | .pwrStatus => pwrStatus s
  | .pwrTelem => pwrTelem s
  | .pwrTemp => pwrTemp s
  | .pwrEnergy => s.pwr.energy.toNat
  | .pciLink =>
    let l := s.hif.link
    packFields [(24, l.retrains.toNat), (12, l.flit.toNat), (8, l.width.toNat), (4, l.speed.toNat), (0, l.state.toNat)]
  | .dbBase => (getFn s f).dbBase.toNat
  | .evqBase => (getEvq s f).base.toNat
  | .evqCfg =>
    let q := getEvq s f
    packFields [(54, q.modTime.toNat), (46, q.modCount.toNat), (12, q.vector.toNat), (8, q.log2.toNat), (0, q.enable.toNat)]
  | .evqStatus =>
    let q := getEvq s f
    packFields [(32, q.written.toNat), (16, q.lost.toNat), (0, min 64 (q.pending.length - evqRoom q))]
  | .ringSq n => (getHRing s f n).sq.toNat
  | .ringCq n => (getHRing s f n).cq.toNat
  | .ringCfg n => (getHRing s f n).cfg.toNat
  | .ringStat n => packFields [(32, (getHRing s f n).fetched), (4, (getHRing s f n).cause), (0, ringCode (getHRing s f n).st)]
  | .vector v =>
    let e := Tab.get {} (getFn s f).vectors v
    packFields [(96, e.ctrl.toNat), (64, e.data.toNat), (0, e.addr.toNat)]
  | .pendingBits => (getFn s f).pend.foldl (fun a v => a + 2 ^ v) 0
  | .ctrCtl n =>
    let x := getCtr s n
    packFields [(16, x.cls.toNat), (8, x.gen.toNat), (7, x.assigned.toNat), (3, x.part.toNat), (0, ctrCode x.st)]
  | .ctrValue n => (getCtr s n).value.toNat
  | .ctrLimit n => (getCtr s n).limit.toNat
  | .ctrLedger n => packFields [(6, (getCtr s n).ledger.toNat)]
  | .wctEvents => packFields [(32, s.wct.claims.toNat), (16, s.wct.dupCommit.toNat), (0, s.wct.ledgerUe.toNat)]
  | .hbmCaps => hbmCaps s
  | .bandmap k => s.hbm.bandmap.toNat / 2 ^ (32 * k) % 2 ^ 32
  | .trainCfg => s.hbm.interval.toNat
  | .hbmEvents => packFields [(32, s.hbm.retrains.toNat), (16, s.hbm.pauseMax.toNat), (0, s.hbm.bandmapBusy.toNat)]
  | .hbmEcc n => packFields [(64, (getEcc s n).ueAddr.toNat), (32, (getEcc s n).ce.toNat), (16, (getEcc s n).ue.toNat), (0, (getEcc s n).odecc.toNat)]
  | .region n => packFields [(4, (getRegion s n).part.toNat), (0, regionCode (getRegion s n).st)]
  | .portCfg n => (getPort s n).cfg.toNat
  | .portStatus n => packFields [(16, (getPort s n).peer.toNat), (8, (getPort s n).spare.toNat), (0, portCode (getPort s n).st)]
  | .portStats n =>
    let x := getPort s n
    packFields [(48, x.retries.toNat), (32, x.fecUe.toNat), (16, x.stomped.toNat), (0, x.framesLost.toNat)]
  | .stay => packFields [(10, stayCode (getStay s 1).st), (8, stayCode (getStay s 0).st)]
  | .role => packFields [(20, s.fab.group.gstate.toNat), (0, s.fab.role.shadow.toNat)]
  | .optEvents => packFields [(48, s.fab.unroutable.toNat), (32, s.fab.xpartDrop.toNat), (16, s.fab.epochDrop.toNat), (8, s.fab.dupResp.toNat),
      (4, s.fab.holdStuck.toNat), (0, s.fab.detached.toNat)]
  | .route m => (Tab.get 0#16 s.fab.route m).toNat
  | .tree n => (getTree s n).raw.toNat
  | .treeStatus n =>
    let t := getTree s n
    packFields [(32, (if treeRole t = 1 then rootNext t else t.tseq) % 2 ^ 32), (24, t.attached.length), (0, t.st.toNat)]
  | .arbClass set n => packFields [(16, ((getArbSet s set).shadow.boost.getD n 0#12).toNat), (0, ((getArbSet s set).shadow.limit.getD n 0#7).toNat)]
  | .arbQuota set => packFields [(16, (getArbSet s set).shadow.window.toNat), (0, (getArbSet s set).shadow.quota.toNat)]
  | .arbCommit _ => 0
  | .mshCdc d =>
    let e := Tab.get (0#16, 0#8, 0#8) s.hub.mshCdc d
    packFields [(16, e.1.toNat), (8, e.2.1.toNat), (0, e.2.2.toNat)]
  | .core c r => match windowCore s c with | some k => coreRegValue (coreNclk s c) k r | none => 0

/-- The bytes that a read of `size` bytes at offset `o` of a register returns; a read of route entries covers those that follow (R644). -/
def regRead (s : State) (f : Nat) (r : Reg) (o size : Nat) : Nat := match r with
  | .route m => packFields ((List.range (size / 2)).map fun i => (16 * i, (Tab.get 0#16 s.fab.route (m + i)).toNat))
  | .reqBuffer => leNum (memReadN 0 s.fwc.req o size)
  | .rspBuffer => leNum (memReadN 0 s.fwc.rsp o size)
  | _ => regValue s f r / 2 ^ (8 * o) % 2 ^ (8 * size)

end Sys2Proof.Machine
end

