-- ==== Sys2Proof/Machine/Registers.lean ====
section
/-! DEFINITION. Machine/Registers.lean: register writes, RC fields that a read clears, and W1C fields (R13, R633 to R638, R647 to R649). -/

namespace Sys2Proof.Machine

open Sys2Proof

/-! ### RC fields (R13, R634): `lo` and `hi` say whether the read returns bits of the word's lower and upper half -/

def clearIf {w : Nat} (b : Bool) (x : BitVec w) : BitVec w := if b then 0 else x

def clearSpad (lo : Bool) (r : CoreReg) (x : Spad) (hi : Bool) : Spad := match r with
  | .spdEcc => { x with ueCount := clearIf lo x.ueCount, ceCount := clearIf lo x.ceCount }
  | .spdEvents => { x with gathers := clearIf hi x.gathers, unwrittenNarrow := clearIf lo x.unwrittenNarrow }
  | _ => x

def clearAcc (lo : Bool) (r : CoreReg) (x : Acc) (hi : Bool) : Acc := match r with
  | .fldStats => { x with fldEntries := clearIf hi x.fldEntries, fldMatches := clearIf lo x.fldMatches }
  | .fldStalls => { x with fldAbufStall := clearIf hi x.fldAbufStall, fldSpadStall := clearIf lo x.fldSpadStall }
  | .arrStalls => { x with arrSupply := clearIf hi x.arrSupply, arrWriteback := clearIf lo x.arrWriteback }
  | .arrStats => { x with arrBusy := clearIf hi x.arrBusy, mvpBusy := clearIf lo x.mvpBusy }
  | .accEvents => { x with abandoned := clearIf hi x.abandoned, implicitOpen := clearIf hi x.implicitOpen
                           foldDiscard := clearIf lo x.foldDiscard, ueCount := clearIf lo x.ueCount, ceCount := clearIf lo x.ceCount }
  | _ => x

def clearDma (now : Nat) (lo : Bool) (r : CoreReg) (x : Dma) (hi : Bool) : Dma := match r with
  | .dmaEvents => { x with discarded := clearIf hi x.discarded, cancelBusy := clearIf lo x.cancelBusy }
  | .halStats =>
    let h := if hi then { countStall now x.hal with stall := 0 } else x.hal
    { x with hal := { h with forwarded := clearIf lo h.forwarded } }
  | _ => x

def clearMesh (lo : Bool) (r : CoreReg) (x : Mesh) (hi : Bool) : Mesh := match r with
  | .mshEvents => { x with xpartDrop := clearIf hi x.xpartDrop, slotDiscard := clearIf hi x.slotDiscard
                           creditNack := clearIf lo x.creditNack, mboxNack := clearIf lo x.mboxNack }
  | _ => x

def clearCore (now : Nat) (lo : Bool) (r : CoreReg) (k : Core) (hi : Bool) : Core :=
  { k with spad := clearSpad lo r k.spad hi, acc := clearAcc lo r k.acc hi, dma := clearDma now lo r k.dma hi, mesh := clearMesh lo r k.mesh hi }

/-- The RC fields of a register that the read returns are cleared; a window of a core that is not in service clears nothing (R649). -/
def clearReg (s : State) (f : Nat) (r : Reg) (lo hi : Bool) : State := match r with
  | .barEvents => { s with hub := { s.hub with ignoredWr := clearIf lo s.hub.ignoredWr, badAccess := clearIf lo s.hub.badAccess } }
  | .cdcErr => { s with hub := { s.hub with cdcLost := clearIf lo s.hub.cdcLost, cdcResets := clearIf lo s.hub.cdcResets } }
  | .c0Mon k => { s with hub := { s.hub with
      monExceed := if hi then Tab.set s.hub.monExceed k 0 else s.hub.monExceed, monMax := if lo then Tab.set s.hub.monMax k 0 else s.hub.monMax } }
  | .mboxStatus => { s with fwc := { s.fwc with ignored := clearIf lo s.fwc.ignored } }
  | .fwcLog => { s with log := { s.log with dropped := clearIf hi s.log.dropped } }
  | .pwrTelem => setPwr s { s.pwr with pinMax := clearIf lo s.pwr.pinMax }
  | .pciLink => { s with hif := { s.hif with link := { s.hif.link with retrains := clearIf lo s.hif.link.retrains } } }
  | .evqStatus => setEvq s f { getEvq s f with lost := clearIf lo (getEvq s f).lost }
  | .wctEvents => { s with wct := { s.wct with
      claims := clearIf hi s.wct.claims, dupCommit := clearIf lo s.wct.dupCommit, ledgerUe := clearIf lo s.wct.ledgerUe } }
  | .hbmEvents => { s with hbm := { s.hbm with
      retrains := clearIf hi s.hbm.retrains, pauseMax := clearIf lo s.hbm.pauseMax, bandmapBusy := clearIf lo s.hbm.bandmapBusy } }
  | .hbmEcc n =>
    let x := getEcc s n
    setEcc s n { x with ce := clearIf hi x.ce, ue := clearIf lo x.ue, odecc := clearIf lo x.odecc }
  | .portStats n =>
    let x := getPort s n
    setPort s n { x with retries := clearIf hi x.retries, fecUe := clearIf hi x.fecUe, stomped := clearIf lo x.stomped, framesLost := clearIf lo x.framesLost }
  | .optEvents => { s with fab := { s.fab with
      unroutable := clearIf hi s.fab.unroutable, xpartDrop := clearIf hi s.fab.xpartDrop, epochDrop := clearIf lo s.fab.epochDrop
      dupResp := clearIf lo s.fab.dupResp, holdStuck := clearIf lo s.fab.holdStuck, detached := clearIf lo s.fab.detached } }
  | .mshCdc d =>
    let e := Tab.get (0#16, 0#8, 0#8) s.hub.mshCdc d
    if lo then { s with hub := { s.hub with mshCdc := Tab.set s.hub.mshCdc d (0, 0, e.2.2) } } else s
  | .core c x => if coreLive s c then setCore s c (clearCore (coreNclk s c) lo x (getCore s c) hi) else s
  | _ => s

/-- Half of the first 8 bytes that an access of `size` bytes at offset `o` returns: 0 the lower, 1 the upper. -/
def returnsHalf (o size half : Nat) : Bool := decide (o < 4 * half + 4) && decide (4 * half < o + size)

def setRead (s : State) (v : Option W64) : State := { s with hif := { s.hif with readBack := v } }

/-- An access completes as Unsupported Request; the host's counts in BAD_ACCESS (R633). -/
def badAccess (a : BarAccess) (s : State) : State :=
  if a.agent = .host then { s with hub := { s.hub with badAccess := satAdd s.hub.badAccess 1 } } else s

/-- The host's request arrives outside the stream to which the function's session is bound (R572). -/
def refusesTlp (s : State) (a : BarAccess) : Bool := a.agent == .host && outsideStream s a.fn a.inStream

/-- The function exists. In RECOVERY the link is in Detect, and no request of the host arrives (R536). A host's request outside the stream to which the function's session is bound completes as Unsupported Request, as
`bad` says (R572). -/
def onAccess (a : BarAccess) (s : State) (bad k : Out) : Out :=
  if accessFn a > 16 then .refused .noSuchUnit
  else if a.agent = .host ∧ s.fwc.st = 0 then .next s
  else if refusesTlp s a then bad
  else k

/-- READ_CLEAR: a read returns the register's bytes and clears the RC fields that it returns (R13, R634, R637). -/
def execReadClear (a : BarAccess) (s : State) : Out :=
  onAccess a s (.next (setRead s none)) <| match regHit a with
    | .bad => .next (setRead (badAccess a s) none)
    | .unused => .next (setRead s (some 0))
    | .reg r o =>
      .next (setRead (clearReg s (accessFn a) r (returnsHalf o a.size 0) (returnsHalf o a.size 1))
        (some (BitVec.ofNat 64 (regRead s (accessFn a) r o a.size))))

/-! ### Writes -/

/-- A register's value with `size` bytes at offset `o` replaced (R633). -/
def mergeAt (old o size v : Nat) : Nat :=
  old % 2 ^ (8 * o) + v % 2 ^ (8 * size) * 2 ^ (8 * o) + old / 2 ^ (8 * (o + size)) * 2 ^ (8 * (o + size))

/-- A host write that R638 logs; DATA holds offset and value. -/
def logWrite (s : State) (off v : Nat) (k : State → State) : Out := logChange s 0x0409 0xFF (openId s 0) (off + v * 2 ^ 64) fun s => .next (k s)

/-- A host write that takes an open session of the PF: without one it is ignored (R460, R467). -/
def underSession (s : State) (k : Out) : Out := if (getSess s 0).opened then k else .next (ignoreWrite s)

/-- PCI_EVQ_CFG: other fields change only while ENABLE is 0; enabling restarts the count of records (R614, R632). -/
def writeEvqCfg (s : State) (f m : Nat) : State :=
  let q := getEvq s f
  let en := m.testBit 0
  if q.enable then (if en then ignoreWrite s else setEvq s f { q with enable := false })
  else
    let q1 : Evq := { q with modTime := BitVec.ofNat 10 (bf m 54 10), modCount := BitVec.ofNat 8 (bf m 46 8), vector := BitVec.ofNat 11 (bf m 12 11)
                             log2 := BitVec.ofNat 4 (bf m 8 4), enable := en }
    setEvq s f (if en then { q1 with written := 0, head := 0, pending := [], overflow := 0, unsig := 0 } else q1)

/-- Address fields of a queue hold bits [63:12]. -/
def pageAddr (m : Nat) : W64 := BitVec.ofNat 64 (m / 4096 * 4096)

/-- PCI_RINGn_CFG (R484, R491, R512). -/
def writeRingCfg (s : State) (f n m : Nat) : Out :=
  if (getHRing s f n).cfg.getLsbD 0 && !m.testBit 0 then execRingDisable f n s else execRingEnable f n (BitVec.ofNat 64 m) s

/-- An MSI-X entry; pending messages of vectors that are no longer masked follow (R508, R509). -/
def writeVector (s : State) (f v m : Nat) : State :=
  let x := getFn s f
  let e : Vector_ := { addr := BitVec.ofNat 64 (m % 2 ^ 64 / 4 * 4), data := BitVec.ofNat 32 (m / 2 ^ 64), ctrl := BitVec.ofNat 32 (bf m 96 1) }
  flushPend (setFn s f { x with vectors := Tab.set x.vectors v e }) f

/-- The commands of one switch in a write of OPT_STAY: 1 OPEN, 2 CLOSE (R467, R647). -/
def stayField (s : State) (n v : Nat) : State := if v = 1 then stayCommand s n true else if v = 2 then stayCommand s n false else s

/-- Fields of OPT_ROLE without COMMIT. -/
def writeRole (s : State) (o m : Nat) : State :=
  { s with fab := { s.fab with role := { s.fab.role with shadow := BitVec.ofNat 64 m &&& roleMask, known := s.fab.role.known || o == 0 } } }

def writeRoutes (s : State) (m size v : Nat) : State :=
  { s with fab := { s.fab with
      route := (List.range (size / 2)).foldl (fun t i => Tab.set t (m + i) (BitVec.ofNat 16 (v / 2 ^ (16 * i)))) s.fab.route } }

def putShadow (s : State) (set : Nat) (f : ArbPar → ArbPar) : State :=
  let x := getArbSet s set
  setArbSet s set { x with shadow := f x.shadow }

/-- DONE of FWC_MBOX_STATUS, unless the device sets it in the same cycle (R13). -/
def clearDone (s : State) (o m : Nat) (same : Bool) : State :=
  if o = 0 ∧ m.testBit 1 ∧ !same then { s with fwc := { s.fwc with done := false } } else s

/-- A host write of `size` bytes at offset `o` of a register (R636): `m` is the register's value with them, `v` the bytes. -/
def hostWrite (s : State) (f : Nat) (r : Reg) (o size m v : Nat) (same : Bool) : Out := match r with
  | .mboxCtl =>
    if m.testBit 0 then execMboxGo (bf m 8 11) s else .next { s with fwc := { s.fwc with mboxVector := BitVec.ofNat 11 (bf m 8 11) } }
  | .mboxStatus => .next (clearDone s o v same)
  | .traceEn => .next { s with log := { s.log with traceEn := BitVec.ofNat 64 m } }
  | .reqBuffer =>
    .next (if s.fwc.busy then ignoreWrite s else { s with fwc := { s.fwc with req := memWriteN 0 s.fwc.req o (leBytes size v) } })
  | .pwrCtl => .next (settlePower (setPwr s { s.pwr with reefLimit := BitVec.ofNat 2 (bf m 16 2), capHost := BitVec.ofNat 12 (bf m 0 12) }))
  | .dbBase => .next (setFn s f { getFn s f with dbBase := pageAddr m })
  | .evqBase => .next (if (getEvq s f).enable then ignoreWrite s else setEvq s f { getEvq s f with base := pageAddr m })
  | .evqCfg => .next (writeEvqCfg s f m)
  | .ringSq n => .next (if (getHRing s f n).cfg.getLsbD 0 then ignoreWrite s else setHRing s f n { getHRing s f n with sq := pageAddr m })
  | .ringCq n => .next (if (getHRing s f n).cfg.getLsbD 0 then ignoreWrite s else setHRing s f n { getHRing s f n with cq := pageAddr m })
  | .ringCfg n => writeRingCfg s f n m
  | .vector n => .next (writeVector s f n m)
  | .portCfg n => underSession s <| .next (setPort s n { getPort s n with cfg := BitVec.ofNat 64 (m % 2 ^ 48) })
  | .stay => underSession s <| logWrite s 0x300400 v fun s => stayField (stayField s 0 (bf m 0 2)) 1 (bf m 2 2)
  | .role => underSession s <| if m.testBit 63 then execRoleCommit 0 (BitVec.ofNat 64 m) s else logWrite s roleOffset m fun s => writeRole s o m
  | .route n => underSession s <| logWrite s (0x310000 + 2 * n) v fun s => writeRoutes (trace s 0 47) n size v
  | .arbClass set n =>
    .next (putShadow s set fun p => { p with boost := p.boost.set n (BitVec.ofNat 12 (bf m 16 12)), limit := p.limit.set n (BitVec.ofNat 7 (bf m 0 7)) })
  | .arbQuota set => .next (putShadow s set fun p => { p with window := BitVec.ofNat 16 (bf m 16 16), quota := BitVec.ofNat 8 (bf m 0 8) })
  | .arbCommit set => if m.testBit 0 then execArbCommit 0 set s else logWrite s (commitOffset set) v id
  | _ => .next (ignoreWrite s)

/-! #### Writes of the firmware processors (R123, R289, R313, R365, R404, R421, R451, R528) -/

/-- Go on after an outcome. -/
def andThen (x : Out) (k : State → Out) : Out := match x with
  | .next s => k s
  | y => y

/-- A context register that is written while the context is neither RUNNING nor WAITING (R123). -/
def writeStill (s : State) (c n : Nat) (f : Ctx → Ctx) : Out :=
  let x := ctxAt s c n
  .next (if x.st = .running ∨ x.st = .waiting then s else setCtx s c n (f x))

/-- CORE_CTXn_CTL: CLASS_FLOOR, then the commands in the order of their bits. -/
def writeCtxCtl (s : State) (c n m : Nat) : Out :=
  let on (b : Nat) (f : Nat → Nat → State → Out) (s : State) : Out := if m.testBit b then f c n s else .next s
  andThen (on 0 execCtxStart (setCtx s c n { ctxAt s c n with classFloor := BitVec.ofNat 2 (bf m 4 2) })) fun s =>
    andThen (on 1 execCtxHalt s) fun s => andThen (on 2 execCtxResume s) fun s => on 3 execCtxKill s

/-- A write of the core's control core to its window (R648); the control core waits while a record of its does (R545). -/
def controlWrite (s : State) (c : Nat) (r : CoreReg) (m : Nat) (same : Bool) : Out :=
  let k := getCore s c
  if procWaits s (0x10 + clusterOf c) then .next s else match r with
  | .ctxCtl n => writeCtxCtl s c n m
  | .ctxEntry n => writeStill s c n fun x => { x with entry := BitVec.ofNat 15 (bf m 1 15) }
  | .ctxBase n => writeStill s c n fun x => { x with base := BitVec.ofNat 18 (bf m 6 18) }
  | .ctxBound n => writeStill s c n fun x => { x with bound := BitVec.ofNat 19 (bf m 6 19) }
  | .foldCfg n => execFoldArm c n (BitVec.ofNat 64 m) s
  | .dmaCancel => execCancelAccept c (bf m 0 8) (bf m 8 16) s
  | .dmaFence => .next (if m.testBit 16 && !same then setCore s c { k with dma := { k.dma with fenceDone := false } } else s)
  | .halCfg => execHalyardEnable c (BitVec.ofNat 64 m) s
  | .queueCfg n => .next (setCore s c { k with dma := { k.dma with limit := Tab.set k.dma.limit n (BitVec.ofNat 8 m) } })
  | .mshCfg => .next (setCore s c { k with mesh := { k.mesh with
      respTimeout := BitVec.ofNat 16 (bf m 48 16), creditWait := BitVec.ofNat 16 (bf m 32 16), slotWait := BitVec.ofNat 16 (bf m 16 16) } })
  | _ => .next s

/-- WCT_CTRn_CTL: GEN only while the counter is not RUNNING; STATE 3 is ignored, and RUNNING needs the whole ledger in the regions of
the counter's partition (R296, R313). -/
def writeCtr (s : State) (n m : Nat) : State :=
  let x := getCtr s n
  let y := { x with cls := BitVec.ofNat 2 (bf m 16 2), gen := if x.st = .running then x.gen else BitVec.ofNat 8 (bf m 8 8)
                    assigned := m.testBit 7, part := BitVec.ofNat 4 (bf m 3 4) }
  let st : CtrSt := match bf m 0 2 with
    | 0 => .disabled
    | 1 => if x.st = .running ∨ ledgerInside s y.part.toNat (ledgerBase y) then .running else .disabled
    | 2 => .frozen
    | _ => x.st
  setCtr s n { y with st := st }

/-- A counter register that is written while the counter is not RUNNING. -/
def writeIdleCtr (s : State) (n : Nat) (f : Ctr → Ctr) : State := let x := getCtr s n; if x.st = .running then s else setCtr s n (f x)

/-- The bits of a tree entry that are not reserved (R451); the others read zero (R12). -/
def treeBits : Nat := 2 ^ 224 - 1 - 0xFF * 2 ^ 40 - 0xC0 * 2 ^ 24 - 0xF000

/-- A word of a tree entry (R451, R644): the entry changes while its ROLE is 0. A ROLE that becomes nonzero starts the entry, a receiver
by its ATTACH to the root (R454); one that becomes 0 ends it. -/
def writeTree (s : State) (n m : Nat) : State :=
  let t := getTree s n
  let u : Tree := { raw := BitVec.ofNat 256 m &&& BitVec.ofNat 256 treeBits }
  if treeRole t ≠ 0 then (if treeRole u = 0 then setTree s n u else s)
  else if treeRole u = 0 then setTree s n u
  else
    let x : Tree := { u with st := if treeRole u = 3 then 0 else 1 }
    let s1 := setTree (trace s 2 43) n x
    if treeRole u = 2 then sendTreeCtl s1 x (treeRoot x) (treePart x) ccAttach 0 else s1

def schedulerWrite (s : State) (r : Reg) (m : Nat) : State := match r with
  | .ctrCtl n => writeCtr s n m
  | .ctrValue n => writeIdleCtr s n fun x => { x with value := BitVec.ofNat 32 m }
  | .ctrLimit n => writeIdleCtr s n fun x => { x with limit := BitVec.ofNat 32 m }
  | .ctrLedger n => writeIdleCtr s n fun x => { x with ledger := BitVec.ofNat 46 (bf m 6 46) }
  | .tree n => writeTree s n m
  | _ => s

/-- HBM_BANDMAPk: each band whose mode changes (R407). -/
def writeBands (s : State) (k m : Nat) : Out :=
  (List.range 32).foldl (fun x j => andThen x fun s =>
    if bandMode s (32 * k + j) = m.testBit j then .next s else execBandmapWrite (32 * k + j) (m.testBit j) s) (.next s)

def securityWrite (s : State) (r : Reg) (m : Nat) : Out := match r with
  | .c0Budget n => .next (setPart s n { getPart s n with c0Rings := BitVec.ofNat 8 (bf m 8 8), c0Budget := bf m 0 3 })
  | .bandmap k => writeBands s k m
  | .core c .c0 =>
    let k := getCore s c
    .next (if coreLive s c then setCore s c { k with mesh := { k.mesh with c0En := m.testBit 0 } } else s)
  | _ => .next s

/-- A write by any agent but the writer of the register leaves it as it is (R636). -/
def agentWrite (s : State) (a : BarAccess) (r : Reg) (o m v : Nat) (same : Bool) : Out := match a.agent with
  | .host => hostWrite s a.fn r o a.size m v same
  | .control cl => match r with
    | .core c x => if clusterOf c = cl ∧ coreLive s c then controlWrite s c x m same else .next s
    | _ => .next s
  | .scheduler => .next (schedulerWrite s r m)
  | .power => match r with
    | .trainCfg => .next { s with hbm := { s.hbm with interval := BitVec.ofNat 16 m } }
    | _ => .next s
  | .security => securityWrite s r m

/-- A register access that writes `v` (R633 to R636). -/
def writeAccess (a : BarAccess) (v : W64) (same : Bool) (s : State) : Out :=
  onAccess a s (.next s) <| match regHit a with
    | .bad => .next (badAccess a s)
    | .unused => .next s
    | .reg r o =>
      let x := v.toNat % 2 ^ (8 * a.size)
      agentWrite s a r o (match r with | .reqBuffer => 0 | .rspBuffer => 0 | _ => mergeAt (regValue s (accessFn a) r) o a.size x) x same

def execRegisterWrite (a : BarAccess) (v : W64) (s : State) : Out := writeAccess a v false s

/-- W1C_CLEAR: a write that clears W1C bits; one that the device sets in the same cycle stays set (R13). -/
def execW1cClear (a : BarAccess) (v : W64) (same : Bool) (s : State) : Out := writeAccess a v same s

end Sys2Proof.Machine
end

