-- ==== Sys2Proof/Machine/Dispatch.lean ====
section
/-! DEFINITION. Machine/Dispatch.lean: the effect of each command, one arm per row of the table. -/

namespace Sys2Proof.Machine

open Sys2Proof

def exec (i : Instr) (s : State) : Host.Outcome State Fault Refusal :=
  match i with
  | .scalarInstruction core => Sys2Proof.Machine.execScalarInstruction core s
  | .ecall core => Sys2Proof.Machine.execEcall core s
  | .ebreak core => Sys2Proof.Machine.execEbreak core s
  | .scalarLoad core => Sys2Proof.Machine.execScalarLoad core s
  | .scalarStore core => Sys2Proof.Machine.execScalarStore core s
  | .scalarAtomic core => Sys2Proof.Machine.execScalarAtomic core s
  | .fence core => Sys2Proof.Machine.execFence core s
  | .narrowAccess core ecc => Sys2Proof.Machine.execNarrowAccess core ecc s
  | .gather core ecc => Sys2Proof.Machine.execGather core ecc s
  | .spadEccWriteback core => Sys2Proof.Machine.execSpadEccWriteback core s
  | .kpush core ecc => Sys2Proof.Machine.execKpush core ecc s
  | .kwait core => Sys2Proof.Machine.execKwait core s
  | .ktest core => Sys2Proof.Machine.execKtest core s
  | .kdrain core => Sys2Proof.Machine.execKdrain core s
  | .krecv core => Sys2Proof.Machine.execKrecv core s
  | .kclaimClaim core ctx ecc => Sys2Proof.Machine.execKclaimClaim core ctx ecc s
  | .kclaimCommit core ctx ecc => Sys2Proof.Machine.execKclaimCommit core ctx ecc s
  | .kringStatus core => Sys2Proof.Machine.execKringStatus core s
  | .kringOpen core => Sys2Proof.Machine.execKringOpen core s
  | .kringClose core => Sys2Proof.Machine.execKringClose core s
  | .kringRelease core => Sys2Proof.Machine.execKringRelease core s
  | .ctxStart core ctx => Sys2Proof.Machine.execCtxStart core ctx s
  | .ctxHalt core ctx => Sys2Proof.Machine.execCtxHalt core ctx s
  | .ctxResume core ctx => Sys2Proof.Machine.execCtxResume core ctx s
  | .ctxKill core ctx => Sys2Proof.Machine.execCtxKill core ctx s
  | .contextIdle core ctx ecc => Sys2Proof.Machine.execContextIdle core ctx ecc s
  | .descriptorIssue core ctx ecc => Sys2Proof.Machine.execDescriptorIssue core ctx ecc s
  | .matmul core ctx ecc abuf => Sys2Proof.Machine.execMatmul core ctx ecc abuf s
  | .matvec core ctx ecc => Sys2Proof.Machine.execMatvec core ctx ecc s
  | .merge core ctx ecc lines => Sys2Proof.Machine.execMerge core ctx ecc lines s
  | .intersect core ctx ecc lines => Sys2Proof.Machine.execIntersect core ctx ecc lines s
  | .fill core ctx ecc lines => Sys2Proof.Machine.execFill core ctx ecc lines s
  | .copy core ctx ecc lines => Sys2Proof.Machine.execCopy core ctx ecc lines s
  | .transposeCopy core ctx ecc => Sys2Proof.Machine.execTransposeCopy core ctx ecc s
  | .compactionStore core ctx ecc => Sys2Proof.Machine.execCompactionStore core ctx ecc s
  | .load core ctx ecc => Sys2Proof.Machine.execLoad core ctx ecc s
  | .predict core ctx ecc => Sys2Proof.Machine.execPredict core ctx ecc s
  | .topKSelect core ctx ecc lines => Sys2Proof.Machine.execTopKSelect core ctx ecc lines s
  | .sendMailbox core ctx ecc => Sys2Proof.Machine.execSendMailbox core ctx ecc s
  | .sendSlotRing core ctx ecc => Sys2Proof.Machine.execSendSlotRing core ctx ecc s
  | .sendTree core ctx ecc => Sys2Proof.Machine.execSendTree core ctx ecc s
  | .tileClose core ctx seq ecc abuf => Sys2Proof.Machine.execTileClose core ctx seq ecc abuf s
  | .abufAddRetire core bank ecc high => Sys2Proof.Machine.execAbufAddRetire core bank ecc high s
  | .descriptorComplete core ctx seq ecc => Sys2Proof.Machine.execDescriptorComplete core ctx seq ecc s
  | .burstIssue core ctx seq => Sys2Proof.Machine.execBurstIssue core ctx seq s
  | .burstDone core ctx seq idx ecc => Sys2Proof.Machine.execBurstDone core ctx seq idx ecc s
  | .burstDataDiscard core ctx seq idx ecc => Sys2Proof.Machine.execBurstDataDiscard core ctx seq idx ecc s
  | .cancelAccept core mask tag => Sys2Proof.Machine.execCancelAccept core mask tag s
  | .cancelFence core => Sys2Proof.Machine.execCancelFence core s
  | .halyardEnable core cfg => Sys2Proof.Machine.execHalyardEnable core cfg s
  | .relayForwardStart core => Sys2Proof.Machine.execRelayForwardStart core s
  | .relayForwardComplete core ecc => Sys2Proof.Machine.execRelayForwardComplete core ecc s
  | .relayTimeout core => Sys2Proof.Machine.execRelayTimeout core s
  | .relayBreakNotice core => Sys2Proof.Machine.execRelayBreakNotice core s
  | .messageArrival core msg => Sys2Proof.Machine.execMessageArrival core msg s
  | .messageResend core idx => Sys2Proof.Machine.execMessageResend core idx s
  | .creditRequest core idx => Sys2Proof.Machine.execCreditRequest core idx s
  | .creditAnswer core idx => Sys2Proof.Machine.execCreditAnswer core idx s
  | .creditRequestResend core idx => Sys2Proof.Machine.execCreditRequestResend core idx s
  | .slotFill core target seq ecc => Sys2Proof.Machine.execSlotFill core target seq ecc s
  | .slotGrantExpiry core target seq => Sys2Proof.Machine.execSlotGrantExpiry core target seq s
  | .slotTimeout core ctx => Sys2Proof.Machine.execSlotTimeout core ctx s
  | .creditWaitTimeout core idx => Sys2Proof.Machine.execCreditWaitTimeout core idx s
  | .ringReleaseApply core ring => Sys2Proof.Machine.execRingReleaseApply core ring s
  | .ringCloseComplete core ring => Sys2Proof.Machine.execRingCloseComplete core ring s
  | .foldArm core ch cfg => Sys2Proof.Machine.execFoldArm core ch cfg s
  | .foldTakeGroup core ch => Sys2Proof.Machine.execFoldTakeGroup core ch s
  | .foldFragment core ch ecc => Sys2Proof.Machine.execFoldFragment core ch ecc s
  | .foldTimeout core ch => Sys2Proof.Machine.execFoldTimeout core ch s
  | .arbiterDecision set point now reqs => Sys2Proof.Machine.execArbiterDecision set point now reqs s
  | .quotaWindow set point now => Sys2Proof.Machine.execQuotaWindow set point now s
  | .arbCommit fn set => Sys2Proof.Machine.execArbCommit fn set s
  | .queueReset queue occWriter occReader => Sys2Proof.Machine.execQueueReset queue occWriter occReader s
  | .respTimeout core ctx seq idx => Sys2Proof.Machine.execRespTimeout core ctx seq idx s
  | .pacerToken source => Sys2Proof.Machine.execPacerToken source s
  | .hbmAccess addr data len ecc => Sys2Proof.Machine.execHbmAccess addr data len ecc s
  | .hbmRefresh stack ch bank scrubbed => Sys2Proof.Machine.execHbmRefresh stack ch bank scrubbed s
  | .hbmRetrain stack ch => Sys2Proof.Machine.execHbmRetrain stack ch s
  | .hbmRetrainEnd stack ch => Sys2Proof.Machine.execHbmRetrainEnd stack ch s
  | .bandmapWrite band mode => Sys2Proof.Machine.execBandmapWrite band mode s
  | .scrubStart region => Sys2Proof.Machine.execScrubStart region s
  | .scrubComplete region => Sys2Proof.Machine.execScrubComplete region s
  | .portTrained port => Sys2Proof.Machine.execPortTrained port s
  | .keyingHello port msg => Sys2Proof.Machine.execKeyingHello port msg s
  | .encap port msg => Sys2Proof.Machine.execEncap port msg s
  | .sign port msg => Sys2Proof.Machine.execSign port msg s
  | .keyingRetry port => Sys2Proof.Machine.execKeyingRetry port s
  | .lctlSend port => Sys2Proof.Machine.execLctlSend port s
  | .lctl port body checkOk => Sys2Proof.Machine.execLctl port body checkOk s
  | .frameSend port cls => Sys2Proof.Machine.execFrameSend port cls s
  | .frameForward rx => Sys2Proof.Machine.execFrameForward rx s
  | .write rx => Sys2Proof.Machine.execWrite rx s
  | .wack rx => Sys2Proof.Machine.execWack rx s
  | .read rx => Sys2Proof.Machine.execRead rx s
  | .rdata rx => Sys2Proof.Machine.execRdata rx s
  | .nresp rx => Sys2Proof.Machine.execNresp rx s
  | .treeData rx => Sys2Proof.Machine.execTreeData rx s
  | .attach rx => Sys2Proof.Machine.execAttach rx s
  | .mack rx => Sys2Proof.Machine.execMack rx s
  | .detachWaitExpiry tree => Sys2Proof.Machine.execDetachWaitExpiry tree s
  | .detach rx => Sys2Proof.Machine.execDetach rx s
  | .repairReq rx => Sys2Proof.Machine.execRepairReq rx s
  | .rejoin rx => Sys2Proof.Machine.execRejoin rx s
  | .repairNak rx => Sys2Proof.Machine.execRepairNak rx s
  | .epochBegin rx => Sys2Proof.Machine.execEpochBegin rx s
  | .epochAbort rx => Sys2Proof.Machine.execEpochAbort rx s
  | .epochEnd part => Sys2Proof.Machine.execEpochEnd part s
  | .roleCommit fn value => Sys2Proof.Machine.execRoleCommit fn value s
  | .join rx => Sys2Proof.Machine.execJoin rx s
  | .accept rx => Sys2Proof.Machine.execAccept rx s
  | .refuse rx => Sys2Proof.Machine.execRefuse rx s
  | .heartbeatSend => Sys2Proof.Machine.execHeartbeatSend s
  | .heartbeat rx => Sys2Proof.Machine.execHeartbeat rx s
  | .memberSilence member => Sys2Proof.Machine.execMemberSilence member s
  | .mastheadSilence => Sys2Proof.Machine.execMastheadSilence s
  | .launchFrame rx => Sys2Proof.Machine.execLaunchFrame rx s
  | .launchAck rx => Sys2Proof.Machine.execLaunchAck rx s
  | .launchReportTimeout launch => Sys2Proof.Machine.execLaunchReportTimeout launch s
  | .schedule rx => Sys2Proof.Machine.execSchedule rx s
  | .telemetrySend => Sys2Proof.Machine.execTelemetrySend s
  | .telemetry rx => Sys2Proof.Machine.execTelemetry rx s
  | .remove module => Sys2Proof.Machine.execRemove module s
  | .domainSummary masthead summary => Sys2Proof.Machine.execDomainSummary masthead summary s
  | .laneFailing port lane symbols lostLock => Sys2Proof.Machine.execLaneFailing port lane symbols lostLock s
  | .laneSwitch port tx => Sys2Proof.Machine.execLaneSwitch port tx s
  | .framesLost port => Sys2Proof.Machine.execFramesLost port s
  | .keySwitch port tx => Sys2Proof.Machine.execKeySwitch port tx s
  | .rekey port => Sys2Proof.Machine.execRekey port s
  | .stayOpen mgmt sw => Sys2Proof.Machine.execStayOpen mgmt sw s
  | .stayClose mgmt sw => Sys2Proof.Machine.execStayClose mgmt sw s
  | .stayRingDown sw => Sys2Proof.Machine.execStayRingDown sw s
  | .stayMoveComplete sw => Sys2Proof.Machine.execStayMoveComplete sw s
  | .holdInAssert ring => Sys2Proof.Machine.execHoldInAssert ring s
  | .holdInDeassert ring => Sys2Proof.Machine.execHoldInDeassert ring s
  | .holdStuck ring => Sys2Proof.Machine.execHoldStuck ring s
  | .doorbellPoll fn ring latencyNs ok => Sys2Proof.Machine.execDoorbellPoll fn ring latencyNs ok s
  | .commandFetch fn ring latencyNs ok => Sys2Proof.Machine.execCommandFetch fn ring latencyNs ok s
  | .launchPlace fn ring k ecc => Sys2Proof.Machine.execLaunchPlace fn ring k ecc s
  | .launchPost fn ring k => Sys2Proof.Machine.execLaunchPost fn ring k s
  | .launchRecover fn ring k ecc => Sys2Proof.Machine.execLaunchRecover fn ring k ecc s
  | .copyCommand fn ring k ecc => Sys2Proof.Machine.execCopyCommand fn ring k ecc s
  | .fillCommand fn ring k ecc => Sys2Proof.Machine.execFillCommand fn ring k ecc s
  | .compact fn ring k ecc => Sys2Proof.Machine.execCompact fn ring k ecc s
  | .fenceCommand fn ring k => Sys2Proof.Machine.execFenceCommand fn ring k s
  | .cancel fn ring k => Sys2Proof.Machine.execCancel fn ring k s
  | .queryLedger fn ring k ecc => Sys2Proof.Machine.execQueryLedger fn ring k ecc s
  | .scrub fn ring k => Sys2Proof.Machine.execScrub fn ring k s
  | .selftest fn ring k failed => Sys2Proof.Machine.execSelftest fn ring k failed s
  | .mailbox fn ring k => Sys2Proof.Machine.execMailbox fn ring k s
  | .jobEnd part launchId => Sys2Proof.Machine.execJobEnd part launchId s
  | .completionRecordWrite fn ring => Sys2Proof.Machine.execCompletionRecordWrite fn ring s
  | .moderationTimeout fn queue => Sys2Proof.Machine.execModerationTimeout fn queue s
  | .ringEnable fn ring cfg => Sys2Proof.Machine.execRingEnable fn ring cfg s
  | .ringDisable fn ring => Sys2Proof.Machine.execRingDisable fn ring s
  | .eventRecordWrite fn => Sys2Proof.Machine.execEventRecordWrite fn s
  | .completionFailure fn owner => Sys2Proof.Machine.execCompletionFailure fn owner s
  | .linkTraining speed width flit => Sys2Proof.Machine.execLinkTraining speed width flit s
  | .bar2Access inStream off data len ecc => Sys2Proof.Machine.execBar2Access inStream off data len ecc s
  | .flrVf vf => Sys2Proof.Machine.execFlrVf vf s
  | .flrPf => Sys2Proof.Machine.execFlrPf s
  | .hotReset => Sys2Proof.Machine.execHotReset s
  | .keySetGo fn => Sys2Proof.Machine.execKeySetGo fn s
  | .keySetStop fn => Sys2Proof.Machine.execKeySetStop fn s
  | .mboxGo vector => Sys2Proof.Machine.execMboxGo vector s
  | .hello via => Sys2Proof.Machine.execHello via s
  | .start via => Sys2Proof.Machine.execStart via s
  | .logRead via fails => Sys2Proof.Machine.execLogRead via fails s
  | .traceSet via => Sys2Proof.Machine.execTraceSet via s
  | .fwStage via flashFails => Sys2Proof.Machine.execFwStage via flashFails s
  | .fwCommit via flashFails => Sys2Proof.Machine.execFwCommit via flashFails s
  | .fwActivate via => Sys2Proof.Machine.execFwActivate via s
  | .fwAbort via => Sys2Proof.Machine.execFwAbort via s
  | .fwStatus via => Sys2Proof.Machine.execFwStatus via s
  | .svnRaise via => Sys2Proof.Machine.execSvnRaise via s
  | .activationStart => Sys2Proof.Machine.execActivationStart s
  | .activationExpired => Sys2Proof.Machine.execActivationExpired s
  | .componentSwap => Sys2Proof.Machine.execComponentSwap s
  | .pmcSwap => Sys2Proof.Machine.execPmcSwap s
  | .pldmUpdateComponent slotOff begin_ data flashFails => Sys2Proof.Machine.execPldmUpdateComponent slotOff begin_ data flashFails s
  | .pldmVerifyComplete flashFails => Sys2Proof.Machine.execPldmVerifyComplete flashFails s
  | .pldmActivateFirmware => Sys2Proof.Machine.execPldmActivateFirmware s
  | .logRecordWrite source => Sys2Proof.Machine.execLogRecordWrite source s
  | .powerGet via => Sys2Proof.Machine.execPowerGet via s
  | .powerSetCap via => Sys2Proof.Machine.execPowerSetCap via s
  | .powerSetLimit via => Sys2Proof.Machine.execPowerSetLimit via s
  | .powerState via => Sys2Proof.Machine.execPowerState via s
  | .thermalSet via => Sys2Proof.Machine.execThermalSet via s
  | .sessionBegin via => Sys2Proof.Machine.execSessionBegin via s
  | .sessionProve via => Sys2Proof.Machine.execSessionProve via s
  | .sessionEnd via => Sys2Proof.Machine.execSessionEnd via s
  | .handshakeExpiry handle => Sys2Proof.Machine.execHandshakeExpiry handle s
  | .lockoutExpiry target => Sys2Proof.Machine.execLockoutExpiry target s
  | .mgmtSessionIdle => Sys2Proof.Machine.execMgmtSessionIdle s
  | .credSet via flashFails => Sys2Proof.Machine.execCredSet via flashFails s
  | .partSetup via => Sys2Proof.Machine.execPartSetup via s
  | .partTeardown via => Sys2Proof.Machine.execPartTeardown via s
  | .partPeers via => Sys2Proof.Machine.execPartPeers via s
  | .debugSet via => Sys2Proof.Machine.execDebugSet via s
  | .attest via => Sys2Proof.Machine.execAttest via s
  | .identity via => Sys2Proof.Machine.execIdentity via s
  | .faultStatus via => Sys2Proof.Machine.execFaultStatus via s
  | .unitRecommission via => Sys2Proof.Machine.execUnitRecommission via s
  | .getVersion mgmt => Sys2Proof.Machine.execGetVersion mgmt s
  | .getCapabilities mgmt caps => Sys2Proof.Machine.execGetCapabilities mgmt caps s
  | .negotiateAlgorithms mgmt asym hash => Sys2Proof.Machine.execNegotiateAlgorithms mgmt asym hash s
  | .getDigests mgmt => Sys2Proof.Machine.execGetDigests mgmt s
  | .getCertificate mgmt slot off len => Sys2Proof.Machine.execGetCertificate mgmt slot off len s
  | .challenge mgmt nonce => Sys2Proof.Machine.execChallenge mgmt nonce s
  | .getMeasurements mgmt nonce block => Sys2Proof.Machine.execGetMeasurements mgmt nonce block s
  | .lockstep => Sys2Proof.Machine.execLockstep s
  | .fwWatchdog source => Sys2Proof.Machine.execFwWatchdog source s
  | .coreOut core cause => Sys2Proof.Machine.execCoreOut core cause s
  | .coreFenceTimeout core => Sys2Proof.Machine.execCoreFenceTimeout core s
  | .sparLost spar cause => Sys2Proof.Machine.execSparLost spar cause s
  | .coreRecommission spar row pcol testPasses => Sys2Proof.Machine.execCoreRecommission spar row pcol testPasses s
  | .controlCoreRecommission cluster => Sys2Proof.Machine.execControlCoreRecommission cluster s
  | .stackRecommission stack contentKept failed restored => Sys2Proof.Machine.execStackRecommission stack contentKept failed restored s
  | .portRecommission port good => Sys2Proof.Machine.execPortRecommission port good s
  | .boundResume unit => Sys2Proof.Machine.execBoundResume unit s
  | .inputOutOfRange mv => Sys2Proof.Machine.execInputOutOfRange mv s
  | .inputShutdownLevel mv => Sys2Proof.Machine.execInputShutdownLevel mv s
  | .overcurrent ma => Sys2Proof.Machine.execOvercurrent ma s
  | .overcurrentRelease => Sys2Proof.Machine.execOvercurrentRelease s
  | .capLoop watts => Sys2Proof.Machine.execCapLoop watts s
  | .thermalSample spar0 spar1 mast engines hbm => Sys2Proof.Machine.execThermalSample spar0 spar1 mast engines hbm s
  | .junctionForce => Sys2Proof.Machine.execJunctionForce s
  | .junctionForceRelease => Sys2Proof.Machine.execJunctionForceRelease s
  | .thermalShutdown => Sys2Proof.Machine.execThermalShutdown s
  | .thermalBarePole => Sys2Proof.Machine.execThermalBarePole s
  | .reefStep => Sys2Proof.Machine.execReefStep s
  | .barePoleEntry => Sys2Proof.Machine.execBarePoleEntry s
  | .barePoleExit => Sys2Proof.Machine.execBarePoleExit s
  | .standbyEntry => Sys2Proof.Machine.execStandbyEntry s
  | .standbyExit => Sys2Proof.Machine.execStandbyExit s
  | .telemetryUpdate vin iin pin energy => Sys2Proof.Machine.execTelemetryUpdate vin iin pin energy s
  | .powerOnReset => Sys2Proof.Machine.execPowerOnReset s
  | .modEnRise => Sys2Proof.Machine.execModEnRise s
  | .modEnFall => Sys2Proof.Machine.execModEnFall s
  | .modRstNFall => Sys2Proof.Machine.execModRstNFall s
  | .modRstNRise => Sys2Proof.Machine.execModRstNRise s
  | .perstFall => Sys2Proof.Machine.execPerstFall s
  | .perstRise => Sys2Proof.Machine.execPerstRise s
  | .bootStage0 bad => Sys2Proof.Machine.execBootStage0 bad s
  | .bootStage1 bad => Sys2Proof.Machine.execBootStage1 bad s
  | .bootStage2 rails failed restored => Sys2Proof.Machine.execBootStage2 rails failed restored s
  | .bootStage3 spars => Sys2Proof.Machine.execBootStage3 spars s
  | .bootStage4 => Sys2Proof.Machine.execBootStage4 s
  | .registerWrite acc value => Sys2Proof.Machine.execRegisterWrite acc value s
  | .readClear acc => Sys2Proof.Machine.execReadClear acc s
  | .w1cClear acc value setSameCycle => Sys2Proof.Machine.execW1cClear acc value setSameCycle s
  | .lightChange port light => Sys2Proof.Machine.execLightChange port light s
  | .retuneEnd port ok => Sys2Proof.Machine.execRetuneEnd port ok s
  | .inputInRange mv => Sys2Proof.Machine.execInputInRange mv s
  | .railOutOfRegulation rail out => Sys2Proof.Machine.execRailOutOfRegulation rail out s
  | .edgeSwitchFailure spar => Sys2Proof.Machine.execEdgeSwitchFailure spar s
  | .evqHeadPoll fn => Sys2Proof.Machine.execEvqHeadPoll fn s

end Sys2Proof.Machine
end

