-- ==== Sys2Proof/WellFormed.lean ====
section
/-! DEFINITION. WellFormed.lean: a command is well formed when every unit that it names is one that the module has (R15 to R17, R24, R407,
R409, R474, R478, R529, R603, R651), and a frame that it receives has its fields in their places (R429). -/

namespace Sys2Proof

/-- Core ids (R15), contexts (R121), spar dies, rows and physical columns (R15, R28), clusters. -/
def coreIn (c : Nat) : Bool := decide (c < 256)
def ctxIn (c n : Nat) : Bool := decide (c < 256) && decide (n < 8)
def sparIn (d : Nat) : Bool := decide (d < 2)
def positionIn (d r p : Nat) : Bool := decide (d < 2) && decide (r < 8) && decide (p < 17)
/-- Slot rings and fold channels by target, fold channels, accumulator-buffer banks (R272, R278, R380). -/
def targetIn (c t : Nat) : Bool := decide (c < 256) && decide (t < 32)
def foldIn (c ch : Nat) : Bool := decide (c < 256) && decide (ch < 16)
/-- HBM channels, regions and bands (R407, R409, R605). -/
def channelIn (st ch : Nat) : Bool := decide (st < 8) && decide (ch < 32)
def regionIn (r : Nat) : Bool := decide (r < 768)
/-- Optical ports, stay switches and rings A and B, tree entries (R422, R446, R451). -/
def portIn (p : Nat) : Bool := decide (p < 16)
/-- A received frame comes by a port, or is one that the module has sent to itself (16, R437), with its fields in their places (R429). -/
def rxIn (x : Rx) : Bool := decide (x.port ≤ 16) && x.frame.fits
def switchIn (n : Nat) : Bool := decide (n < 2)
/-- Functions and their rings: 4 of the PF, 64 of a VF (R474, R478). -/
def fnIn (f : Nat) : Bool := decide (f ≤ 16)
def ringIn (f n : Nat) : Bool := decide (f ≤ 16) && decide (n < if f = 0 then 4 else 64)
/-- Arbiter sets (R645). -/
def setIn (n : Nat) : Bool := decide (n < 5)

/-- Clock-crossing queue numbers (R651). -/
def queueIn (q : Nat) : Bool :=
  let i := q % 2048
  let dir := q / 2048 % 2
  match q / 4096 with
  | 0 => decide (i < 272)
  | 1 => decide (i < 16)
  | 2 => decide (i < 256)
  | 3 => decide (i < 4)
  | 4 | 5 => decide (i < 16) && dir == 0
  | 6 => i == 0
  | 7 => decide (i < 3)
  | 8 => i == 0 && dir == 0
  | _ => false

/-- End of the HBM in the device address map (R10): 768 GiB. -/
def hbmBytes : Nat := 0xC000000000

/-- The command names only units that the module has. -/
def Instr.wf : Instr → Bool
  | .scalarInstruction c | .ecall c | .ebreak c | .scalarLoad c | .scalarStore c | .scalarAtomic c | .fence c | .spadEccWriteback c => coreIn c
  | .narrowAccess c _ | .gather c _ => coreIn c
  | .kpush c _ => coreIn c
  | .kwait c | .ktest c | .kdrain c | .krecv c | .kringStatus c | .kringOpen c | .kringClose c | .kringRelease c => coreIn c
  | .kclaimClaim c n _ => ctxIn c n
  | .kclaimCommit c n _ => ctxIn c n
  | .ctxStart c n | .ctxHalt c n | .ctxResume c n | .ctxKill c n | .contextIdle c n _ => ctxIn c n
  | .matmul c n _ _ => ctxIn c n
  | .descriptorIssue c n _ | .matvec c n _ | .merge c n _ _ | .intersect c n _ _ | .fill c n _ _ | .copy c n _ _ | .transposeCopy c n _ => ctxIn c n
  | .compactionStore c n _ | .load c n _ | .predict c n _ | .topKSelect c n _ _ => ctxIn c n
  | .sendMailbox c n _ | .sendSlotRing c n _ | .sendTree c n _ => ctxIn c n
  | .tileClose c n _ _ _ => ctxIn c n
  | .abufAddRetire c b _ _ => decide (c < 256) && decide (b < 16)
  | .burstIssue c n _ => ctxIn c n
  | .descriptorComplete c n _ _ => ctxIn c n
  | .burstDone c n _ _ _ => ctxIn c n
  | .burstDataDiscard c n _ _ _ | .respTimeout c n _ _ => ctxIn c n
  | .cancelAccept c _ _ => coreIn c
  | .cancelFence c | .relayForwardStart c | .relayTimeout c | .relayBreakNotice c => coreIn c
  | .halyardEnable c _ | .relayForwardComplete c _ => coreIn c
  | .messageArrival c _ => coreIn c
  | .messageResend _ _ => true
  | .creditRequest c _ | .creditAnswer c _ | .creditRequestResend c _ | .creditWaitTimeout c _ => coreIn c
  | .slotFill c t _ _ => targetIn c t
  | .slotGrantExpiry c t _ => targetIn c t
  | .slotTimeout c n => ctxIn c n
  | .ringReleaseApply c r => decide (c < 256) && decide (r ≤ 16)
  | .ringCloseComplete c r => decide (c < 256) && decide (r < 16)
  | .foldArm c ch _ => foldIn c ch
  | .foldTakeGroup c ch | .foldTimeout c ch => foldIn c ch
  | .foldFragment c ch _ => foldIn c ch
  | .arbiterDecision n p _ _ => decide (p < pointCount n)
  | .quotaWindow n p _ => isPoint n p
  | .arbCommit f n => fnIn f && setIn n
  | .queueReset q _ _ => queueIn q
  | .pacerToken n => decide (n < 259)
  | .hbmAccess a data len _ => decide (a + (match data with | some d => d.length | none => len) ≤ hbmBytes)
  | .hbmRefresh st ch _ _ => channelIn st ch
  | .hbmRetrain st ch | .hbmRetrainEnd st ch => channelIn st ch
  | .bandmapWrite b _ => decide (b < 96)
  | .scrubStart r | .scrubComplete r => regionIn r
  | .portTrained p | .keyingRetry p | .lctlSend p | .laneSwitch p _ | .framesLost p | .rekey p => portIn p
  | .keyingHello p _ | .encap p _ | .sign p _ => portIn p
  | .lctl p _ _ => portIn p
  | .frameSend p cls => portIn p && decide (cls < 4)
  | .frameForward x | .write x | .wack x | .read x | .rdata x | .nresp x | .treeData x | .attach x | .mack x | .detach x => rxIn x
  | .repairReq x | .rejoin x | .repairNak x | .epochBegin x | .epochAbort x | .join x | .accept x | .refuse x | .heartbeat x => rxIn x
  | .launchFrame x | .launchAck x | .schedule x | .telemetry x => rxIn x
  | .detachWaitExpiry t => decide (t < 64)
  | .epochEnd p => decide (p < 16)
  | .roleCommit f _ => fnIn f
  | .heartbeatSend | .mastheadSilence | .telemetrySend => true
  | .memberSilence _ | .launchReportTimeout _ | .remove _ => true
  | .domainSummary _ _ => true
  | .laneFailing p l _ _ => portIn p && decide (l < 8)
  | .keySwitch p _ | .lightChange p _ | .retuneEnd p _ => portIn p
  | .stayOpen _ n | .stayClose _ n => switchIn n
  | .stayRingDown n | .stayMoveComplete n | .holdInAssert n | .holdInDeassert n | .holdStuck n => switchIn n
  | .doorbellPoll f n _ _ | .commandFetch f n _ _ => ringIn f n
  | .launchPost f n _ => ringIn f n
  | .launchPlace f n _ _ | .launchRecover f n _ _ | .fillCommand f n _ _ => ringIn f n
  | .fenceCommand f n _ | .cancel f n _ => ringIn f n
  | .queryLedger f n _ _ | .scrub f n _ | .mailbox f n _ => ringIn f n
  | .copyCommand f n _ _ | .compact f n _ _ => ringIn f n
  | .selftest f n _ _ => ringIn f n
  | .jobEnd p _ => decide (p < 16)
  | .completionRecordWrite f n | .ringDisable f n => ringIn f n
  | .moderationTimeout f n => fnIn f && (n == 64 || ringIn f n)
  | .ringEnable f n _ => ringIn f n
  | .eventRecordWrite f | .keySetGo f | .keySetStop f | .evqHeadPoll f => fnIn f
  | .completionFailure f o => fnIn f && (match o with
      | .descriptor c n _ _ => ctxIn c n
      | .command r _ => ringIn f r
      | .doorbell r => ringIn f r)
  | .linkTraining _ _ _ => true
  | .bar2Access _ _ _ _ _ => true
  | .flrVf f => decide (1 ≤ f) && decide (f ≤ 16)
  | .flrPf | .hotReset => true
  | .mboxGo _ => true
  | .hello _ | .start _ | .logRead _ _ | .traceSet _ | .fwStage _ _ | .fwCommit _ _ | .fwActivate _ | .fwAbort _ | .fwStatus _ | .svnRaise _ => true
  | .activationStart | .activationExpired | .componentSwap | .pmcSwap => true
  | .pldmUpdateComponent _ _ _ _ => true
  | .pldmVerifyComplete _ | .pldmActivateFirmware => true
  | .logRecordWrite _ => true
  | .powerGet _ | .powerSetCap _ | .powerSetLimit _ | .powerState _ | .thermalSet _ => true
  | .sessionBegin _ | .sessionProve _ | .sessionEnd _ | .credSet _ _ | .partSetup _ | .partTeardown _ | .partPeers _ | .debugSet _ => true
  | .handshakeExpiry _ => true
  | .lockoutExpiry t => decide (t ≤ 16) || t == 0x20
  | .mgmtSessionIdle => true
  | .attest _ | .identity _ | .faultStatus _ | .unitRecommission _ => true
  | .getVersion _ | .getDigests _ => true
  | .getCapabilities _ _ | .challenge _ _ => true
  | .negotiateAlgorithms _ _ _ => true
  | .getCertificate _ _ _ _ => true
  | .getMeasurements _ _ _ => true
  | .lockstep => true
  | .fwWatchdog p => p == 1 || p == 2 || (decide (0x10 ≤ p) && decide (p < 0x20))
  | .coreOut c _ => coreIn c
  | .coreFenceTimeout c => coreIn c
  | .sparLost d _ => sparIn d
  | .edgeSwitchFailure d => sparIn d
  | .coreRecommission d r p _ => positionIn d r p
  | .controlCoreRecommission cl => decide (cl < 16)
  | .stackRecommission st _ failed restored => decide (st < 8) && (failed ++ restored).all fun ch => decide (ch < 32)
  | .portRecommission p _ => portIn p
  | .boundResume _ => true
  | .inputOutOfRange _ | .inputShutdownLevel _ | .inputInRange _ => true
  | .overcurrent _ | .capLoop _ => true
  | .overcurrentRelease | .junctionForce | .junctionForceRelease | .thermalShutdown | .thermalBarePole | .reefStep => true
  | .thermalSample a b m e h => a.length == 24 && b.length == 24 && m.length == 4 && e.length == 4 && h.length == 8
  | .barePoleEntry | .barePoleExit | .standbyEntry | .standbyExit => true
  | .telemetryUpdate _ _ _ _ => true
  | .railOutOfRegulation _ _ => true
  | .powerOnReset | .modEnRise | .modEnFall | .modRstNFall | .modRstNRise | .perstFall | .perstRise => true
  | .bootStage0 _ | .bootStage1 _ | .bootStage3 _ => true
  | .bootStage2 _ failed restored => (failed ++ restored).all fun ch => decide (ch < 256)
  | .bootStage4 => true
  | .registerWrite a _ => (a.agent != .host || fnIn a.fn)
  | .readClear a => (a.agent != .host || fnIn a.fn)
  | .w1cClear a _ _ => (a.agent != .host || fnIn a.fn)

end Sys2Proof
end

