-- ==== Sys2Proof/Safety.lean ====
section
/-! DEFINITION. Safety.lean: the terms of the claims: the invariant of the device memories that every step keeps, when a command completes,
what a command leaves alone, and when a core takes an instruction. -/

namespace Sys2Proof.Machine

open Sys2Proof

/-- The HBM and the host memory are in canonical form. -/
abbrev MemOk (s : State) : Prop := Mem.wf 0 s.hbm.bytes = true ∧ Mem.wf 0 s.host = true

/-- Command `c` answers a next state of which `p` holds. -/
def Completes (c : Instr) (s : State) (p : State → Prop) : Prop := ∃ t, exec c s = .next t ∧ p t

/-- The two states differ in core `c` alone. -/
abbrev OnlyCore (c : Nat) (s t : State) : Prop := t = setCore s c (getCore t c)

/-- The two states differ in core `c` and in what an event or a log record changes: log, event queues and C0 bounds. -/
abbrev CoreAndEvents (c : Nat) (s t : State) : Prop :=
  t = setCore { s with log := t.log, evqs := t.evqs, hub := { s.hub with susp := t.hub.susp }, phys := t.phys } c (getCore t c)

/-- Core `c`, in service, takes the instruction `w` of `len` bytes of context `n` next (R122). -/
abbrev Takes (s : State) (c n w len : Nat) : Prop :=
  c < 256 ∧ coreServes s c = true ∧ nextCtx (getCore s c) = some n ∧ fetchAt (getCore s c) (ctxAt s c n).pc.toNat = .instr w len

/-- `s` with context `n` of core `c` served last and standing as `y`. -/
def served (s : State) (c n : Nat) (y : Ctx) : State := setCore s c (putCtx { getCore s c with lastServed := n } n y)

/-- Context `n` of core `c` stands as `y` and nothing else of the core's contexts and memories, of the HBM or of the host has changed; with no
credit request held at the core, nothing else at all has. -/
abbrev Retired (c n : Nat) (s : State) (y : Ctx) (t : State) : Prop :=
  ctxAt t c n = y ∧ (∀ m, m ≠ n → ctxAt t c m = ctxAt s c m) ∧ (getCore t c).spad = (getCore s c).spad ∧
    (getCore t c).imem = (getCore s c).imem ∧ t.hbm = s.hbm ∧ t.host = s.host ∧ ((getCore s c).mesh.held = [] → t = served s c n y)

/-- Command `i` takes the head `q` of context `n` to its unit (R139): it becomes the core's newest run, the queue moves up, the scoreboard
keeps its entries, and neither HBM nor host memory nor any register of a context changes. -/
def Dispatches (i : Instr) (c n : Nat) (q : QDesc) (s : State) : Prop :=
  Completes i s fun t =>
    (∃ r, (getCore t c).runs = (getCore s c).runs ++ [r] ∧ r.ctx = n ∧ r.seq = q.seq ∧ r.desc = q.desc ∧ r.holds = q.holds ∧
      r.order = (getCore s c).dispatches) ∧
    (getCore t c).dispatches = (getCore s c).dispatches + 1 ∧ (getCore t c).sb = (getCore s c).sb ∧
    (ctxAt t c n).queue.map (·.seq) = (ctxAt s c n).queue.tail.map (·.seq) ∧
    (∀ m, (ctxAt t c m).x = (ctxAt s c m).x ∧ (ctxAt t c m).pc = (ctxAt s c m).pc) ∧ t.hbm = s.hbm ∧ t.host = s.host

/-- The receive queue of the port has room for the frame (R396, R397). -/
abbrev RxRoom (rx : Rx) (s : State) : Prop :=
  cdcRoom (queueKind (queueNo 4 0 rx.port)) (frameLen rx.frame / 32) (getCdc s (queueNo 4 0 rx.port)) = true

/-- A frame whose fields lie in their places passes the link check of its port (R429, R431). -/
abbrev Accepted (rx : Rx) (s : State) : Prop :=
  rx.port < 16 ∧ rx.frame.fits = true ∧ portOpen (getPort s rx.port) = true ∧ RxRoom rx s ∧ rx.crcOk = true ∧ rx.tagOk = true ∧ rx.fec = 0 ∧ rx.stomp = false ∧
    rx.frame.lseq = (getPort s rx.port).rxSeq

/-- `s` once the port of `rx` has taken its frame: it has passed the receive queue, the next LSEQ is expected, and the frame's credits return
(R397, R431, R434). -/
def linkTaken (rx : Rx) (s : State) : State :=
  setPort (enterCdc s (queueNo 4 0 rx.port) (frameLen rx.frame / 32)) rx.port { returnCredits (getPort s rx.port) rx.frame with rxSeq := (getPort s rx.port).rxSeq + 1 }

/-- A frame of type `ty` for this module passes the link check. -/
abbrev Delivered (ty : Nat) (rx : Rx) (s : State) : Prop :=
  Accepted rx s ∧ rx.frame.flags.mcast = false ∧ rx.frame.dstModule = ownModule s ∧ rx.frame.type.toNat = ty

/-- A control frame `code` of type `ty` for this module passes the link check. -/
abbrev DeliveredCtl (ty code : Nat) (rx : Rx) (s : State) : Prop := Delivered ty rx s ∧ rx.frame.payload.headD 0 = Config.ctlCode code

/-- A control frame of the group passes the link check and the check of its EPOCH, and the scheduler core does not wait (R458, R545). -/
abbrev Grouped (code : Nat) (rx : Rx) (s : State) : Prop := DeliveredCtl 9 code rx s ∧ epochOk s rx.frame = true ∧ procWaits s 2 = false

/-- The channels of `n` bytes of HBM at `a` serve requests and answer them, no earlier frame of the source of `f` waits, and the pacer holds
the one token that `f` needs at class C0 (R415, R443, R517). -/
abbrev Served (s : State) (f : Frame) (a n : Nat) : Prop :=
  rangeWaits s a n = false ∧ rangeFailed s a n = false ∧ s.hbm.waiting.any (fromSource f) = false ∧
    (rxTake s (rxPath s [(a, n)]) (rxNeed f [(a, n)]) 0).1 = rxNeed f [(a, n)]

/-- The route table sends frames to `m` by ring port `p` (R437). -/
abbrev RingRoute (s : State) (m p : Nat) : Prop :=
  p < 4 ∧ m ≠ ownModule s ∧ (Tab.get 0#16 s.fab.route m).toNat.testBit 15 = true ∧ bf (Tab.get 0#16 s.fab.route m).toNat 12 3 = p + 1

/-- Port `p` has one more frame to send at class `cls`, the last of its queue, of which `h` holds. -/
def Queued (p cls : Nat) (s t : State) (h : Frame → Prop) : Prop :=
  ∃ f, Tab.get [] (getPort t p).queues cls = Tab.get [] (getPort s p).queues cls ++ [f] ∧ h f

/-- What the fabric's own registers and queues do not reach: cores, HBM, host memory, host interface, firmware, keys and power. -/
abbrev FabricOnly (s t : State) : Prop :=
  t.cores = s.cores ∧ t.hbm = s.hbm ∧ t.host = s.host ∧ t.hif = s.hif ∧ t.fwc = s.fwc ∧ t.pwr = s.pwr ∧ t.wct = s.wct ∧ t.parts = s.parts

/-- Command `c` of ring `n` of function `f` is over with STATUS `st`: it leaves the ring's commands, and its record waits for the CQ (R483). -/
def Reports (f n : Nat) (c : HCmd) (st : Nat) (s t : State) : Prop :=
  ∃ res, (getHRing t f n).done = (getHRing s f n).done ++ [doneOf c st res] ∧
    (getHRing t f n).cmds = (getHRing s f n).cmds.filter fun x => x.idx != c.idx

/-- Command `c`, number `k` of ring `n` of function `f` and of opcode `op`, is the next to start, and nothing refuses it (R482, R485, R486). -/
abbrev Ready (f n k op : Nat) (c : HCmd) (s : State) : Prop :=
  f ≤ 16 ∧ n < ringCount f ∧ (getHRing s f n).cmds.find? (fun x => x.idx == k) = some c ∧
    (∀ x ∈ (getHRing s f n).cmds, x.idx = k → x = c) ∧ cmdOp c = op ∧ startable (getHRing s f n) c = true ∧
    startRefusal s f c = none

/-- The ranges pass the address checks of function `f` (R487), and their channels serve requests and answer them. -/
abbrev RangesOk (s : State) (f : Nat) (rs : List (Nat × Nat)) : Prop :=
  rangesBad s f rs = none ∧ ∀ r ∈ rs, rangeWaits s r.1 r.2 = false ∧ rangeFailed s r.1 r.2 = false

/-- Data command `c` is `Ready`, its ranges serve, and it has its C0 tokens, or the pacer holds the last one (R517). -/
abbrev DataReady (f n k op : Nat) (c : HCmd) (rs : List (Nat × Nat)) (s : State) : Prop :=
  Ready f n k op c s ∧ RangesOk s f rs ∧ engineNeed s f n rs ≤ (engineTake s c (engineNeed s f n rs)).1

/-- Device space holds in `t` what it holds in `u`. -/
def BytesAs (u t : State) : Prop := (∀ a, hbmByte t a = hbmByte u a) ∧ t.host = u.host

/-- `s` once the envelope of a request that came by `via` is accepted (R565). -/
def asked (via : Via) (s : State) : State := match via with
  | .mgmtSealed _ q _ _ => setSess s 17 { getSess s 17 with seq := some q, last := s.aon }
  | _ => s

/-- `t` without the request in front, where it waited on its channel. -/
def taken (via : Via) (t : State) : State := match via with
  | .waiting _ => popReq t
  | _ => t

/-- Request `r` of type `ty` comes by `via` and is not refused; no other request waits (R537, R540, R565). -/
def Asks (via : Via) (ty : Nat) (r : Req) (s : State) : Prop :=
  serving s = true ∧ procWaits s 0 = false ∧ r.via = via ∧ msgType r.msg = ty ∧ refusal s r = none ∧
    match via with
    | .waiting ch => s.fwc.requests = [{ ch := ch, msg := r.msg }] ∧ answerHeld s ch = false ∧ r.key = chanKey ch ∧ r.session = openId s (chanKey ch)
    | .mgmtPlain m => mgmtBusy s = false ∧ r.msg = m ∧ r.key = 17 ∧ r.session = 0
    | .mgmtSealed x q b m => mgmtBusy s = false ∧ envelopeOk s x q b m = true ∧ r.msg = m ∧ r.key = 17 ∧ r.session = x

/-- `t` with the request answered the way it came: STATUS `st` and payload `body` (R540). -/
def answer (via : Via) (r : Req) (s t : State) (st : Nat) (body : List Byte) : State := reply (asked via s) (taken via t) r st body

/-- A change of security-relevant state can be logged at once (R545). -/
abbrev LogRoom (s : State) : Prop := (logQueue s 0).length < 64

end Sys2Proof.Machine
end

