-- ==== Sys2Proof/Certificates/Slice0/Obligations.lean ====
section
/-! DEFINITION. Certificates/Slice0/Obligations.lean: the statements about the model. -/

open Sys2Proof Sys2Proof.Machine


/-- With a command in front of the queue, a step is that command's effect on the state with the queue's rest. -/
def Obligations.StepTakesFront : Prop :=
  ∀ (c : Instr) (rest : List Instr) (s : State), s.pending = c :: rest → step s = exec c { s with pending := rest }

/-- With an empty queue a step is one AON cycle (the model's choice, assumption 1): `aon` counts one; the ACLK of each die counts 42, 36, 28 or
18 in Full and reefs 1 to 3 and its NCLK 32 in those states, one less or one more, once the spar dies are clocked, XCLK 40, one less or one more; the
clock-crossing queues drain and HOLD_OUT follows them, boundedness events that were held are raised, HBM requests that waited for a channel are
served where it now serves, and nothing else changes. It rests on the model's choices of assumptions 1, 134, 156. -/
def Obligations.IdleStepIsTime : Prop :=
  ∀ s : State, s.pending = [] → ∃ u, step s = .next (if u.hbm.waiting.isEmpty then u else serveHbm u) ∧
    u = { s with aon := s.aon + 1, aclks := u.aclks, nclks := u.nclks, xclk := u.xclk, fresh := u.fresh
                 arb := { s.arb with queues := u.arb.queues }, pins := { s.pins with holdOut := u.pins.holdOut }
                 hub := { s.hub with susp := u.hub.susp }, log := u.log, evqs := u.evqs } ∧
    (s.arb.queues = [] → u.arb = s.arb ∧ u.pins = s.pins) ∧
    ((∀ x ∈ s.hub.susp, x.held = 0) → u.hub = s.hub ∧ u.log = s.log ∧ u.evqs = s.evqs) ∧
    (∃ d, u.xclk = s.xclk + d ∧ (s.pins.step < 3 ∨ 5 ≤ s.pwr.state.toNat → d = 0) ∧
      (3 ≤ s.pins.step → s.pwr.state.toNat < 5 → 39 ≤ d ∧ d ≤ 41)) ∧
    ∀ die < 2, ∃ d e, aclk u die = aclk s die + d ∧ nclk u die = nclk s die + e ∧
      (s.fwc.stage < 3 ∨ s.pins.step < 3 → d = 0 ∧ e = 0) ∧
      (3 ≤ s.fwc.stage → 3 ≤ s.pins.step →
        (∀ n, (s.pwr.state = 0 ∧ n = 42) ∨ (s.pwr.state = 1 ∧ n = 36) ∨ (s.pwr.state = 2 ∧ n = 28) ∨ (s.pwr.state = 3 ∧ n = 18) →
          n ≤ d + 1 ∧ d ≤ n + 1 ∧ 31 ≤ e ∧ e ≤ 33) ∧ (4 ≤ s.pwr.state.toNat → d = 0))

/-- Every well-formed command answers a next state, in every state. A command that names a unit which the module does not have is refused by that name, or names an HBM address that does not exist.
It rests on the model's choices of assumption 100. -/
def Obligations.CompletesOrStops : Prop :=
  (∀ (c : Instr) (s : State), c.wf = true → ∃ t, exec c s = .next t) ∧
  (∀ (c : Instr) (s : State), c.wf = false → exec c s = .refused .noSuchUnit ∨ ∃ a, exec c s = .fault (.noSuchAddress a))

/-- The device memories keep their canonical form in every step. -/
def Obligations.StepKeepsMemory : Prop := ∀ s t : State, MemOk s → step s = .next t → MemOk t

/-- The device memories are in canonical form after reset. -/
def Obligations.ResetMemory : Prop := MemOk State.reset

/-- No command touches the queue of waiting commands, and none moves time but POWER_ON_RESET, which starts it anew (assumption 1). -/
def Obligations.CommandsLeaveQueueAndTime : Prop :=
  ∀ (c : Instr) (s t : State), exec c s = .next t → t.pending = s.pending ∧ (t.aon = s.aon ∨ (c = .powerOnReset ∧ t.aon = 0))

/-- START, HALT, RESUME, KILL and the end of a killed context (R124): what each leaves in the context, with everything outside the core as it
was. It rests on the model's choices of assumptions 21, 22, 146. -/
def Obligations.ContextControl : Prop :=
  ∀ (c n : Nat) (s : State), c < 256 → n < 8 →
    ((ctxAt s c n).st = .idle → coreReady s c = true → (ctxAt s c n).base.toNat * 64 + (ctxAt s c n).bound.toNat * 64 ≤ 0x200000 →
      ∃ y, exec (.ctxStart c n) s = .next (setCtx (trace s (0x10 + clusterOf c) 35) c n y) ∧ y.st = .running ∧ y.pc.toNat = 2 * (ctxAt s c n).entry.toNat ∧
        (∀ r, readX y r = 0 ∧ readF y r = 0) ∧ y.nextSeq = 1 ∧ y.window = [] ∧ y.queue = [] ∧ y.cause = 0 ∧ y.fflags = 0 ∧ y.frm = 0 ∧
        y.base = (ctxAt s c n).base ∧ y.bound = (ctxAt s c n).bound ∧ y.entry = (ctxAt s c n).entry ∧
        y.classFloor = (ctxAt s c n).classFloor) ∧
    ((ctxAt s c n).st = .idle → coreReady s c = true → 0x200000 < (ctxAt s c n).base.toNat * 64 + (ctxAt s c n).bound.toNat * 64 →
      exec (.ctxStart c n) s = .next (setCtx s c n { ctxAt s c n with cause := 0x0A })) ∧
    (coreReady s c = false → exec (.ctxStart c n) s = .next s) ∧
    ((ctxAt s c n).st = .running →
      exec (.ctxHalt c n) s =
        .next (setCtx s c n { ctxAt s c n with st := .halted, wait := none, faultPc := (ctxAt s c n).pc.setWidth 32 })) ∧
    ((ctxAt s c n).st = .waiting → ((∃ l, (ctxAt s c n).wait = some (.narrow l)) ∨ ∃ rd, (ctxAt s c n).wait = some (.kclaim rd)) →
      exec (.ctxHalt c n) s = .next (setCtx s c n { ctxAt s c n with haltPending := true })) ∧
    ((ctxAt s c n).st = .halted → (ctxAt s c n).killPending = false →
      exec (.ctxResume c n) s = .next (setCtx s c n { ctxAt s c n with st := .running })) ∧
    ((ctxAt s c n).st ≠ .idle → Completes (.ctxKill c n) s fun t =>
      OnlyCore c s t ∧ (ctxAt t c n).queue = [] ∧ (ctxAt t c n).killPending = true ∧ (ctxAt t c n).wait = none ∧
        ((ctxAt t c n).st = .halted ∨ (ctxAt t c n).st = .faulted) ∧
        (∀ r ∈ (getCore t c).runs, r.ctx = n → r.killed = true) ∧ (getCore t c).runs.map (·.seq) = (getCore s c).runs.map (·.seq) ∧
        ∀ m, m ≠ n → (ctxAt t c m).x = (ctxAt s c m).x ∧ (ctxAt t c m).pc = (ctxAt s c m).pc) ∧
    ((ctxAt s c n).killPending = true → outstanding (getCore s c) n = 0 → ∀ ecc, Completes (.contextIdle c n ecc) s fun t => ∃ u,
      t = s.fab.group.recovering.foldl (resumeRecovery ecc) u ∧
      OnlyCore c s u ∧ ctxAt u c n = { ctxAt s c n with st := .idle, killPending := false } ∧
        (∀ m, m ≠ n → ctxAt u c m = ctxAt s c m) ∧ (getCore u c).spad = (getCore s c).spad ∧ (getCore u c).runs = (getCore s c).runs)

/-- An instruction that touches neither memory nor the issue queue retires in its own slot: the context moves as RV64 says, and no other
context, register or memory changes; the cases spell out ADDI, ADD, LUI and JAL, with x0 discarding its write. -/
def Obligations.ScalarInstructionRetires : Prop :=
  ∀ (s : State) (c n w len : Nat), Takes s c n w len → kindOf w = .pure →
    (∀ y, pureStep (setCore s c { getCore s c with lastServed := n }) c n (ctxAt s c n) w len = some y →
      Completes (.scalarInstruction c) s (Retired c n s (retire y))) ∧
    (fOp w = 0x13 → fF3 w = 0 → (ctxAt s c n).haltPending = false →
      ∃ y, Completes (.scalarInstruction c) s (Retired c n s y) ∧
        (fRd w ≠ 0 → readX y (fRd w) = readX (ctxAt s c n) (fRs1 w) + immI w) ∧ (∀ r, r ≠ fRd w → readX y r = readX (ctxAt s c n) r) ∧
        readX y 0 = 0 ∧ y.pc = (ctxAt s c n).pc + BitVec.ofNat 64 len ∧ y.instret = (ctxAt s c n).instret + 1 ∧
        y.f = (ctxAt s c n).f ∧ y.fflags = (ctxAt s c n).fflags ∧ y.st = (ctxAt s c n).st ∧ y.queue = (ctxAt s c n).queue ∧
        y.window = (ctxAt s c n).window) ∧
    (fOp w = 0x33 → fF7 w = 0 → fF3 w = 0 → (ctxAt s c n).haltPending = false →
      ∃ y, Completes (.scalarInstruction c) s (Retired c n s y) ∧
        (fRd w ≠ 0 → readX y (fRd w) = readX (ctxAt s c n) (fRs1 w) + readX (ctxAt s c n) (fRs2 w)) ∧
        (∀ r, r ≠ fRd w → readX y r = readX (ctxAt s c n) r) ∧ y.pc = (ctxAt s c n).pc + BitVec.ofNat 64 len) ∧
    (fOp w = 0x37 → (ctxAt s c n).haltPending = false →
      ∃ y, Completes (.scalarInstruction c) s (Retired c n s y) ∧ (fRd w ≠ 0 → readX y (fRd w) = immU w) ∧
        (∀ r, r ≠ fRd w → readX y r = readX (ctxAt s c n) r) ∧ y.pc = (ctxAt s c n).pc + BitVec.ofNat 64 len) ∧
    (fOp w = 0x6F → (ctxAt s c n).haltPending = false →
      ∃ y, Completes (.scalarInstruction c) s (Retired c n s y) ∧
        (fRd w ≠ 0 → readX y (fRd w) = (ctxAt s c n).pc + BitVec.ofNat 64 len) ∧
        (∀ r, r ≠ fRd w → readX y r = readX (ctxAt s c n) r) ∧ y.pc = (ctxAt s c n).pc + immJ w)

/-- ECALL and EBREAK halt the context with their cause, record the pc of the instruction and leave the context behind it, without retiring
(R120, R126; where the pc then stands is the model's choice, assumption 115); no event is raised and nothing else changes. An illegal instruction faults its context with ILLEGAL, a fetch outside the instruction memory with
FETCH_FAULT: the context is FAULTED with its queue discarded, and no memory but the scratchpad records changes. -/
def Obligations.ScalarTraps : Prop :=
  (∀ (s : State) (c n w len : Nat), Takes s c n w len →
    (kindOf w = .ecall → exec (.ecall c) s = .next (served s c n { ctxAt s c n with
      st := .halted, cause := 8, faultPc := (ctxAt s c n).pc.setWidth 32, pc := (ctxAt s c n).pc + BitVec.ofNat 64 len
      wait := none, haltPending := false })) ∧
    (kindOf w = .ebreak → exec (.ebreak c) s = .next (served s c n { ctxAt s c n with
      st := .halted, cause := 9, faultPc := (ctxAt s c n).pc.setWidth 32, pc := (ctxAt s c n).pc + BitVec.ofNat 64 len
      wait := none, haltPending := false })) ∧
    (kindOf w = .illegal → Completes (.scalarInstruction c) s fun t =>
      (ctxAt t c n).st = .faulted ∧ (ctxAt t c n).cause = 1 ∧ (ctxAt t c n).faultPc = (ctxAt s c n).pc.setWidth 32 ∧
        (ctxAt t c n).queue = [] ∧ (ctxAt t c n).x = (ctxAt s c n).x ∧ t.hbm = s.hbm ∧ t.host = s.host ∧ t.wct = s.wct)) ∧
  (∀ (s : State) (c n : Nat), c < 256 → coreServes s c = true → nextCtx (getCore s c) = some n →
    fetchAt (getCore s c) (ctxAt s c n).pc.toNat = .outside → Completes (.scalarInstruction c) s fun t =>
      (ctxAt t c n).st = .faulted ∧ (ctxAt t c n).cause = 4 ∧ (ctxAt t c n).faultPc = (ctxAt s c n).pc.setWidth 32 ∧
        (ctxAt t c n).queue = [] ∧ (ctxAt t c n).x = (ctxAt s c n).x ∧ t.hbm = s.hbm ∧ t.host = s.host ∧ t.wct = s.wct)

/-- Loads, stores and atomics enter the narrow queue (R117, R157): a store retires at once, a load or an atomic makes its context wait at it;
no byte and no register changes yet. An unaligned address faults the context with MISALIGNED, an address outside the window
with BOUND_FAULT, and enters nothing. FENCE retires when no access of its context is queued, and else makes the context wait at it.
It rests on the model's choices of assumption 19. -/
def Obligations.ScalarMemoryIssue : Prop :=
  ∀ (s : State) (c n w len : Nat), Takes s c n w len →
    let k := getCore s c
    let x := ctxAt s c n
    let queued (kd : IKind) : Spad := { k.spad with queue := k.spad.queue ++ [narrowOf s c n x w kd] }
    (kindOf w = .store → memFault x (memEa x w .store).toNat (memSize w) = none →
      exec (.scalarStore c) s = .next (setCore s c (retireAs { k with lastServed := n, spad := queued .store } n (advance x len)))) ∧
    (kindOf w = .load → memFault x (memEa x w .load).toNat (memSize w) = none →
      exec (.scalarLoad c) s = .next (setCore s c (waitAs { k with lastServed := n, spad := queued .load } n x (.narrow len)))) ∧
    (kindOf w = .atomic → memFault x (memEa x w .atomic).toNat (memSize w) = none →
      exec (.scalarAtomic c) s = .next (setCore s c (waitAs { k with lastServed := n, spad := queued .atomic } n x (.narrow len)))) ∧
    (∀ kd, kindOf w = kd → isMemKind kd = true → (memEa x w kd).toNat % memSize w ≠ 0 → ∃ t,
      exec (match kd with | .load => .scalarLoad c | .store => .scalarStore c | _ => .scalarAtomic c) s = .next t ∧
        (ctxAt t c n).st = .faulted ∧ (ctxAt t c n).cause = 2 ∧ (ctxAt t c n).faultPc = x.pc.setWidth 32 ∧
        (getCore t c).spad.queue = k.spad.queue ∧ t.hbm = s.hbm ∧ t.host = s.host) ∧
    (∀ kd, kindOf w = kd → isMemKind kd = true → (memEa x w kd).toNat % memSize w = 0 → winBound x < (memEa x w kd).toNat + memSize w → ∃ t,
      exec (match kd with | .load => .scalarLoad c | .store => .scalarStore c | _ => .scalarAtomic c) s = .next t ∧
        (ctxAt t c n).st = .faulted ∧ (ctxAt t c n).cause = 3 ∧ (ctxAt t c n).faultPc = x.pc.setWidth 32 ∧
        (getCore t c).spad.queue = k.spad.queue ∧ t.hbm = s.hbm ∧ t.host = s.host) ∧
    (kindOf w = .fence → (k.spad.queue.any fun e => e.ctx == n) = false →
      exec (.fence c) s = .next (setCore s c (retireAs { k with lastServed := n } n (advance x len)))) ∧
    (kindOf w = .fence → (k.spad.queue.any fun e => e.ctx == n) = true →
      exec (.fence c) s = .next (setCore s c (waitAs { k with lastServed := n } n x .fence)))

/-- NARROW_ACCESS, GATHER and SPAD_ECC_WRITEBACK (R156 to R159, R170): the head of the narrow queue is performed: a store changes the bytes it
names and no others, a load, LR or AMO gives its context the old bytes, SC writes only with its reservation. KPUSH (R129): with room in the queue the descriptor is copied behind the queue under the next SEQ, which goes to rd and skips 0 when it
wraps; the token window keeps the 32 latest pushes. With 8 queued or 32 outstanding the context waits at its instruction, and a misaligned
descriptor faults it with MISALIGNED. -/
def Obligations.ScratchpadQueue : Prop :=
  (∀ (s : State) (c : Nat), c < 256 →
     (∀ e rest, (getCore s c).spad.queue = e :: rest → e.kind = .store → Completes (.narrowAccess c none) s fun t =>
       OnlyCore c s t ∧ (getCore t c).spad.queue = rest ∧
         (∀ i, i < e.size → spadByte (getCore t c).spad (e.addr + i) = BitVec.ofNat 8 (e.data.toNat / 256 ^ i)) ∧
         (∀ a, (a < e.addr ∨ e.addr + e.size ≤ a) → spadByte (getCore t c).spad a = spadByte (getCore s c).spad a) ∧
         ∀ n, (ctxAt t c n).x = (ctxAt s c n).x ∧ (ctxAt t c n).pc = (ctxAt s c n).pc) ∧
     (∀ e rest rd signed len, (getCore s c).spad.queue = e :: rest → e.kind = .load rd false signed → e.dead = false →
       (ctxAt s c e.ctx).st = .waiting → (ctxAt s c e.ctx).wait = some (.narrow len) → (ctxAt s c e.ctx).haltPending = false →
       Completes (.narrowAccess c none) s fun t =>
         OnlyCore c s t ∧ (getCore t c).spad.queue = rest ∧ (∀ a, spadByte (getCore t c).spad a = spadByte (getCore s c).spad a) ∧
           (ctxAt t c e.ctx).st = .running ∧ (ctxAt t c e.ctx).wait = none ∧ (ctxAt t c e.ctx).instret = (ctxAt s c e.ctx).instret + 1 ∧
           (ctxAt t c e.ctx).pc = (ctxAt s c e.ctx).pc + BitVec.ofNat 64 len ∧
           (rd ≠ 0 → readX (ctxAt t c e.ctx) rd = loadValue e.size signed (leNum (spadBytes (getCore s c).spad e.addr e.size))) ∧
           (∀ r, r ≠ rd → readX (ctxAt t c e.ctx) r = readX (ctxAt s c e.ctx) r) ∧ (ctxAt t c e.ctx).f = (ctxAt s c e.ctx).f) ∧
     (∀ e rest rd len, (getCore s c).spad.queue = e :: rest → e.kind = .sc rd → e.dead = false → rd ≠ 0 →
       (ctxAt s c e.ctx).st = .waiting → (ctxAt s c e.ctx).wait = some (.narrow len) → Completes (.narrowAccess c none) s fun t =>
         OnlyCore c s t ∧ (ctxAt t c e.ctx).resv = none ∧
         ((ctxAt s c e.ctx).resv = some (e.addr, e.size) → readX (ctxAt t c e.ctx) rd = 0 ∧
           ∀ i, i < e.size → spadByte (getCore t c).spad (e.addr + i) = BitVec.ofNat 8 (e.data.toNat / 256 ^ i)) ∧
         ((ctxAt s c e.ctx).resv ≠ some (e.addr, e.size) → readX (ctxAt t c e.ctx) rd = 1 ∧
           ∀ a, spadByte (getCore t c).spad a = spadByte (getCore s c).spad a)) ∧
     (∀ e rest rd f5 len, (getCore s c).spad.queue = e :: rest → e.kind = .amo rd f5 → e.dead = false → rd ≠ 0 →
       (ctxAt s c e.ctx).st = .waiting → (ctxAt s c e.ctx).wait = some (.narrow len) → Completes (.narrowAccess c none) s fun t =>
         let old := leNum (spadBytes (getCore s c).spad e.addr e.size)
         OnlyCore c s t ∧ readX (ctxAt t c e.ctx) rd = sext64 (8 * e.size) old ∧
           (∀ i, i < e.size → spadByte (getCore t c).spad (e.addr + i) =
             BitVec.ofNat 8 (amoResult f5 e.size old (e.data.toNat % 2 ^ (8 * e.size)) / 256 ^ i)) ∧
           ∀ a, (a < e.addr ∨ e.addr + e.size ≤ a) → spadByte (getCore t c).spad a = spadByte (getCore s c).spad a) ∧
     (∀ e rest, (getCore s c).spad.queue = e :: rest → e.since + 32 ≤ coreAclk s c → Completes (.gather c []) s fun t =>
       OnlyCore c s t ∧ (getCore t c).spad.queue = (e :: rest).filter (fun x => !(wideLine x.addr == wideLine e.addr)) ∧
         (getCore t c).spad.gathers = satAdd (getCore s c).spad.gathers 1 ∧
         ∀ a, wideLine a ≠ wideLine e.addr → (∀ x ∈ e :: rest, wideLine (x.addr + x.size - 1) = wideLine x.addr) →
           spadByte (getCore t c).spad a = spadByte (getCore s c).spad a) ∧
     (∀ a rest, (getCore s c).spad.toWriteBack = a :: rest → exec (.spadEccWriteback c) s =
       .next (setCore s c { getCore s c with spad := { (getCore s c).spad with toWriteBack := rest } }))) ∧
  (∀ (s : State) (c n w len : Nat), Takes s c n w len → kindOf w = .kpush →
     let k := getCore s c
     let x := ctxAt s c n
     let a := (readX x (fRs1 w)).toNat
     (kpushFault k x a = none → x.queue.length < 8 → outstanding k n < 32 → x.haltPending = false →
       ∃ q y, exec (.kpush c []) s = .next (setCore s c (putCtx { k with lastServed := n, pushes := k.pushes + 1 } n y)) ∧
         q.seq = x.nextSeq ∧ q.desc = BitVec.ofNat 1024 (leNum (spadBytes k.spad (winAddr x a) 128)) ∧ q.passed = false ∧
         y.queue = x.queue ++ [q] ∧ y.nextSeq = (if x.nextSeq + 1 ≥ 2 ^ 32 then 1 else x.nextSeq + 1) ∧
         y.window = (x.window ++ [({ seq := x.nextSeq } : Token)]).drop (x.window.length + 1 - 32) ∧
         (fRd w ≠ 0 → readX y (fRd w) = BitVec.ofNat 64 x.nextSeq) ∧ (∀ r, r ≠ fRd w → readX y r = readX x r) ∧
         y.pc = x.pc + BitVec.ofNat 64 len ∧ y.st = x.st ∧ y.drainSum = x.drainSum) ∧
     (kpushFault k x a = none → (8 ≤ x.queue.length ∨ 32 ≤ outstanding k n) →
       exec (.kpush c []) s = .next (served s c n { x with st := .waiting, wait := some .kpush, faultPc := x.pc.setWidth 32 })) ∧
     (a % 128 ≠ 0 → Completes (.kpush c []) s fun t =>
       (ctxAt t c n).st = .faulted ∧ (ctxAt t c n).cause = 2 ∧ (ctxAt t c n).queue = [] ∧ (getCore t c).pushes = k.pushes ∧
         (getCore t c).runs = k.runs ∧ t.hbm = s.hbm ∧ t.host = s.host))

/-- KWAIT, KTEST and KDRAIN (R130, R131): a complete descriptor's STATUS and SUMMARY, all ones for a SEQ of 0 or outside the window, and the
drain summary go to rd; KWAIT and KDRAIN wait for what is not complete, where KTEST writes all ones but bit 0. -/
def Obligations.TokenResults : Prop :=
  ∀ (s : State) (c n w len : Nat), Takes s c n w len →
    let k := getCore s c
    let x := ctxAt s c n
    let q := (readX x (fRs1 w)).toNat
    (kindOf w = .kwait → ∀ tk, q ≠ 0 → findToken x q = some tk → tk.done = true →
      exec (.kwait c) s = .next (served s c n (retire (writeX (advance x len) (fRd w)
        (BitVec.ofNat 64 (tk.status.toNat + tk.summary.toNat * 2 ^ 16)))))) ∧
    (kindOf w = .kwait → ∀ tk, q ≠ 0 → findToken x q = some tk → tk.done = false →
      exec (.kwait c) s = .next (served s c n { x with st := .waiting, wait := some (.kwait (fRd w) q), faultPc := x.pc.setWidth 32 })) ∧
    (kindOf w = .kwait → (q = 0 ∨ findToken x q = none) →
      exec (.kwait c) s = .next (served s c n (retire (writeX (advance x len) (fRd w) 0xFFFFFFFFFFFFFFFF)))) ∧
    (kindOf w = .ktest → ∀ tk, q ≠ 0 → findToken x q = some tk → tk.done = true →
      exec (.ktest c) s = .next (served s c n (retire (writeX (advance x len) (fRd w)
        (BitVec.ofNat 64 (tk.status.toNat + tk.summary.toNat * 2 ^ 16)))))) ∧
    (kindOf w = .ktest → ∀ tk, q ≠ 0 → findToken x q = some tk → tk.done = false →
      exec (.ktest c) s = .next (served s c n (retire (writeX (advance x len) (fRd w) 0xFFFFFFFFFFFFFFFE)))) ∧
    (kindOf w = .ktest → (q = 0 ∨ findToken x q = none) →
      exec (.ktest c) s = .next (served s c n (retire (writeX (advance x len) (fRd w) 0xFFFFFFFFFFFFFFFF)))) ∧
    (kindOf w = .kdrain → outstanding k n = 0 →
      exec (.kdrain c) s = .next (served s c n (retire { writeX (advance x len) (fRd w)
        (BitVec.ofNat 64 (x.drainSum.toNat + if x.drainBad then 256 else 0)) with drainSum := 0, drainBad := false }))) ∧
    (kindOf w = .kdrain → outstanding k n ≠ 0 →
      exec (.kdrain c) s = .next (served s c n { x with st := .waiting, wait := some (.kdrain (fRd w)), faultPc := x.pc.setWidth 32 }))

/-- KRECV (R132) takes the oldest message into the window and clears rd, or waits behind the contexts that wait already; an address that is not
64-byte aligned faults the context. -/
def Obligations.KrecvTakesMessage : Prop :=
  ∀ (s : State) (c n w len : Nat), Takes s c n w len → kindOf w = .krecv →
    let k := getCore s c
    let x := ctxAt s c n
    let a := (readX x (fRs1 w)).toNat
    (a % 64 = 0 → inWindow x a 64 = true → ∀ m rest, k.mesh.mailbox = m :: rest → Completes (.krecv c) s fun t =>
      OnlyCore c s t ∧ (getCore t c).mesh.mailbox = rest ∧
        (∀ i (h : i < m.length), spadByte (getCore t c).spad (winAddr x a + i) = m[i]) ∧
        (∀ b, (b < winAddr x a ∨ winAddr x a + m.length ≤ b) → spadByte (getCore t c).spad b = spadByte k.spad b) ∧
        readX (ctxAt t c n) (fRd w) = 0 ∧ (∀ r, r ≠ fRd w → readX (ctxAt t c n) r = readX x r) ∧ (ctxAt t c n).pc = x.pc + 4) ∧
    (a % 64 = 0 → inWindow x a 64 = true → k.mesh.mailbox = [] →
      exec (.krecv c) s = .next (setCore s c (putCtx { k with lastServed := n, krecvOrder := k.krecvOrder ++ [n] } n
        { x with st := .waiting, wait := some (.krecv (fRd w) a), faultPc := x.pc.setWidth 32 }))) ∧
    (a % 64 ≠ 0 → Completes (.krecv c) s fun t =>
      (ctxAt t c n).st = .faulted ∧ (ctxAt t c n).cause = 2 ∧ (getCore t c).mesh = k.mesh ∧ t.hbm = s.hbm)

/-- KCLAIM_CLAIM (R133, R300): one fetch-and-add bounded by LIMIT: the old value and the generation reach rd, and the context runs on. KCLAIM_COMMIT (R302, R303): a commit in the entry's generation marks the entry COMMITTED and replies 0; one of another generation replies 1
and is counted, one of a committed entry replies 2, one outside the ledger 3; the reply carries the generation
found, or in the last case some generation. An entry that cannot be read replies 4 and is counted (R310).
It rests on the model's choices of assumptions 150, 155. -/
def Obligations.ClaimsAndCommits : Prop :=
  (∀ (s : State) (c n : Nat) (r : ClaimReq) (rest : List ClaimReq) (rd : Nat), c < 256 → n < 8 →
     takeClaim n (fun r => claimFunc r != 1) (getCore s c).claims = some (r, rest) → r.dead = false → claimMalformed r = false →
     claimBehind s (getCore s c) r = false →
     (getCtr s (claimCtr r)).assigned = true → partOfCore s c = some (getCtr s (claimCtr r)).part.toNat →
     (getCtr s (claimCtr r)).st = .running → (ctxAt s c n).wait = some (.kclaim rd) → (ctxAt s c n).haltPending = false → claimWaits s (getCtr s (claimCtr r)) = false →
     let x := getCtr s (claimCtr r)
     Completes (.kclaimClaim c n []) s fun t =>
       (getCtr t (claimCtr r)).value = BitVec.ofNat 32 (min (x.value.toNat + r.rs2.toNat % 2 ^ 32) x.limit.toNat) ∧
         (getCtr t (claimCtr r)).limit = x.limit ∧ (getCtr t (claimCtr r)).st = .running ∧ (getCore t c).claims = rest ∧
         (rd ≠ 0 → readX (ctxAt t c n) rd = BitVec.ofNat 64 (x.value.toNat + x.gen.toNat * 2 ^ 32)) ∧
         (∀ q, q ≠ rd → readX (ctxAt t c n) q = readX (ctxAt s c n) q) ∧ (ctxAt t c n).st = .running ∧
         (∀ m, m ≠ claimCtr r → getCtr t m = getCtr s m) ∧ (x.table = none → t.hbm = s.hbm ∧ t.host = s.host)) ∧
  (∀ (s : State) (c n : Nat) (r : ClaimReq) (rest : List ClaimReq) (rd : Nat), c < 256 → n < 8 → rd ≠ 0 →
     takeClaim n (fun r => claimFunc r == 1) (getCore s c).claims = some (r, rest) → r.dead = false → claimMalformed r = false →
     claimBehind s (getCore s c) r = false →
     (getCtr s (claimCtr r)).assigned = true → partOfCore s c = some (getCtr s (claimCtr r)).part.toNat →
     (ctxAt s c n).wait = some (.kclaim rd) → (getCtr s (claimCtr r)).st = .disabled ∨ claimWaits s (getCtr s (claimCtr r)) = false →
     let x := getCtr s (claimCtr r)
     let i := r.rs2.toNat % 2 ^ 32
     let e := ledgerEntry s (ledgerBase x) i
     (x.st ≠ .disabled → i < ledgerSegments s (ledgerBase x) → entryBad s (ledgerBase x) i [] = false → entryGen e = bf r.rs1.toNat 16 8 → entryCommitted e = false →
       Completes (.kclaimCommit c n []) s fun t => ledgerEntry t (ledgerBase x) i = e ||| 3 ∧
         readX (ctxAt t c n) rd = BitVec.ofNat 64 (entryGen e * 2 ^ 32) ∧ (getCore t c).claims = rest ∧ t.wct = s.wct) ∧
     (x.st ≠ .disabled → i < ledgerSegments s (ledgerBase x) → entryBad s (ledgerBase x) i [] = false → entryGen e ≠ bf r.rs1.toNat 16 8 →
       Completes (.kclaimCommit c n []) s fun t => ledgerEntry t (ledgerBase x) i = e ∧
         readX (ctxAt t c n) rd = BitVec.ofNat 64 (1 + entryGen e * 2 ^ 32) ∧ t.wct.dupCommit = satAdd s.wct.dupCommit 1) ∧
     (x.st ≠ .disabled → i < ledgerSegments s (ledgerBase x) → entryBad s (ledgerBase x) i [] = false → entryGen e = bf r.rs1.toNat 16 8 → entryCommitted e = true →
       Completes (.kclaimCommit c n []) s fun t => t.hbm = s.hbm ∧ t.host = s.host ∧ t.wct = s.wct ∧
         readX (ctxAt t c n) rd = BitVec.ofNat 64 (2 + entryGen e * 2 ^ 32)) ∧
     (∀ ecc, x.st ≠ .disabled → i < ledgerSegments s (ledgerBase x) → entryBad s (ledgerBase x) i ecc = true →
       Completes (.kclaimCommit c n ecc) s fun t => ledgerEntry t (ledgerBase x) i = e ∧ t.wct.ledgerUe = satAdd s.wct.ledgerUe 1 ∧
         ∃ g < 256, readX (ctxAt t c n) rd = BitVec.ofNat 64 (4 + g * 2 ^ 32)) ∧
     ((x.st = .disabled ∨ ledgerSegments s (ledgerBase x) ≤ i) →
       Completes (.kclaimCommit c n []) s fun t => t.hbm = s.hbm ∧ t.host = s.host ∧ t.wct = s.wct ∧
         ∃ g < 256, readX (ctxAt t c n) rd = BitVec.ofNat 64 (3 + g * 2 ^ 32)))

/-- A claim or a commit on a counter that is not assigned to the claiming core's partition is refused and faults the claiming context with
CLAIM_DENIED (R43); a counter's record names one partition, or none. -/
def Obligations.ForeignClaimFaults : Prop :=
  ∀ (s : State) (c n : Nat) (r : ClaimReq) (rest : List ClaimReq) (i : Instr), c < 256 → n < 8 →
    ((∃ ecc, i = .kclaimClaim c n ecc ∧ takeClaim n (fun r => claimFunc r != 1) (getCore s c).claims = some (r, rest)) ∨
      ∃ ecc, i = .kclaimCommit c n ecc ∧ takeClaim n (fun r => claimFunc r == 1) (getCore s c).claims = some (r, rest)) →
    r.dead = false → claimMalformed r = false →
    claimBehind s (getCore s c) r = false →
    ((getCtr s (claimCtr r)).assigned = false ∨ partOfCore s c ≠ some (getCtr s (claimCtr r)).part.toNat) →
    Completes i s fun t =>
      t.wct = s.wct ∧ t.hbm = s.hbm ∧ (ctxAt t c n).st = .faulted ∧ (ctxAt t c n).cause = 7 ∧ (ctxAt t c n).queue = []

/-- The kring commands (R377, R378, R387, R388): STATUS reads, OPEN makes a ring that was closed and lies within the window, CLOSE starts to
close an open ring, RELEASE asks for one more filled slot; each writes the ring's status to rd, with ERROR clear. -/
def Obligations.RingCommands : Prop :=
  ∀ (s : State) (c n w len : Nat), Takes s c n w len → kindOf w = .kring → fF3 w = 1 →
    let k := getCore s c
    let x := ctxAt s c n
    let cmd := (readX x (fRs1 w)).toNat
    let r := bf cmd 3 5
    let g := getRing k r
    bf cmd 51 13 = 0 → x.haltPending = false →
    (bf cmd 0 3 = 0 → r ≤ 16 → exec (.kringStatus c) s =
      .next (served s c n (retire (writeX (advance x len) (fRd w) (BitVec.ofNat 64 (ringStatus k r false)))))) ∧
    (∀ k1, bf cmd 0 3 = 1 → ringOpen k n cmd = some k1 → fRd w ≠ 0 → Completes (.kringOpen c) s fun t =>
      (getRing (getCore t c) r).opened = true ∧ (getRing (getCore t c) r).owner = n ∧ (getRing (getCore t c) r).head = 1 ∧
        (getRing (getCore t c) r).base = winAddr x (bf cmd 24 18 * 64) ∧
        (getRing (getCore t c) r).slots = (if bf cmd 8 6 = 0 then 64 else bf cmd 8 6) ∧
        readX (ctxAt t c n) (fRd w) = BitVec.ofNat 64 (ringStatus k1 r false) ∧ (getCore t c).spad = k.spad ∧ t.hbm = s.hbm) ∧
    (bf cmd 0 3 = 2 → r < 16 → g.opened = true → g.pendingRel = [] → Completes (.kringClose c) s fun t =>
      OnlyCore c s t ∧ getRing (getCore t c) r = { g with closing := true } ∧ (getCore t c).spad = k.spad ∧
        (fRd w ≠ 0 → readX (ctxAt t c n) (fRd w) = BitVec.ofNat 64 (ringStatus (getCore t c) r false))) ∧
    (bf cmd 0 3 = 3 → r < 16 → g.opened = true → g.pendingRel.length + 1 ≤ filledCount g.st → Completes (.kringRelease c) s fun t =>
      OnlyCore c s t ∧ getRing (getCore t c) r = { g with pendingRel := g.pendingRel ++ [(n, k.pushes)] } ∧ (getCore t c).spad = k.spad ∧
        (fRd w ≠ 0 → readX (ctxAt t c n) (fRd w) = BitVec.ofNat 64 (ringStatus (getCore t c) r false)))

/-- DESCRIPTOR_ISSUE (R138 to R146): a head that meets no refusal and no wait passes with its scoreboard entries held; one that stage 1 or
stage 3 refuses leaves the queue with a record of that status at TOKEN_ADDR; one that is blocked in stage 2 keeps its place, and stage 1 is not
applied to it again. It rests on the model's choices of assumption 23. -/
def Obligations.DescriptorIssue : Prop :=
  ∀ (s : State) (c n : Nat) (q : QDesc) (rest : List QDesc), c < 256 → n < 8 → coreServes s c = true → (ctxAt s c n).queue = q :: rest →
    q.passed = false →
    let k := getCore s c
    let x := qCtx k n q
    let d := descOf q.desc
    let past1 := q.past1 = true ∨ staticStage s c n q = none
    (past1 → (chainOver k && waitsOnChain k n x d) = false → (stage2Blocked s c n q || entriesBlocked s c n q) = false →
      contentStage k n q = none → Completes (.descriptorIssue c n []) s fun t =>
        (∃ h, (ctxAt t c n).queue = h :: rest ∧ h.seq = q.seq ∧ h.passed = true ∧ h.holds = sbRanges x d ∧ h.desc = q.desc) ∧
          (getCore t c).sb = sbAfter k.sb (sbRanges x d) ∧ (getCore t c).spad = k.spad ∧ (getCore t c).runs = k.runs ∧ t.hbm = s.hbm) ∧
    (∀ st, q.past1 = false → staticStage s c n q = some st → faultCause st = none → Completes (.descriptorIssue c n []) s fun t =>
      (ctxAt t c n).queue.map (·.seq) = rest.map (·.seq) ∧ (getCore t c).sb = k.sb ∧ (getCore t c).runs = k.runs ∧
        spadBytes (getCore t c).spad (q.base + d.tokenAddr) 64 =
          recordBytes { status := st, op := d.op, seq := q.seq, waitSclk := headWait (coreSclk s c) q } ∧ t.hbm = s.hbm) ∧
    (∀ st, past1 → (chainOver k && waitsOnChain k n x d) = false → (stage2Blocked s c n q || entriesBlocked s c n q) = false →
      contentStage k n q = some st → faultCause st = none → Completes (.descriptorIssue c n []) s fun t =>
        (ctxAt t c n).queue.map (·.seq) = rest.map (·.seq) ∧ (getCore t c).sb = k.sb ∧ (getCore t c).runs = k.runs ∧
          (∃ f : RecFields, f.status = st ∧ f.op = d.op ∧ f.seq = q.seq ∧ f.waitSclk = headWait (coreSclk s c) q ∧
            spadBytes (getCore t c).spad (q.base + d.tokenAddr) 64 = recordBytes f) ∧ t.hbm = s.hbm) ∧
    (past1 → (chainOver k && waitsOnChain k n x d) = false → (stage2Blocked s c n q || entriesBlocked s c n q) = true →
      Completes (.descriptorIssue c n []) s fun t =>
        (ctxAt t c n).queue.map (·.seq) = (ctxAt s c n).queue.map (·.seq) ∧ (∃ h, (ctxAt t c n).queue = h :: rest ∧ h.past1 = true) ∧
          (getCore t c).sb = k.sb ∧ (getCore t c).spad = k.spad ∧ (getCore t c).runs = k.runs ∧ t.hbm = s.hbm)

/-- MATMUL, MATVEC, PREDICT, MERGE, INTERSECT, FILL and TOP_K_SELECT take the first head that is free to go to its unit (R137, R139), whatever
ECC findings its operands show, and however many wide lines of its result are written before the next command. LOAD, COPY, TRANSPOSE_COPY, COMPACTION_STORE and the three sends take the first head that is free to go to the DMA engine or the memory
unit. It rests on the model's choices of assumption 149. -/
def Obligations.Dispatching : Prop :=
  (∀ (s : State) (c n : Nat) (q : QDesc) (ecc abuf : EccHits) (lines : Option Nat), c < 256 → n < 8 →
     (dispatchable s c n (fun d => d.op == opMatmul) = some q → Dispatches (.matmul c n ecc abuf) c n q s) ∧
     (dispatchable s c n (fun d => d.op == opMatvec) = some q → Dispatches (.matvec c n ecc) c n q s) ∧
     (dispatchable s c n (fun d => d.op == opPredict) = some q → Dispatches (.predict c n ecc) c n q s) ∧
     (dispatchable s c n (fun d => d.op == opMerge) = some q → Dispatches (.merge c n ecc lines) c n q s) ∧
     (dispatchable s c n (fun d => d.op == opIntersect) = some q → Dispatches (.intersect c n ecc lines) c n q s) ∧
     (dispatchable s c n (fun d => d.op == opFill) = some q → Dispatches (.fill c n ecc lines) c n q s) ∧
     (dispatchable s c n (fun d => d.op == opTopk) = some q → Dispatches (.topKSelect c n ecc lines) c n q s)) ∧
  (∀ (s : State) (c n : Nat) (q : QDesc) (ecc : EccHits) (lines : Option Nat), c < 256 → n < 8 →
     (dispatchable s c n (fun d => d.op == opLoad) = some q → Dispatches (.load c n ecc) c n q s) ∧
     (dispatchable s c n (fun d => d.op == opCopy) = some q → Dispatches (.copy c n ecc lines) c n q s) ∧
     (dispatchable s c n (fun d => d.op == opTranspose) = some q → Dispatches (.transposeCopy c n ecc) c n q s) ∧
     (dispatchable s c n (fun d => d.op == opCompact) = some q → Dispatches (.compactionStore c n ecc) c n q s) ∧
     (dispatchable s c n (fun d => d.op == opSend && argDstKind d == 0) = some q → Dispatches (.sendMailbox c n ecc) c n q s) ∧
     (dispatchable s c n (fun d => d.op == opSend && argDstKind d == 1) = some q → Dispatches (.sendSlotRing c n ecc) c n q s) ∧
     (dispatchable s c n (fun d => d.op == opSend && argDstKind d == 2) = some q → Dispatches (.sendTree c n ecc) c n q s))

/-- FILL (R161): an execution without flag words writes the eight pattern bytes over and over from the start of D, and no other byte. TILE_CLOSE and ABUF_ADD_RETIRE (R231, R272): the last tile of a closing matmul is written, its group is free again and the run has
finished; the head of a bank adds its value to its entry, and no other entry's sum changes.
It rests on the model's choices of assumption 149. -/
def Obligations.FillAndTiles : Prop :=
  (∀ (s : State) (c n : Nat) (q : QDesc) (e : Nat × Point), c < 256 → n < 8 →
     dispatchable s c n (fun d => d.op == opFill) = some q → (descOf q.desc).flagsLen = 0 →
     execsOf (runOf s c (getCore s c) n q) = [e] →
     let d := descOf q.desc
     let nest := runNest (runOf s c (getCore s c) n q)
     let lo := q.base + startOf d nest .d e.2
     Completes (.fill c n [] none) s fun t =>
       (∀ i, i < lenOf d nest .d → spadByte (getCore t c).spad (lo + i) = BitVec.ofNat 8 (argFill d / 256 ^ (i % 8))) ∧
       (∀ a, (a < lo ∨ lo + lenOf d nest .d ≤ a) → spadByte (getCore t c).spad a = spadByte (getCore s c).spad a) ∧ OnlyCore c s t) ∧
  ((∀ (s : State) (c n seq : Nat) (r : Run) (ti : TileAt), c < 256 → n < 8 → findRun (getCore s c) n seq = some r →
     mayCloseTile (getCore s c) r = true → (descOf r.desc).op = opMatmul →
     (tilesOf (descOf r.desc) (r.nests.map nestOf) r.caps)[r.tile]? = some ti →
     (tilesOf (descOf r.desc) (r.nests.map nestOf) r.caps).length = r.tile + 1 → Completes (.tileClose c n seq [] []) s fun t =>
       OnlyCore c s t ∧ getGroup (getCore t c) true (descOf r.desc).agroup = {} ∧
         (∃ r', findRun (getCore t c) n seq = some r' ∧ r'.finished = true ∧ r'.openTile = false ∧ r'.desc = r.desc ∧ r'.holds = r.holds) ∧
         (getCore t c).sb = (getCore s c).sb ∧ (∀ m, ctxAt t c m = ctxAt s c m)) ∧
   (∀ (s : State) (c bank : Nat) (a : AbufAdd) (rest : List AbufAdd), c < 256 → bank < 16 →
     conflictQ (getCore s c) bank = a :: rest → (getCore s c).acc.waiting = [] → (getCore s c).acc.foldWaiting = [] →
     (∀ p ∈ (getCore s c).acc.folds, p.2.busy = false) → Completes (.abufAddRetire c bank none none) s fun t =>
       let g := getGroup (getCore s c) true a.group
       OnlyCore c s t ∧ conflictQ (getCore t c) bank = rest ∧
         Tab.get 0 (getGroup (getCore t c) true a.group).acc a.entry = (accAdd g.ty (Tab.get 0 g.acc a.entry) a.value).1 ∧
         (∀ e, e ≠ a.entry → Tab.get 0 (getGroup (getCore t c) true a.group).acc e = Tab.get 0 g.acc e) ∧
         (∀ h, h ≠ a.group → getGroup (getCore t c) true h = getGroup (getCore s c) true h) ∧ (getCore t c).spad = (getCore s c).spad))

/-- An integer accumulator never wraps (R66, R67): a sum outside the range of INT32 gives the nearest end of the range and sets the saturation
flag, and every other sum is exact. -/
def Obligations.IntegerSumsSaturate : Prop :=
  ∀ (a : W64) (v : FVal),
    let sum := intOf 32 a.toNat + fToInt v
    let r := accAdd .int32 a v
    (sum > 2147483647 → intOf 32 r.1.toNat = 2147483647 ∧ r.2.sat = true) ∧
    (sum < -2147483648 → intOf 32 r.1.toNat = -2147483648 ∧ r.2.sat = true) ∧
    (-2147483648 ≤ sum → sum ≤ 2147483647 → intOf 32 r.1.toNat = sum ∧ r.2.sat = false)

/-- DESCRIPTOR_COMPLETE (R144, R145, R148): the run leaves, its 64-byte record stands at TOKEN_ADDR, its scoreboard entries are released, and its
SEQ shows done in the token window; besides the record, only its flag words and the VALID byte of a mask change. Where no tile is still to be
reported the record's status is the run's, and where no execution is, the whole record shows the run as it stood. -/
def Obligations.DescriptorComplete : Prop :=
  ∀ (s : State) (c n seq : Nat) (r : Run), c < 256 → n < 8 → findRun (getCore s c) n seq = some r → mayComplete (getCore s c) r = true →
    r.stopped = false → Completes (.descriptorComplete c n seq []) s fun t =>
      let d := descOf r.desc
      let at_ := r.base + d.tokenAddr
      OnlyCore c s t ∧ findRun (getCore t c) n seq = none ∧ (getCore t c).sb = r.holds.foldl sbDrop (getCore s c).sb ∧
        (ctxAt t c n).queue = (ctxAt s c n).queue ∧ (∀ m, (ctxAt t c m).x = (ctxAt s c m).x) ∧
        (∃ f : RecFields, f.op = d.op ∧ f.seq = r.seq ∧ f.counts = r.counts ∧ (r.openTile = false → f.status = r.status.toNat) ∧
          (r.openTile = false → r.notes = [] → f = runRecord s c r) ∧ spadBytes (getCore t c).spad at_ 64 = recordBytes f ∧
          ∀ tk, findToken (ctxAt s c n) seq = some tk →
            ∃ tk', findToken (ctxAt t c n) seq = some tk' ∧ tk'.done = true ∧ tk'.status = BitVec.ofNat 16 f.status) ∧
        (∀ a, (a < at_ ∨ at_ + 64 ≤ a) → (a < r.base + d.flagsAddr ∨ r.base + d.flagsAddr + d.flagsLen ≤ a ∨
            (r.openTile = false ∧ r.notes = [])) → (a ≠ maskBase r + 63 ∨ (d.op ≠ opPredict ∧ d.op ≠ opTopk)) →
          spadByte (getCore t c).spad a = spadByte (getCore s c).spad a)

/-- BURST_ISSUE, BURST_DONE, BURST_DATA_DISCARD and RESP_TIMEOUT (R335, R339, R341, R353, R370, R402): a read burst of device memory issues
where its way through the mesh is open and the core's arbiter takes its class, with a host read's tag; while another burst of the descriptor is under way, its data goes from HBM to the scratchpad and
from the scratchpad's copy to HBM, to the burst's bytes alone, once nothing sent before it to the same unit is on its way; discarded data
changes no memory; a burst without an answer in time gives its descriptor UNCORRECTABLE. CANCEL_ACCEPT and CANCEL_FENCE (R348 to R354): an accepted cancel stands with its MASK and TAG and no masked context has a queued descriptor;
a second one, whatever its mask, is only counted, and a mask of no context does nothing; once nothing of it is in flight the core writes its TAG
to the fence register and is DONE, and the jobs that await it move on. It rests on the model's choices of assumptions 41, 146. -/
def Obligations.BurstsAndCancels : Prop :=
  ((∀ (s : State) (c n seq : Nat) (r : Run) (b : Burst) (a d x : Nat), c < 256 → n < 8 → findRun (getCore s c) n seq = some r →
     ready (getCore s c) (tagFree s) r = true → oldestOfClass (getCore s c) (tagFree s) r = true → nextBurst r = some b →
     (descOf r.desc).cls ≠ 0 → b.src = some (.device a) → b.dst = .spad d x → burstOpen s c b false = true →
     tagTurn s c (descOf r.desc).cls b = true →
     let p := issueDecides s c (coreNclk s c) (issueReqs (getCore s c) (tagFree s))
     p.owner = some ((descOf r.desc).cls, 0, false) →
     exec (.burstIssue c n seq) s = .next (putIssue (setCore (burstCross (takeTag s b) c b false) c (nextPacket (putRun (getCore s c)
       (putBurst r { b with issued := true, since := s.aon, no := (getCore s c).mesh.packetNo })))) c p)) ∧
   (∀ (s : State) (c n seq : Nat) (r : Run) (b o : Burst), c < 256 → n < 8 → findRun (getCore s c) n seq = some r →
     r.bursts.find? (fun y => y.idx == b.idx) = some b → b.issued = true → b.done = false → b.makes = none → o ∈ r.bursts → o.idx ≠ b.idx → o.done = false →
     (b.lost = false → burstPaused s b = false → behind s c b.no (burstLane s c (descOf r.desc).cls b) = false → burstOpen s c b true = true →
       (∀ a d x, b.src = some (.device a) → b.dst = .spad d x → Completes (.burstDone c n seq b.idx []) s fun t =>
         spadBytes (getCore t d).spad x b.len = devRead s a b.len ∧
           (∀ y, (y < x ∨ x + b.len ≤ y) → spadByte (getCore t d).spad y = spadByte (getCore s d).spad y) ∧ t.hbm = s.hbm ∧ t.host = s.host) ∧
       (∀ a, b.src = none → b.dst = .device a → a + b.data.length ≤ hbmEnd → Completes (.burstDone c n seq b.idx []) s fun t =>
         devRead t a b.data.length = b.data ∧ (∀ y, (y < a ∨ a + b.data.length ≤ y) → hbmByte t y = hbmByte s y) ∧ t.host = s.host ∧
           (∀ m, (getCore t m).spad = (getCore s m).spad))) ∧
     ((b.lost = true ∨ burstPaused s b = true ∨ behind s c b.no (burstLane s c (descOf r.desc).cls b) = true ∨ burstOpen s c b true = false) →
       ∀ ecc, exec (.burstDone c n seq b.idx ecc) s = .next s) ∧
     (∀ a d x, b.answer = none → b.src = some (.device a) → b.dst = .spad d x → b.since + respTime (getCore s c) < s.aon → r.status = 0 →
       Completes (.respTimeout c n seq b.idx) s fun t =>
         (∃ r', findRun (getCore t c) n seq = some r' ∧ r'.status = 0x30) ∧ t.hbm = s.hbm ∧ (getCore t d).spad = (getCore s d).spad)) ∧
   (∀ (s : State) (c n seq idx : Nat) (l : Late), c < 256 → n < 8 → (getCore s c).dma.late.find? (isLate n seq idx) = some l →
     (l.burst.lost = false → unanswered l.burst = false → burstPaused s l.burst = false →
       behind s c l.burst.no (burstLane s c l.cls l.burst) = false → burstOpen s c l.burst true = true →
       exec (.burstDataDiscard c n seq idx []) s = .next (setCore (burstCross s c l.burst true) c { getCore s c with dma := { dropLate (getCore s c).dma n seq idx with
         discarded := if l.burst.answer.getD 0 = 0 then satAdd (getCore s c).dma.discarded 1 else (getCore s c).dma.discarded } })) ∧
     (findRun (getCore s c) n seq = none → (getCore s c).mesh.sends = [] → respLate s c l.burst = true →
       Completes (.respTimeout c n seq idx) s fun t => (getCore t c).dma = dropLate (getCore s c).dma n seq idx ∧
         (getCore t c).spad = (getCore s c).spad ∧ t.hbm = s.hbm))) ∧
  (∀ (s : State) (c mask tag : Nat), c < 256 →
     (mask % 256 ≠ 0 → (getCore s c).dma.cancel = none → Completes (.cancelAccept c mask tag) s fun t =>
       (∃ cn, (getCore t c).dma.cancel = some cn ∧ cn.mask = BitVec.ofNat 8 (mask % 256) ∧ cn.tag = BitVec.ofNat 16 tag) ∧
         (∀ n, n < 8 → mask.testBit n = true → (ctxAt t c n).queue = []) ∧ t.hbm = s.hbm ∧ t.host = s.host) ∧
     (mask % 256 = 0 → (getCore s c).dma.cancel = none → exec (.cancelAccept c mask tag) s = .next s) ∧
     (∀ cn, (getCore s c).dma.cancel = some cn → exec (.cancelAccept c mask tag) s =
       .next (setCore s c { getCore s c with dma := { (getCore s c).dma with cancelBusy := satAdd (getCore s c).dma.cancelBusy 1 } })) ∧
     (∀ cn, (getCore s c).dma.cancel = some cn → cancelQuiet (getCore s c) cn = true →
       exec (.cancelFence c) s = .next (settleJobs (setCore (trace s (0x10 + clusterOf c) 31) c { getCore s c with dma := { (getCore s c).dma with
         cancel := none, fenceDone := true, fenceTag := cn.tag } }))))

/-- The halyard (R45, R356 to R364): ENABLE of a member whose slots lie in their window makes it run; a forward starts when the next member's slot
is free, and its completion writes the tile's bytes into that slot, of an enabled member of the same partition alone; a member that has waited
TIMEOUT breaks the chain, and a member that learns of the break is BROKEN too. It rests on the model's choices of assumption 41. -/
def Obligations.Halyard : Prop :=
  ∀ (s : State) (c : Nat), c < 256 →
    (∀ cfg : W64, halEnabled (halOf s c) = false → cfg.getLsbD 0 = true →
      halConfigOk (getCore s c) { cfg := cfg &&& halMask, stall := halStall (coreNclk s c) (halOf s c), forwarded := (halOf s c).forwarded } = true →
      exec (.halyardEnable c cfg) s = .next (setHal s c { cfg := cfg &&& halMask, stall := halStall (coreNclk s c) (halOf s c)
                                                          forwarded := (halOf s c).forwarded, st := .running })) ∧
    (∀ d, forwardTo s c = some d → Completes (.relayForwardStart c) s fun t =>
      OnlyCore c s t ∧ (halOf t c).inFlight = true ∧ (halOf t c).since = none ∧ (getCore t c).spad = (getCore s c).spad) ∧
    (∀ d, nextMember c (halOf s c) = some d → d ≠ c → (halOf s c).inFlight = true → partOfCore s c = partOfCore s d →
      behind s c (halOf s c).fwdNo (some (sendLane c d (halClass (halOf s c)))) = false → halEnabled (halOf s d) = true → Completes (.relayForwardComplete c []) s fun t =>
        let i := ((halOf s c).nextFwd - 1) % 2
        let n := halSlotBytes (halOf s c)
        (halOf t c).inFlight = false ∧ (halOf t c).nextFwd = (halOf s c).nextFwd + 1 ∧
          (halOf t c).forwarded = satAdd (halOf s c).forwarded 1 ∧
          spadBytes (getCore t d).spad (halSlotAddr (getCore s d) i) n = spadBytes (getCore s c).spad (halSlotAddr (getCore s c) i) n ∧
          (∀ a, (a < halSlotAddr (getCore s d) i ∨ halSlotAddr (getCore s d) i + n ≤ a) →
            spadByte (getCore t d).spad a = spadByte (getCore s d).spad a) ∧ (getCore t c).spad = (getCore s c).spad ∧ t.hbm = s.hbm) ∧
    (∀ d, nextMember c (halOf s c) = some d → d ≠ c → (halOf s c).inFlight = true → partOfCore s c ≠ partOfCore s d →
      behind s c (halOf s c).fwdNo (some (sendLane c d (halClass (halOf s c)))) = false →
      behind s c (halOf s c).fwdNo (some (sendLane c d (halClass (halOf s c)))) = false →
      Completes (.relayForwardComplete c []) s fun t => (halOf t c).inFlight = false ∧ (halOf t c).nextFwd = (halOf s c).nextFwd ∧
        (getCore t d).mesh.xpartDrop = satAdd (getCore s d).mesh.xpartDrop 1 ∧ (∀ m, (getCore t m).spad = (getCore s m).spad) ∧ t.hbm = s.hbm) ∧
    (relayLate s c = true → Completes (.relayTimeout c) s fun t => (halOf t c).st = .broken ∧ (s.hif.jobs = [] → t.hbm = s.hbm)) ∧
    ((halOf s c).st = .running → ((chainOf s c).map fun d => (halOf s d).st).contains .broken = true →
      Completes (.relayBreakNotice c) s fun t => (halOf t c).st = .broken ∧ (s.hif.jobs = [] → t.hbm = s.hbm))

/-- MESSAGE_ARRIVAL and MESSAGE_RESEND (R45, R373 to R376): a message of the core's partition enters the mailbox, or goes straight to the context
that has waited longest; one of another partition is counted in XPART_DROP and nothing reaches the core; a full mailbox refuses it,
and its source sends it again. It rests on the model's choices of assumption 37. -/
def Obligations.Messages : Prop :=
  (∀ (s : State) (c : Nat) (m : Message), c < 256 → arrives s c m = true →
    (samePart s c m = true → (getCore s c).mesh.mailbox.length < 64 → (getCore s c).krecvOrder = [] →
      Completes (.messageArrival c m) s fun t => (getCore t c).mesh.mailbox = (getCore s c).mesh.mailbox ++ [mailOf m] ∧
        (getCore t c).spad = (getCore s c).spad ∧ t.hbm = s.hbm) ∧
    (∀ n rest rd a, samePart s c m = true → (getCore s c).mesh.mailbox = [] → (getCore s c).krecvOrder = n :: rest →
      (ctxAt s c n).wait = some (.krecv rd a) → (ctxAt s c n).haltPending = false → rd ≠ 0 → Completes (.messageArrival c m) s fun t =>
        (getCore t c).mesh.mailbox = [] ∧ (getCore t c).krecvOrder = rest ∧ (ctxAt t c n).st = .running ∧ readX (ctxAt t c n) rd = 0 ∧
          spadBytes (getCore t c).spad (winAddr (ctxAt s c n) a) 64 = mailOf m ∧
          (∀ b, (b < winAddr (ctxAt s c n) a ∨ winAddr (ctxAt s c n) a + 64 ≤ b) →
            spadByte (getCore t c).spad b = spadByte (getCore s c).spad b) ∧ t.hbm = s.hbm) ∧
    (samePart s c m = false → Completes (.messageArrival c m) s fun t =>
      (getCore t c).mesh.mailbox = (getCore s c).mesh.mailbox ∧ (getCore t c).spad = (getCore s c).spad ∧
        (getCore t c).acc = (getCore s c).acc ∧ (getCore t c).mesh.xpartDrop = satAdd (getCore s c).mesh.xpartDrop 1) ∧
    (samePart s c m = true → 64 ≤ (getCore s c).mesh.mailbox.length → Completes (.messageArrival c m) s fun t =>
      (getCore t c).mesh.mailbox = (getCore s c).mesh.mailbox ∧ (getCore t c).spad = (getCore s c).spad ∧
        (getCore t c).mesh.mboxNack = satAdd (getCore s c).mesh.mboxNack 1)) ∧
  (∀ (s : State) (src id : Nat) (e : SendEx), sendWith s src id = some e → e.kind = 0 → resendDue s src e = true →
    sendStopped s src e = false → e.cls ≠ 0 →
    let qs := routeQueues s (sourceNode (if src < 256 then src else e.ctx)) (.core e.dst)
    pathOpen s qs 2 = true → exec (.messageResend src id) s =
      .next (if src < 256 then sendMessage (crossQueues s qs 2) src e else hubSend (crossQueues s qs 2) id))

/-- Credits (R381, R382, R386): a request that the destination can answer takes its slot at once, one that it cannot is held, and one that finds 32
held is refused and counted; the answer moves the execution on, and an execution without an answer within CREDIT_WAIT gives its
descriptor SLOT_TIMEOUT. It rests on the model's choices of assumption 37. -/
def Obligations.Credits : Prop :=
  ∀ (s : State) (src id : Nat) (e : SendEx), src < 256 → sendWith s src id = some e → e.kind = 1 → e.cls ≠ 0 →
    let k := getCore s e.dst
    let ans := creditAnswer k src e.target e.slotSeq (creditLen s src e)
    let goes := requestNext s src e = true ∧ sendStopped s src e = false ∧ partOfCore s src = partOfCore s e.dst
    (e.st = .ready → earlierAsked s src e = true → goes → k.mesh.held.length < 32 → ans = .grant →
      Completes (.creditRequest src id) s fun t => slotOf_ (getCore t e.dst) e.target e.slotSeq = .granted e.slotSeq s.aon ∧
        (∃ e', sendWith t src id = some e' ∧ e'.st = .answered 0) ∧ (getCore t e.dst).spad = k.spad ∧ t.hbm = s.hbm) ∧
    (e.st = .ready → earlierAsked s src e = true → goes → k.mesh.held.length < 32 → ans = .hold → Completes (.creditRequest src id) s fun t =>
        (∃ h, (getCore t e.dst).mesh.held = k.mesh.held ++ [h] ∧ h.src = src ∧ h.idx = id ∧ h.target = e.target ∧ h.slotSeq = e.slotSeq) ∧
          (∃ e', sendWith t src id = some e' ∧ e'.st = .sent) ∧ (getCore t e.dst).mesh.rings = k.mesh.rings) ∧
    (resendDue s src e = true → goes → 32 ≤ k.mesh.held.length → Completes (.creditRequestResend src id) s fun t =>
        (getCore t e.dst).mesh.held = k.mesh.held ∧ (getCore t e.dst).mesh.creditNack = satAdd k.mesh.creditNack 1 ∧
          ∃ e', sendWith t src id = some e' ∧ e'.st = .refused) ∧
    (resendDue s src e = true → goes → k.mesh.held.length < 32 → ans = .grant →
      Completes (.creditRequestResend src id) s fun t => slotOf_ (getCore t e.dst) e.target e.slotSeq = .granted e.slotSeq s.aon ∧
        ∃ e', sendWith t src id = some e' ∧ e'.st = .answered 0) ∧
    (answerBehind s src e = false → pathOpen s (answerQueues s src e) 1 = true → e.st = .answered 0 → Completes (.creditAnswer src id) s fun t =>
      OnlyCore src (crossQueues s (answerQueues s src e) 1) t ∧
      (∃ e', sendWith t src id = some e' ∧ e'.st = .granted) ∧ (getCore t src).spad = (getCore s src).spad) ∧
    (answerBehind s src e = false → pathOpen s (answerQueues s src e) 1 = true → e.st = .answered 1 → Completes (.creditAnswer src id) s fun t =>
      OnlyCore src (crossQueues s (answerQueues s src e) 1) t ∧
      (∃ e', sendWith t src id = some e' ∧ e'.st = .done) ∧ (getCore t src).spad = (getCore s src).spad) ∧
    ((e.st = .sent ∨ e.st = .refused ∨ e.st = .dropped) → e.asked + creditTime (getCore s src) < s.aon → ∀ r,
      findRun (getCore s src) e.ctx e.seq = some r → r.status = 0 → Completes (.creditWaitTimeout src id) s fun t =>
        (∃ r', findRun (getCore t src) e.ctx e.seq = some r' ∧ r'.status = 0x31) ∧
          (∃ e', sendWith t src id = some e' ∧ e'.st = .done) ∧ (getCore t src).spad = (getCore s src).spad ∧ t.hbm = s.hbm)

/-- Slots (R383 to R388, R402): a granted slot is filled once every byte of its execution is visible; a grant whose data never comes expires; a
head that waits too long for a slot completes with SLOT_TIMEOUT and its context does not fault; a release, of a ring or of the relay, frees the
oldest slot and moves HEAD; a ring with nothing under way closes. It rests on the model's choices of assumption 38. -/
def Obligations.Slots : Prop :=
  ∀ (s : State) (c : Nat), c < 256 →
    (∀ target q t0 w, target < 32 → slotOf_ (getCore s c) target q = .granted q t0 → filledBy s c target q = some w →
      Completes (.slotFill c target q []) s fun t => slotOf_ (getCore t c) target q = .filled q ∧ (getCore t c).spad = (getCore s c).spad ∧
        t.hbm = s.hbm) ∧
    (∀ target q t0, target < 32 → slotOf_ (getCore s c) target q = .granted q t0 → t0 + respTime (getCore s c) < s.aon →
      (getCore s c).mesh.held = [] → Completes (.slotGrantExpiry c target q) s fun t => slotOf_ (getCore t c) target q = .empty ∧
        (getCore t c).spad = (getCore s c).spad ∧ t.hbm = s.hbm) ∧
    (∀ n q rest t0, n < 8 → (ctxAt s c n).queue = q :: rest → q.passed = false → q.slotSince = some t0 →
      slotsReady (getCore s c) (qCtx (getCore s c) n q) (descOf q.desc) = false → t0 + max 1 (getCore s c).mesh.slotWait.toNat * usAon < s.aon → (ctxAt s c n).st ≠ .faulted → Completes (.slotTimeout c n) s fun t =>
        (ctxAt t c n).queue.map (·.seq) = rest.map (·.seq) ∧ (ctxAt t c n).st ≠ .faulted ∧
          spadBytes (getCore t c).spad (q.base + (descOf q.desc).tokenAddr) 64 =
            recordBytes { status := 0x31, op := (descOf q.desc).op, seq := q.seq, waitSclk := headWait (coreSclk s c) q } ∧ t.hbm = s.hbm) ∧
    (∀ ring p rest, ring < 16 → (getRing (getCore s c) ring).pendingRel = p :: rest → (getCore s c).mesh.held = [] →
      let g := getRing (getCore s c) ring
      let lo := g.base + slotOfSeq g.slots g.head * g.size
      (queuedReader (getCore s c) p.1 p.2 lo g.size || runsOverlap (getCore s c) lo g.size) = false →
      Completes (.ringReleaseApply c ring) s fun t => getRing (getCore t c) ring = { g with
          pendingRel := rest, head := (g.head + 1) % 2 ^ 32, st := Tab.set g.st (slotOfSeq g.slots g.head) .empty } ∧
        (∀ r, r ≠ ring → getRing (getCore t c) r = getRing (getCore s c) r) ∧ (∀ m, (getCore t m).spad = (getCore s m).spad) ∧ t.hbm = s.hbm) ∧
    (∀ p rest, (halOf s c).pendingRel = p :: rest → (getCore s c).mesh.held = [] →
      let i := ((halOf s c).head - 1) % 2
      let lo := halSlotAddr (getCore s c) i
      (queuedReader (getCore s c) p.1 p.2 lo (halSlotBytes (halOf s c)) || runsOverlap (getCore s c) lo (halSlotBytes (halOf s c))) = false →
      Completes (.ringReleaseApply c 16) s fun t => (halOf t c).head = (halOf s c).head + 1 ∧ (halOf t c).pendingRel = rest ∧
        relaySlot (halOf t c) i = { relaySlot (halOf s c) i with released := true } ∧ (∀ m, (getCore t m).spad = (getCore s m).spad) ∧
        t.hbm = s.hbm) ∧
    (∀ ring, ring < 16 → ringMayClose (getCore s c) (getRing (getCore s c) ring) = true →
      exec (.ringCloseComplete c ring) s = .next (setCore s c (putRing (getCore s c) ring { getRing (getCore s c) ring with
        opened := false, closing := false, st := [], pendingRel := [] })))

/-- Fold channels (R278 to R284, R289): a write of the configuration arms a free channel or is refused; a waiting channel takes its group when it
is free; each fragment's adds go to the buffer, and when the last has retired its slot
empties, and the last fragment opens the group; a channel whose fragment does not come in
SLOT_WAIT times out and frees its group. It rests on the model's choices of assumption 157. -/
def Obligations.FoldChannels : Prop :=
  ∀ (s : State) (c ch : Nat), c < 256 → ch < 16 →
    let k := getCore s c
    let f := getFold k ch
    let i := (f.next - foldFirst f) % foldSlots f
    let g := getGroup k true (foldGroup f)
    (∀ cfg : W64, foldAccepts f = false → cfg.getLsbD 0 = true → foldRefused k ch { f with cfg := cfg &&& foldMask } = false →
      Completes (.foldArm c ch cfg) s fun t => (getFold (getCore t c) ch).cfg = cfg &&& foldMask ∧
        ((getFold (getCore t c) ch).st = .armed ∨ (getFold (getCore t c) ch).st = .waiting) ∧
        (getFold (getCore t c) ch).next = foldFirst { f with cfg := cfg &&& foldMask } ∧ (getCore t c).spad = k.spad) ∧
    (∀ cfg : W64, foldAccepts f = false → cfg.getLsbD 0 = true → foldRefused k ch { f with cfg := cfg &&& foldMask } = true →
      exec (.foldArm c ch cfg) s = .next (setCore s c (putFold k ch { f with cfg := cfg &&& foldMask, st := .refused }))) ∧
    (f.st = .waiting → oldestWaiting k (foldGroup f) = some ch → foldMayTake k f = true →
      Completes (.foldTakeGroup c ch) s fun t => OnlyCore c s t ∧ (getFold (getCore t c) ch).st = .armed ∧
        (getGroup (getCore t c) true (foldGroup f)).st = .folding ∧ (getGroup (getCore t c) true (foldGroup f)).owner = foldCtx f) ∧
    (f.st = .armed → f.busy = false → g.st = .folding → slotState f.slots i = .filled f.next → k.acc.conflict = [] → k.acc.waiting = [] →
      k.acc.foldWaiting = [] → (∀ p ∈ k.acc.folds, p.2.busy = false) → Completes (.foldFragment c ch []) s fun t =>
        let u := getCore t c
        OnlyCore c s t ∧ (getFold u ch).busy = true ∧ (getFold u ch).next = f.next ∧ (getFold u ch).st = .armed ∧
          (u.acc.conflict.flatMap (·.2) ++ u.acc.foldWaiting.flatten).Perm (foldAdds k f) ∧ getGroup u true (foldGroup f) =
            { g with received := true, buffered := true } ∧ u.spad = k.spad) ∧
    (∀ bank a rest, bank < 16 → f.st = .armed → f.busy = true → (k.acc.folds.filter fun p => p.2.busy) = [(ch, f)] → k.mesh.held = [] →
      conflictQ k bank = a :: rest → a.group = foldGroup f → addsPending (retireAdd k bank none none) (foldGroup f) = false →
      Completes (.abufAddRetire c bank none none) s fun t =>
        (getFold (getCore t c) ch).next = f.next + 1 ∧ (getFold (getCore t c) ch).busy = false ∧
          (getFold (getCore t c) ch).st = (if f.next = foldLast f then .complete else .armed) ∧
          slotState (getFold (getCore t c) ch).slots i = .empty ∧
          (getGroup (getCore t c) true (foldGroup f)).st = (if f.next = foldLast f then .opened else .folding) ∧
          Tab.get 0 (getGroup (getCore t c) true (foldGroup f)).acc a.entry = (accAdd g.ty (Tab.get 0 g.acc a.entry) a.value).1 ∧
          (getCore t c).spad = k.spad ∧ t.hbm = s.hbm) ∧
    (foldAccepts f = true → slotState f.slots i ≠ .filled f.next → f.since + slotTime k < s.aon → Completes (.foldTimeout c ch) s fun t =>
      (getFold (getCore t c) ch).st = .timeout ∧ (f.st = .armed → getGroup (getCore t c) true (foldGroup f) = {}) ∧ t.hbm = s.hbm)

/-- ARBITER_DECISION, QUOTA_WINDOW and ARB_COMMIT (R393 to R395): with no packet under way and quota left, a requester of the highest effective
age takes the point; a new window takes the C0 grants back to zero; a COMMIT of the PF puts the shadow values in force, and one of another
function does nothing. QUEUE_RESET and PACER_TOKEN (R401, R517): the reset of a queue empties it and leaves it in reset, adds what it lost to the counters of its die and
names the queue, and a message that was on its way through it is dropped; once 2,048 NCLK
cycles have passed since the last token, a token makes the source's next C0 request free to go; before that nothing comes.
It rests on the model's choices of assumptions 133, 134, 135. -/
def Obligations.ArbitersAndQueues : Prop :=
  (∀ (s : State) (set point now : Nat), set < 5 → point < pointCount set →
     (∀ reqs : List ArbReq, reqs ≠ [] → (getArbSet s set).commits = (getPoint s set point).taken → (getPoint s set point).owner = none →
       (∀ r ∈ reqs, r.cls = 0 → (getPoint s set point).c0Grants < (getPoint s set point).par.quota.toNat) →
       ∃ w ∈ reqs, exec (.arbiterDecision set point now reqs) s = .next (setPoint s set point { getPoint s set point with
           owner := some (w.cls, w.input, w.resp), beats := w.beats
           c0Grants := if w.cls = 0 then (getPoint s set point).c0Grants + 1 else (getPoint s set point).c0Grants }) ∧
         ∀ r ∈ reqs, effAge (getPoint s set point).par now r ≤ effAge (getPoint s set point).par now w) ∧
     ((getPoint s set point).window + arbWindow (getPoint s set point).par ≤ now → ∃ w, now < w + arbWindow (getPoint s set point).par ∧ w ≤ now ∧
       exec (.quotaWindow set point now) s = .next (setPoint s set point { getPoint s set point with c0Grants := 0, window := w })) ∧
     ((logQueue s 0).length < 64 → Completes (.arbCommit 0 set) s fun t =>
       (getArbSet t set).live = (getArbSet s set).shadow ∧ (getArbSet t set).shadow = (getArbSet s set).shadow ∧
         (getArbSet t set).commits = (getArbSet s set).commits + 1 ∧ (∀ m, m ≠ set → getArbSet t m = getArbSet s m) ∧
         t.hbm = s.hbm ∧ t.cores = s.cores ∧ t.fab = s.fab) ∧
     (∀ fn, fn ≠ 0 → fn ≤ 16 → exec (.arbCommit fn set) s = .next s)) ∧
  (∀ s : State,
     (∀ q occW occR, q < 65536 → queueDie q = some none → Completes (.queueReset q occW occR) s fun t =>
       t.hub.cdcLost = satAdd s.hub.cdcLost (max occW occR) ∧ t.hub.cdcResets = satAdd s.hub.cdcResets 1 ∧
         t.hub.cdcLast = BitVec.ofNat 8 (q / 256) ∧ getCdc t q = { clearing := true } ∧ (flightsOf s q = [] → t.cores = s.cores ∧ t.hbm = s.hbm ∧ t.fab = s.fab)) ∧
     (∀ q d occW occR, q < 65536 → queueDie q = some (some d) → Completes (.queueReset q occW occR) s fun t =>
       (Tab.get (0#16, 0#8, 0#8) t.hub.mshCdc d).1 = satAdd (Tab.get (0#16, 0#8, 0#8) s.hub.mshCdc d).1 (max occW occR) ∧
         t.hub.cdcLost = s.hub.cdcLost ∧ getCdc t q = { clearing := true } ∧ (flightsOf s q = [] → t.cores = s.cores ∧ t.hbm = s.hbm ∧ t.fab = s.fab) ∧
         ∀ x, flightsOf s q = [x] → x.burst = none → x.core < 256 → 0 < max occW occR →
           ∀ e, sendWith t x.core x.send = some e → e.st = .dropped) ∧
     (∀ c, c < 256 → (getCore s c).mesh.c0Last + 2048 ≤ coreNclk s c → ∃ g, g ≤ coreNclk s c ∧ coreNclk s c < g + 2048 ∧
       (getCore s c).mesh.c0Last + 2048 ≤ g ∧
       exec (.pacerToken c) s = .next (setCore s c { getCore s c with mesh := { (getCore s c).mesh with c0Token := true, c0Last := g } })) ∧
     (∀ c, c < 256 → coreNclk s c < (getCore s c).mesh.c0Last + 2048 → exec (.pacerToken c) s = .next s) ∧
     (∀ i, i < 3 → nclk s (i - 1) < Tab.get 0 s.hub.pacerLast i + 2048 → exec (.pacerToken (256 + i)) s = .next s) ∧
     (∀ i, i < 3 → Tab.get 0 s.hub.pacerLast i + 2048 ≤ nclk s (i - 1) →
       (if i = 0 then ∀ e ∈ s.hub.sends, ¬ (e.ctx = 0x1FE ∧ e.st = .ready) else s.hbm.waiting = []) →
       ∃ g, g ≤ nclk s (i - 1) ∧ nclk s (i - 1) < g + 2048 ∧ Tab.get 0 s.hub.pacerLast i + 2048 ≤ g ∧ exec (.pacerToken (256 + i)) s =
         .next { s with hub := { s.hub with pacer := Tab.set s.hub.pacer i true, pacerLast := Tab.set s.hub.pacerLast i g } }))

/-- HBM_ACCESS (R408, R411, R412): a write puts its bytes at their addresses and changes no other byte; a read changes no byte; a request
waits while a channel of its range does; a corrected word that a read meets is counted for its stack; an address beyond the HBM does not exist. Refresh, retraining, band modes and scrubbing (R405, R407, R409, R415, R420): a scrubbed region is FREE and every byte of it reads zero,
while every other byte reads as before. It rests on the model's choices of assumptions 5, 146, 156. -/
def Obligations.HbmCommands : Prop :=
  (∀ (s : State) (a : Nat),
     (∀ d : List Byte, a + d.length ≤ 0xC000000000 → rangeWaits s a d.length = false → rangeFailed s a d.length = false → Completes (.hbmAccess a (some d) 0 []) s fun t =>
       hbmRead t a d.length = d ∧ (∀ b, (b < a ∨ a + d.length ≤ b) → hbmByte t b = hbmByte s b) ∧
         t = { s with hbm := { s.hbm with bytes := t.hbm.bytes } }) ∧
     (∀ data n ecc, a + (match data with | some d => d.length | none => n) ≤ 0xC000000000 →
       rangeWaits s a (match data with | some d => d.length | none => n) = false →
       rangeFailed s a (match data with | some d => d.length | none => n) = true → exec (.hbmAccess a data n ecc) s = .next s) ∧
     (∀ n, a + n ≤ 0xC000000000 → rangeWaits s a n = false → exec (.hbmAccess a none n []) s = .next s) ∧
     (∀ data n ecc, a + (match data with | some d => d.length | none => n) ≤ 0xC000000000 →
       rangeWaits s a (match data with | some d => d.length | none => n) = true → exec (.hbmAccess a data n ecc) s =
         .next { s with hbm := { s.hbm with waiting := s.hbm.waiting ++ [.access a data n ecc] } }) ∧
     (∀ n w, a + n ≤ 0xC000000000 → rangeWaits s a n = false → rangeFailed s a n = false → w / 8 * 8 < a + n → a < w / 8 * 8 + 8 →
       Completes (.hbmAccess a none n [(w, .corrected)]) s fun t => t.hbm.bytes = s.hbm.bytes ∧
         (getEcc t (hbmMap s w).1).ce = satAdd (getEcc s (hbmMap s w).1).ce 1 ∧ (getEcc t (hbmMap s w).1).ue = (getEcc s (hbmMap s w).1).ue ∧
         t.cores = s.cores) ∧
     (∀ data n, 0xC000000000 < a + (match data with | some d => d.length | none => n) → ∀ ecc,
       exec (.hbmAccess a data n ecc) s = .fault (.noSuchAddress a))) ∧
  (∀ s : State,
     (∀ st ch bank n, st < 8 → ch < 32 → (getChan s (st * 32 + ch)).retraining = false → (getChan s (st * 32 + ch)).failed = false →
       (getStack s st).selfRefresh = false → c0AtBank s (st * 32 + ch) bank = false → exec (.hbmRefresh st ch bank n) s = .next (setEcc (setChan s (st * 32 + ch)
         { getChan s (st * 32 + ch) with refreshes := (getChan s (st * 32 + ch)).refreshes + 1, lastBank := bank }) st
           { getEcc s st with odecc := satAdd (getEcc s st).odecc n })) ∧
     (∀ st ch, st < 8 → ch < 32 → (getChan s (st * 32 + ch)).failed = false → (getStack s st).trained = true → stackRetrains s st = false →
       (getChan s (st * 32 + ch)).last + trainInterval s * 50000 ≤ s.aon → exec (.hbmRetrain st ch) s = .next (setChan (trace s 1 22) (st * 32 + ch)
         { getChan s (st * 32 + ch) with retraining := true, since := s.aon, last := s.aon })) ∧
     (∀ st ch, st < 8 → ch < 32 → (getChan s (st * 32 + ch)).retraining = true → s.hbm.waiting = [] → s.hif.jobs = [] → s.hif.flrs = [] →
       Completes (.hbmRetrainEnd st ch) s fun t =>
       getChan t (st * 32 + ch) = { getChan s (st * 32 + ch) with retraining := false } ∧ t.hbm.retrains = satAdd s.hbm.retrains 1 ∧
         s.hbm.pauseMax.toNat ≤ t.hbm.pauseMax.toNat ∧ t.hbm.bytes = s.hbm.bytes ∧ t.cores = s.cores) ∧
     (∀ band mode, band < 96 → (∀ k, k < 8 → (getRegion s (8 * band + k)).st ≠ .assigned ∧ (getRegion s (8 * band + k)).st ≠ .scrubbing) →
       Completes (.bandmapWrite band mode) s fun t => t.hbm.bandmap.getLsbD band = mode ∧
         (∀ b, b ≠ band → t.hbm.bandmap.getLsbD b = s.hbm.bandmap.getLsbD b) ∧
           (∀ a, a / 2 ^ 33 ≠ band → hbmByte t a = hbmByte s a) ∧ (bandMode s band = mode → t.hbm.bytes = s.hbm.bytes) ∧ t.cores = s.cores) ∧
     (∀ band mode k, band < 96 → k < 8 → ((getRegion s (8 * band + k)).st = .assigned ∨ (getRegion s (8 * band + k)).st = .scrubbing) →
       exec (.bandmapWrite band mode) s = .next { s with hbm := { s.hbm with bandmapBusy := satAdd s.hbm.bandmapBusy 1 } }) ∧
     (∀ r, r < 768 → 5 ≤ s.fwc.stage → (getRegion s r).st = .quarantined →
       exec (.scrubStart r) s = .next (setRegion (trace s 0 12) r { getRegion s r with st := .scrubbing, since := s.aon })) ∧
     (∀ r, r < 768 → (getRegion s r).st = .scrubbing →
       ((regionStacks s r).any fun k => stackWaits s k || stackRetrains s k) = false → Completes (.scrubComplete r) s fun t => (getRegion t r).st = .free ∧
       (∀ a, r * 2 ^ 30 ≤ a → a < (r + 1) * 2 ^ 30 → hbmByte t a = 0) ∧
       (∀ a, (a < r * 2 ^ 30 ∨ (r + 1) * 2 ^ 30 ≤ a) → hbmByte t a = hbmByte s a) ∧ (∀ q, q ≠ r → getRegion t q = getRegion s q) ∧
       t.cores = s.cores))

/-- FRAME_SEND, LCTL_SEND, LCTL, RETUNE_END and FRAMES_LOST (R426, R428, R432, R433, R466): a frame starts where the port's egress arbiter takes
its class, when the port is open, credits and retry buffer allow it and neither a hold nor the egress queue stops it; a new one takes the next
LSEQ and is kept until it is acknowledged, and one that is sent again goes before every new one; an LCTL frame drops the acknowledged ones and its
NAK has the others sent again; a port that has been DOWN for 50 ms counts and discards what it keeps. A WRITE or READ that fails the link check changes nothing but its port's receive side (R425, R431): a failed CRC or tag, or a codeword that
the FEC cannot correct, asks for the frame again, and such codewords are counted; a stomped frame is counted and not asked for; no memory
changes. It rests on the model's choices of assumptions 35, 45, 142. -/
def Obligations.LinkReceive : Prop :=
  (∀ (s : State) (p : Nat), p < 16 →
     let x := getPort s p
     let d := decideAt s 4 p s.xclk (egressReqs s p)
     (∀ cls f rest, cls < 4 → x.resend = [] → Tab.get [] x.queues cls = f :: rest → f.cls = cls → portOpen x = true → x.retuning = false →
       (cls = 0 ∨ ringHeld s p = false) → d.owner = some (cls, 0, false) →
       let g : Frame := { stampEpoch s f with lseq := x.txSeq }
       frameCredits g ≤ creditsLeft x cls → keptBytes x + frameLen g ≤ 0x40000 → pathOpen s [queueNo 5 0 p] (frameLen g / 32) = true →
       Completes (.frameSend p cls) s fun t => getPort t p = { x with
         queues := Tab.set x.queues cls rest, stamps := Tab.set x.stamps cls ((Tab.get [] x.stamps cls).drop 1), kept := x.kept ++ [g]
         txSeq := x.txSeq + 1, line := frameBytes (sealKey s x x.txSeq) g x.txSeq
         spent := listSet x.spent cls (x.spent.getD cls 0 + frameCredits g) } ∧
           (∀ q, q ≠ p → getPort t q = getPort s q) ∧ FabricOnly s t) ∧
     (∀ g rest, g.cls < 4 → x.resend = g :: rest → portOpen x = true → x.retuning = false → frameCredits g ≤ creditsLeft x g.cls →
       d.owner = some (g.cls, 0, false) → pathOpen s [queueNo 5 0 p] (frameLen g / 32) = true →
       Completes (.frameSend p g.cls) s fun t => getPort t p = { x with
         resend := rest, line := frameBytes (sealKey s x g.lseq) g g.lseq
         spent := listSet x.spent g.cls (x.spent.getD g.cls 0 + frameCredits g) } ∧ (∀ q, q ≠ p → getPort t q = getPort s q) ∧ FabricOnly s t) ∧
     (∀ cls, cls < 4 → ((1 ≤ cls ∧ x.resend = [] ∧ ringHeld s p = true) ∨ (getCdc s (queueNo 5 0 p)).press = true) →
       exec (.frameSend p cls) s = .next s) ∧
     ((portOpen x = true ∨ x.st = .keying) → exec (.lctlSend p) s = .next (setPort s p { x with
       lctlSeq := x.lctlSeq + 1, lastLctl := s.aon, nakDue := false, askLane := none, sayLaneSwitch := none
       txSwapAt := if x.sayLaneSwitch.isSome then x.sayLaneSwitch else x.txSwapAt
       sayKeySwitch := if x.sayLaneSwitch.isSome then x.sayKeySwitch else none, keyBytes := x.keyBytes.drop 8, lctlLine := lctlFrame s x })) ∧
     (∀ b : Lctl, portOpen x = true → b.nak = false → b.lane = 0xF → b.switchKind = 0 → Completes (.lctl p b true) s fun t =>
       (getPort t p).kept = x.kept.filter (fun f => decide (b.ack ≤ f.lseq)) ∧
         (∀ i, i < 4 → (getPort t p).granted.getD i 0 = cumul (x.granted.getD i 0) (b.cred.getD i 0)) ∧ (getPort t p).st = x.st ∧
         (getPort t p).keyIn = x.keyIn ++ b.keyBytes.take 8 ∧ (∀ q, q ≠ p → getPort t q = getPort s q) ∧ FabricOnly s t) ∧
     (∀ b : Lctl, portOpen x = true → b.nak = true → Completes (.lctl p b true) s fun t =>
       (getPort t p).retries = satAdd x.retries (x.kept.filter (fun f => decide (b.ack ≤ f.lseq))).length ∧
         (getPort t p).resend = x.kept.filter (fun f => decide (b.ack ≤ f.lseq)) ∧ FabricOnly s t) ∧
     (x.retuning = true → Completes (.retuneEnd p true) s fun t =>
       (getPort t p).retuning = false ∧ (getPort t p).st = x.st ∧ (getPort t p).kept = x.kept ∧ FabricOnly s t) ∧
     (x.st = .down → x.since + 50 * msAon ≤ s.aon → exec (.framesLost p) s = .next (setPort s p { x with
       framesLost := satAdd x.framesLost x.kept.length, kept := [], resend := [] }))) ∧
  (∀ (s : State) (rx : Rx), rx.port < 16 → portOpen (getPort s rx.port) = true → rx.frame.fits = true → RxRoom rx s →
     rx.frame.flags.mcast = false → rx.frame.dstModule = ownModule s →
     (rx.crcOk = false → rx.frame.type.toNat = 1 → Completes (.write rx) s fun t =>
       (getPort t rx.port).nakDue = true ∧ (getPort t rx.port).rxSeq = (getPort s rx.port).rxSeq ∧ FabricOnly s t) ∧
     (rx.fec ≠ 0 → rx.frame.type.toNat = 1 → Completes (.write rx) s fun t =>
       (getPort t rx.port).nakDue = true ∧ (getPort t rx.port).rxSeq = (getPort s rx.port).rxSeq ∧
         (getPort t rx.port).fecUe = satAdd (getPort s rx.port).fecUe rx.fec ∧ FabricOnly s t) ∧
     (rx.crcOk = true → rx.tagOk = true → rx.fec = 0 → rx.frame.lseq = (getPort s rx.port).rxSeq → rx.stomp = true → rx.frame.type.toNat = 1 →
       Completes (.write rx) s fun t => (getPort t rx.port).stomped = satAdd (getPort s rx.port).stomped 1 ∧
         (getPort t rx.port).rxSeq = (getPort s rx.port).rxSeq + 1 ∧ (getPort t rx.port).nakDue = (getPort s rx.port).nakDue ∧ FabricOnly s t) ∧
     (rx.tagOk = false → rx.frame.type.toNat = 3 → Completes (.read rx) s fun t => (getPort t rx.port).nakDue = true ∧ FabricOnly s t))

/-- WRITE, READ and FRAME_FORWARD (R436 to R443): a WRITE inside the partition's regions from one of its peers stores its payload and is
acknowledged; a READ changes no memory and is answered with the bytes, once the channels of its range serve requests and, at class C0, its packets have their tokens; a frame from a module that is no peer moves nothing and is answered
NRESP cause 2; a frame for another module goes to its route's port with one hop less, and ends with STOMP there when it is longer than CUT entries
and fails its link check (R435). WACK, RDATA and NRESP (R429, R436, R442): an answer reaches the burst that asked, with status 0, with the data read, or with the status of
its cause, and its transaction ends; an answer that nothing waits for counts in DUP_RESP.
It rests on the model's choices of assumptions 14, 33. -/
def Obligations.RemoteFrames : Prop :=
  (∀ (s : State) (rx : Rx),
     let f := rx.frame
     (∀ p, Delivered 1 rx s → f.flags.td = false → frameRefused (linkTaken rx s) f f.addr f.payload.length = none →
       findTransfer s f = none → Served s f f.addr f.payload.length → rx.ecc = [] → RingRoute s f.srcModule p → Completes (.write rx) s fun t =>
         hbmRead t f.addr f.payload.length = f.payload ∧
           (∀ b, (b < f.addr ∨ f.addr + f.payload.length ≤ b) → hbmByte t b = hbmByte s b) ∧ t.host = s.host ∧ t.cores = s.cores ∧
           Queued p f.cls (linkTaken rx s) t fun g => g.type.toNat = 2 ∧ g.xtag = f.xtag ∧ g.dstModule = f.srcModule) ∧
     (∀ p, Delivered 3 rx s → frameRefused (linkTaken rx s) f f.addr (f.readLen + 1) = none → Served s f f.addr (f.readLen + 1) → rx.ecc = [] →
       RingRoute s f.srcModule p →
       Completes (.read rx) s fun t => t.hbm = s.hbm ∧ t.host = s.host ∧ t.cores = s.cores ∧
         Queued p f.cls (linkTaken rx s) t fun g => g.type.toNat = 4 ∧ g.xtag = f.xtag ∧ g.payload = hbmRead s f.addr (f.readLen + 1)) ∧
     (Delivered 3 rx s → frameRefused (linkTaken rx s) f f.addr (f.readLen + 1) = none → rangeWaits s f.addr (f.readLen + 1) = true →
       f.cls ≠ 0 → exec (.read rx) s = .next { linkTaken rx s with hbm := { s.hbm with waiting := s.hbm.waiting ++ [.frame f none rx.ecc 0] } }) ∧
     (Delivered 3 rx s → frameRefused (linkTaken rx s) f f.addr (f.readLen + 1) = none → f.cls = 0 →
       Tab.get true s.hub.pacer (rxPath s [(f.addr, f.readLen + 1)]) = false → Completes (.read rx) s fun t =>
         t.hbm = { s.hbm with waiting := s.hbm.waiting ++ [.frame f none rx.ecc 0] } ∧ t.host = s.host ∧ t.cores = s.cores) ∧
     (∀ p, Delivered 1 rx s → f.epoch = 0 → (getPart s f.dstPart).peers.contains (f.srcModule, f.srcPart) = false →
       RingRoute s f.srcModule p → Completes (.write rx) s fun t =>
         t.hbm = s.hbm ∧ t.host = s.host ∧ t.cores = s.cores ∧ t.fab.xpartDrop = satAdd s.fab.xpartDrop 1 ∧
           Queued p f.cls (linkTaken rx s) t fun g => g.type.toNat = 5 ∧ g.payload = [2#8] ∧ g.xtag = f.xtag) ∧
     (∀ q, Accepted rx s → f.flags.mcast = false → f.dstModule ≠ ownModule s → 1 ≤ f.type.toNat → f.type.toNat ≤ 9 → f.hops ≠ 0 →
       RingRoute s f.dstModule q → q ≠ rx.port → Completes (.frameForward rx) s fun t =>
         FabricOnly s t ∧ Queued q f.cls (linkTaken rx s) t fun g => g = { f with hops := f.hops - 1, stomp := false }) ∧
     (∀ q, rx.port < 16 → portOpen (getPort s rx.port) = true → f.fits = true → RxRoom rx s → rx.crcOk = false → 256 < frameLen f → f.flags.mcast = false →
       f.dstModule ≠ ownModule s → 1 ≤ f.type.toNat → f.type.toNat ≤ 9 → f.hops ≠ 0 → RingRoute s f.dstModule q → q ≠ rx.port →
       Completes (.frameForward rx) s fun t => (getPort t rx.port).nakDue = true ∧ FabricOnly s t ∧
         Queued q f.cls s t fun g => g = { f with hops := f.hops - 1, stomp := true })) ∧
  (∀ (s : State) (rx : Rx) (x : Txn) (rest : List Txn) (c n q i : Nat),
     let f := rx.frame
     (Delivered 2 rx s → f.epoch = 0 → takeTxn f.xtag f.srcModule s.fab.txns = some (x, rest) → x.client = .burst c n q i →
       Completes (.wack rx) s fun t => t.fab.txns = rest ∧ getCore t c = answerBurst (getCore s c) n q i 0 none ∧ t.hbm = s.hbm ∧
         ∀ d, d ≠ c → getCore t d = getCore s d) ∧
     (Delivered 4 rx s → f.epoch = 0 → takeTxn f.xtag f.srcModule s.fab.txns = some (x, rest) → x.client = .burst c n q i →
       Completes (.rdata rx) s fun t => t.fab.txns = rest ∧ getCore t c = answerBurst (getCore s c) n q i 0 (some f.payload) ∧
         t.hbm = s.hbm ∧ ∀ d, d ≠ c → getCore t d = getCore s d) ∧
     (Delivered 5 rx s → f.epoch = 0 → f.payload = [2#8] → s.fab.txns = x :: rest → x.xtag = f.xtag → x.module = f.srcModule →
       x.client = .burst c n q i → Completes (.nresp rx) s fun t => t.fab.txns = rest ∧
         getCore t c = answerBurst (getCore s c) n q i 0x22 none ∧ t.hbm = s.hbm ∧ ∀ d, d ≠ c → getCore t d = getCore s d) ∧
     (Delivered 2 rx s → f.epoch = 0 → takeTxn f.xtag f.srcModule s.fab.txns = none → Completes (.wack rx) s fun t =>
       t.fab.dupResp = satAdd s.fab.dupResp 1 ∧ FabricOnly s t))

/-- Keying (R423, R573, R574): a trained port with four lanes or more enters KEYING with its division in force; HELLO from the module's own id
leaves the port DOWN; ENCAP is answered by a signature; SIGN brings the port UP, or DEGRADED, when it verifies, and fails the handshake when it
does not; a message arrives as the keying bytes of LCTL frames, and one whose CRC-32C fails ends the handshake; a failed handshake starts again after
a second; the module is not in RECOVERY. It rests on the model's choices of assumption 35. -/
def Obligations.PortKeying : Prop :=
  ∀ (s : State) (p : Nat), p < 16 → s.fwc.st ≠ 0 →
    let x := getPort s p
    let arrived (m : KeyMsg) := (∃ rest, frontMsg x.keyIn = some (m, rest)) ∧ LogRoom s ∧ x.st = .keying ∧ x.keying.failed = none
    (x.st = .training → x.light = true → x.epoch = x.expected → 4 ≤ (workingLanes x).length → Completes (.portTrained p) s fun t =>
      (getPort t p).st = .keying ∧ (getPort t p).division = cfgCredits x.cfg ∧ (getPort t p).txSeq = 0 ∧ (getPort t p).rxSeq = 0 ∧
        (∀ q, q ≠ p → getPort t q = getPort s q) ∧ t.hbm = s.hbm ∧ t.cores = s.cores) ∧
    (x.st = .training → x.light = true → x.epoch = x.expected → (workingLanes x).length < 4 → Completes (.portTrained p) s fun t =>
      (getPort t p).st = .down ∧ t.hbm = s.hbm ∧ t.cores = s.cores) ∧
    (∀ m : KeyMsg, arrived m → m.crcOk = true → m.kind = 1 → m.body.length = 10391 → Completes (.keyingHello p m) s fun t =>
      (helloId m.body = ownModule s → (getPort t p).st = .down) ∧
        (helloId m.body ≠ ownModule s → certOk s m.body = true → m.body.getD 1 0 &&& 0x80#8 = 0 →
          (getPort t p).st = .keying ∧ (getPort t p).keying.peerHello = m.body ∧ (getPort t p).peer.toNat = helloId m.body) ∧
        (helloId m.body ≠ ownModule s → certOk s m.body = false → (getPort t p).keying.failed = some s.aon) ∧ t.hbm = s.hbm ∧ t.cores = s.cores) ∧
    (∀ m : KeyMsg, arrived m → m.crcOk = true → m.kind = 2 → m.body.length = 1568 →
      x.keying.peerHello.isEmpty = false → Completes (.encap p m) s fun t => (getPort t p).keying.peerEncap = m.body ∧
        (getPort t p).keying.signed = true ∧ (getPort t p).st = .keying ∧ FabricOnly s t) ∧
    (∀ m : KeyMsg, arrived m → m.crcOk = true → m.kind = 3 → m.body.length = 4627 → x.keying.signed = true →
      Completes (.sign p m) s fun t =>
        (Config.dsaVerify (helloDsa x.keying.peerHello) linkCtx (linkTranscript s x.keying) m.body = true →
          (getPort t p).st = (if (workingLanes x).length = 8 then .up else .degraded) ∧ (getPort t p).linkSecret = linkSecretOf s x.keying ∧
            (getPort t p).kept.length = x.kept.length) ∧
        (Config.dsaVerify (helloDsa x.keying.peerHello) linkCtx (linkTranscript s x.keying) m.body = false →
          (getPort t p).st = .keying ∧ (getPort t p).keying.failed = some s.aon) ∧ (s.hif.jobs = [] → s.hif.flrs = [] → t.hbm = s.hbm ∧ t.cores = s.cores)) ∧
    (∀ m : KeyMsg, arrived m → m.crcOk = false → Completes (.keyingHello p m) s fun t =>
      (getPort t p).st = .keying ∧ (getPort t p).keying.failed = some s.aon ∧ t.hbm = s.hbm ∧ t.cores = s.cores) ∧
    (∀ t0, x.keying.failed = some t0 → x.st = .keying → t0 + secAon ≤ s.aon → (getCred s 18).data ≠ [] → (getCred s 19).data ≠ [] →
      Completes (.keyingRetry p) s fun t => (getPort t p).keying.failed = none ∧ (getPort t p).keying.hello ≠ [] ∧ t.hbm = s.hbm)

/-- Key changes, lanes and light (R423, R426, R427, R430): a counter past 2^46 starts one key change while none is under way; a direction takes its new key at
the LSEQ named; a failing lane of a port with all lanes is replaced by the spare at the codeword named, at its receiver and at the transmitter that
is asked to; another failing lane retrains the port; light
brings a DOWN port to TRAINING. It rests on the model's choices of assumptions 48, 146, 152. -/
def Obligations.LanesAndKeys : Prop :=
  ∀ (s : State) (p : Nat), p < 16 →
    let x := getPort s p
    (portOpen x = true → (x.rekeyed = false ∧ 2 ^ 46 < x.txSeq) ∨ (x.rekeyedCtl = false ∧ 2 ^ 46 < x.lctlSeq) → x.txSwitch = none →
      x.rxSwitch = none → x.keyAsked = false → exec (.rekey p) s = .next (setPort (trace s 0 10) p { x with
        rekeyed := x.rekeyed || decide (2 ^ 46 < x.txSeq), rekeyedCtl := x.rekeyedCtl || decide (2 ^ 46 < x.lctlSeq), keyAsked := true
        txSwitch := some (x.txSeq + 1024), sayKeySwitch := some (x.txSeq + 1024), linkSecret := nextSecret x.linkSecret })) ∧
    (∀ q, x.txSwitch = some q → q ≤ x.txSeq → exec (.keySwitch p true) s =
      .next (setPort s p { x with txSwitch := none, txKey := dirKey x.linkSecret (ownModule s) })) ∧
    (∀ q, x.rxSwitch = some q → q ≤ x.rxSeq → exec (.keySwitch p false) s =
      .next (setPort s p { x with rxSwitch := none, rxKey := dirKey x.linkSecret x.peer.toNat })) ∧
    (∀ lane sym, lane < 8 → spareThresh x < sym → x.st = .up → x.spare = 0xF → x.swapping = none → x.bad = [] →
      exec (.laneFailing p lane sym false) s = .next (setPort s p { x with bad := [lane], swapping := some lane, askLane := some lane })) ∧
    (∀ lane, lane < 8 → s.fwc.st ≠ 0 → x.st = .up → x.bad = [3] → x.spare = 3 → x.swapping = none → lane ≠ 3 → Completes (.laneFailing p lane 0 true) s fun t =>
      (getPort t p).st = .training ∧ (getPort t p).bad = insertNat lane [3] ∧ t.hbm = s.hbm ∧ t.cores = s.cores) ∧
    (∀ l w, x.swapping = some l → x.swapAt = some w → Completes (.laneSwitch p false) s fun t =>
      (getPort t p).spare = BitVec.ofNat 4 l ∧ (getPort t p).swapping = none ∧ (getPort t p).st = x.st ∧ FabricOnly s t) ∧
    (∀ l w, x.txSwapping = some l → x.txSwapAt = some w → exec (.laneSwitch p true) s =
      .next (setPort s p { x with txSpare := BitVec.ofNat 4 l, txSwapping := none, txSwapAt := none })) ∧
    (∀ b : Lctl, portOpen x = true → b.nak = false → b.lane < 8 → b.switchKind = 0 → Completes (.lctl p b true) s fun t =>
      (getPort t p).txSwapping = some b.lane ∧ (getPort t p).sayLaneSwitch.isSome = true ∧ FabricOnly s t) ∧
    (x.st = .down → stayClosed s p = false → s.fwc.st ≠ 0 → 4 ≤ s.fwc.stage → Completes (.lightChange p true) s fun t =>
      (getPort t p).st = .training ∧ (getPort t p).light = true ∧ t.hbm = s.hbm ∧ t.cores = s.cores) ∧
    (x.st = .up → s.fwc.st ≠ 0 → Completes (.lightChange p false) s fun t => (getPort t p).st = .training ∧ (getPort t p).light = false)

/-- Stay switches and ring hold (R446 to R450, R647): OPEN and CLOSE start a move that ends in the new position, a second command during a move is
held, of a management interface with an open session, and else ignored; OPEN is ignored while the module may not open; a ring DOWN for 50 ms closes its open switch; HOLD_IN is latched and, held for more
than 100 microseconds, counts as stuck. It rests on the model's choices of assumptions 47, 146, 154. -/
def Obligations.StaysAndHold : Prop :=
  ∀ (s : State) (n : Nat), n < 2 →
    ((getStay s n).st = .closed → mayOpen s = true → (getSess s 17).opened = true →
      exec (.stayOpen true n) s = .next (setStay (trace s 0 42) n { st := .moving true s.aon, held := none })) ∧
    (mayOpen s = false → exec (.stayOpen true n) s = .next { s with hub := { s.hub with ignoredWr := satAdd s.hub.ignoredWr 1 } }) ∧
    ((getStay s n).st = .opened → (getSess s 17).opened = true → exec (.stayClose true n) s = .next (setStay (trace s 0 42) n { st := .moving false s.aon, held := none })) ∧
    (∀ o t0, (getStay s n).st = .moving o t0 → (getSess s 17).opened = true → exec (.stayClose true n) s = .next (setStay s n { st := .moving o t0, held := some false })) ∧
    (∀ o : Bool, (getSess s 17).opened = false → exec (if o then .stayOpen true n else .stayClose true n) s =
      .next { s with hub := { s.hub with ignoredWr := satAdd s.hub.ignoredWr 1 } }) ∧
    ((getStay s n).st = .opened → ringDown s n = true →
      exec (.stayRingDown n) s = .next (setStay (trace s 0 42) n { st := .moving false s.aon, held := none })) ∧
    (∀ t0, (getStay s n).st = .moving true t0 → (getStay s n).held = none →
      exec (.stayMoveComplete n) s = .next (holdOut (setStay s n { st := .opened, held := none }))) ∧
    (∀ t0, (getStay s n).st = .moving false t0 → (getStay s n).held = none → Completes (.stayMoveComplete n) s fun t =>
      (getStay t n).st = .closed ∧ (getPort t (2 * n)).st = .down ∧ (getPort t (2 * n + 1)).st = .down ∧
        (getPort t (2 * n)).light = false ∧ (s.hif.jobs = [] → t.hbm = s.hbm)) ∧
    (Tab.get false s.pins.holdIn n = false → exec (.holdInAssert n) s = .next { s with pins := { s.pins with
      holdIn := Tab.set s.pins.holdIn n true, holdInSince := Tab.set s.pins.holdInSince n s.aon
      holdStuck := Tab.set s.pins.holdStuck n false } }) ∧
    (exec (.holdInDeassert n) s = .next { s with pins := { s.pins with
      holdIn := Tab.set s.pins.holdIn n false, holdStuck := Tab.set s.pins.holdStuck n false } }) ∧
    (Tab.get false s.pins.holdIn n = true → Tab.get false s.pins.holdStuck n = false → Tab.get 0 s.pins.holdInSince n + 5000 < s.aon →
      exec (.holdStuck n) s = .next { s with pins := { s.pins with holdStuck := Tab.set s.pins.holdStuck n true }
                                             fab := { s.fab with holdStuck := satAdd s.fab.holdStuck 1 } })

/-- Trees at the root (R454 to R457): ATTACH adds the receiver from the next TSEQ on, MACK raises its acknowledgement, a request for frames of the
window is answered by them and REJOIN and one for frames that are gone by REPAIR_NAK, and a root held for DETACH_WAIT detaches the receivers
that lag. Trees at a receiver (R453, R454, R456): the frame of the next TSEQ, or the first that reaches it, is applied to the delivery buffer, DETACH asks for repair,
REJOIN attaches the receiver again once it has every earlier frame, and REPAIR_NAK fails the entry.
It rests on the model's choices of assumptions 34, 43, 152, 153. -/
def Obligations.Trees : Prop :=
  (∀ (s : State) (rx : Rx) (n : Nat),
     let f := rx.frame
     let t0 := getTree s n
     treeOf s (fieldAt f.payload 2 2) (fun r => r == 1) = some n →
     (DeliveredCtl 7 ccAttach rx s → t0.attached = [] → exec (.attach rx) s = .next (setTree (linkTaken rx s) n { t0 with
       attached := [{ module := f.srcModule, part := f.srcPart, from_ := max 1 t0.tseq, mack := max 1 t0.tseq - 1 }] })) ∧
     (DeliveredCtl 7 ccMack rx s → t0.waiting = [] → exec (.mack rx) s = .next (setTree (linkTaken rx s) n { t0 with
       attached := t0.attached.map (fun a => if a.module = f.srcModule then { a with mack := max a.mack f.epoch } else a), heldSince := none })) ∧
     (DeliveredCtl 7 ccRepairReq rx s → rangeWaits s (treeBase t0) 0x4000000 = false → t0.attached = [] → max 1 t0.tseq ≤ f.epoch → (∀ x ∈ t0.sent, x.tseq < f.epoch) →
       Completes (.repairReq rx) s fun t => (getTree t n).attached =
         [{ module := f.srcModule, part := f.srcPart, from_ := max 1 t0.tseq, mack := max 1 t0.tseq - 1 }] ∧ FabricOnly s t) ∧
     (DeliveredCtl 7 ccRepairReq rx s → rangeWaits s (treeBase t0) 0x4000000 = false → t0.attached = [] → f.epoch < max 1 t0.tseq → (∀ x ∈ t0.sent, x.tseq ≠ f.epoch) →
       Completes (.repairReq rx) s fun t => getTree t n = t0 ∧ FabricOnly s t ∧
         (∀ p, RingRoute s f.srcModule p → Queued p (treeClass t0) (linkTaken rx s) t fun g => g.payload.headD 0 = Config.ctlCode ccRepairNak)) ∧
     (∀ since x a, n < 64 → t0.heldSince = some since → t0.waiting = [x] → t0.attached = [a] → a.mack + treeSlack t0 < x.tseq →
       since + treeWait t0 * usAon ≤ s.aon → Completes (.detachWaitExpiry n) s fun t =>
         (getTree t n).attached = [] ∧ (getTree t n).waiting = [] ∧ (getTree t n).tseq = x.tseq + 1 ∧
           t.fab.detached = satAdd s.fab.detached 1 ∧ FabricOnly s t)) ∧
  (∀ (s : State) (rx : Rx) (n : Nat),
     let f := rx.frame
     let t0 := getTree s n
     (Accepted rx s → f.type.toNat = 6 → f.flags.mcast = true → f.flags.td = false → f.flags.last = false → f.hops ≠ 0 →
       treeOf s f.dstModule (fun r => r == 2 || r == 3) = some n → treeRole t0 = 2 → treePorts t0 = 0 → t0.st = 1 →
       (f.epoch = (t0.tseq + 1) % 2 ^ 32 ∨ (t0.tseq = 0 ∧ f.epoch ≠ 0)) → t0.sinceMack + 1 < mackEvery t0 → t0.rejoin = none →
       (getPart s (treePart t0)).peers.contains (f.srcModule, f.srcPart) = true → f.payload.length = 1 →
       Served s f (treeBase t0 + f.addr % max 1 (treeLen t0)) 1 → rx.ecc = [] →
       spaceOf (treeBase t0 + f.addr % max 1 (treeLen t0)) 1 = .hbm →
       regionsOk s (some (treePart t0)) (treeBase t0 + f.addr % max 1 (treeLen t0)) 1 = true →
       Completes (.treeData rx) s fun t => (getTree t n).tseq = (if t0.tseq = 0 then f.epoch else t0.tseq + 1) ∧
         (getTree t n).sinceMack = t0.sinceMack + 1 ∧
         hbmByte t (treeBase t0 + f.addr % max 1 (treeLen t0)) = f.payload.headD 0 ∧
         (∀ a, a ≠ treeBase t0 + f.addr % max 1 (treeLen t0) → hbmByte t a = hbmByte s a) ∧ t.host = s.host ∧ t.cores = s.cores) ∧
     (DeliveredCtl 7 ccDetach rx s → treeOf s (fieldAt f.payload 2 2) (fun r => r == 2) = some n → t0.st = 1 → Completes (.detach rx) s fun t =>
       (getTree t n).st = 2 ∧ (getTree t n).rejoin = none ∧ (getTree t n).tseq = t0.tseq ∧ FabricOnly s t) ∧
     (DeliveredCtl 7 ccRejoin rx s → treeOf s (fieldAt f.payload 2 2) (fun r => r == 2) = some n → (t0.st = 2 ∨ t0.st = 3) →
       f.epoch ≤ t0.tseq + 1 → exec (.rejoin rx) s = .next (setTree (linkTaken rx s) n { t0 with st := 1, rejoin := none })) ∧
     (DeliveredCtl 7 ccRejoin rx s → treeOf s (fieldAt f.payload 2 2) (fun r => r == 2) = some n → (t0.st = 2 ∨ t0.st = 3) →
       t0.tseq + 1 < f.epoch → exec (.rejoin rx) s = .next (setTree (linkTaken rx s) n { t0 with st := 3, rejoin := some f.epoch })) ∧
     (DeliveredCtl 7 ccRepairNak rx s → treeOf s (fieldAt f.payload 2 2) (fun r => r == 2) = some n → (t0.st = 2 ∨ t0.st = 3) →
       Completes (.repairNak rx) s fun t => (getTree t n).st = 4 ∧ (getTree t n).rejoin = none ∧ FabricOnly s t))

/-- Collective epochs (R458, R459): BEGIN from the masthead opens the epoch with its members, ABORT of the open epoch ends it for good, END closes an
epoch whose partition runs no job and tells the masthead, and a frame of another epoch is counted and answered NRESP.
It rests on the model's choices of assumptions 42, 153. -/
def Obligations.EpochControl : Prop :=
  ∀ (s : State) (rx : Rx),
    let f := rx.frame
    let e := fieldAt f.payload 1 4
    (DeliveredCtl 8 ccBegin rx s → epochOk s f = true → f.srcModule = masthead s → e ≠ 0 → epochOf s f.dstPart = .none →
      exec (.epochBegin rx) s = .next (moveEpoch (linkTaken rx s) f.dstPart (.opened e (ids16 (f.payload.drop 5))))) ∧
    (DeliveredCtl 8 ccBegin rx s → epochOk s f = true → f.srcModule = masthead s → epochOf s f.dstPart = .aborted e → Completes (.epochBegin rx) s fun t =>
      epochOf t f.dstPart = .aborted e) ∧
    (∀ ms, DeliveredCtl 8 ccAbort rx s → epochOk s f = true → epochOf s f.dstPart = .opened e ms → Completes (.epochAbort rx) s fun t =>
      epochOf t f.dstPart = .aborted e ∧ (∀ p, p ≠ f.dstPart → epochOf t p = epochOf s p) ∧ (s.hif.jobs = [] → t.hbm = s.hbm)) ∧
    (DeliveredCtl 8 ccBegin rx s → epochOk s f = false → exec (.epochBegin rx) s = .next (refuseFrame (linkTaken rx s) f 4)) ∧
    (∀ p e0 ms q, p < 16 → epochOf s p = .opened e0 ms → (s.hif.jobs.any fun j => j.part == p) = false → RingRoute s (masthead s) q →
      Completes (.epochEnd p) s fun t => epochOf t p = .none ∧ FabricOnly s t ∧
        Queued q 1 s t fun g => g.payload = Config.ctlCode ccEnd :: leBytes 4 e0)

/-- Membership of a group (R460 to R462, R465): OPT_ROLE applies by COMMIT of a PF with an open session, the masthead answers JOIN with ACCEPT and an index or with REFUSE, a
worker takes ACCEPT and REFUSE of its masthead, heartbeats restart the silence of their sender, 30 ms without one make a member suspect, which is reported, and
50 ms without the masthead an orphan, and REMOVE ends a membership. Body layouts are the model's (assumption 62).
It rests on the model's choices of assumptions 60, 146, 153, 154. -/
def Obligations.GroupMembership : Prop :=
  ∀ (s : State) (rx : Rx),
    let f := rx.frame
    let g := s.fab.group
    (∀ v, (getSess s 0).opened = true → LogRoom s → commitOk s v = true → Completes (.roleCommit 0 v) s fun t =>
      t.fab.role = { live := v &&& roleMask, shadow := v &&& roleMask, known := true } ∧ t.hbm = s.hbm ∧ t.cores = s.cores ∧
        t.fab.group.gstate = (if bf (v &&& roleMask).toNat 16 2 = 1 then 0 else 1)) ∧
    (∀ v, (getSess s 0).opened = true → LogRoom s → commitOk s v = false → Completes (.roleCommit 0 v) s fun t =>
      t.fab = s.fab ∧ t.hub.ignoredWr = satAdd s.hub.ignoredWr 1 ∧ t.hbm = s.hbm) ∧
    (∀ v, (getSess s 0).opened = false → exec (.roleCommit 0 v) s = .next { s with hub := { s.hub with ignoredWr := satAdd s.hub.ignoredWr 1 } }) ∧
    (∀ i, Grouped ccJoin rx s → isMasthead s = true → fieldAt f.payload 1 1 = roleGroup s → memberIdx s f.srcModule = none →
      freeIndex s = some i → Completes (.join rx) s fun t =>
        t.fab.group.members = Tab.set g.members i { module := f.srcModule, cores := fieldAt f.payload 2 2, heard := s.aon } ∧ FabricOnly s t ∧
        (∀ p, RingRoute s f.srcModule p → Queued p 1 (linkTaken rx s) t fun h => h.payload = Config.ctlCode ccAccept :: leBytes 1 i)) ∧
    (Grouped ccJoin rx s → isMasthead s = true → fieldAt f.payload 1 1 ≠ roleGroup s → Completes (.join rx) s fun t =>
      t.fab.group = g ∧ FabricOnly s t ∧
        (∀ p, RingRoute s f.srcModule p → Queued p 1 (linkTaken rx s) t fun h => h.payload = [Config.ctlCode ccRefuse])) ∧
    (Grouped ccAccept rx s → isMasthead s = false → f.srcModule = masthead s → g.gstate = 1 →
      exec (.accept rx) s = .next (setGroup (trace (linkTaken rx s) 2 46) { g with gstate := 2, index := fieldAt f.payload 1 1, heard := s.aon })) ∧
    (Grouped ccRefuse rx s → isMasthead s = false → f.srcModule = masthead s → g.gstate = 1 →
      exec (.refuse rx) s = .next (setGroup (trace (linkTaken rx s) 2 46) { g with gstate := 0 })) ∧
    (isMasthead s = false → g.gstate = 2 → g.beat + 500000 ≤ s.aon → Completes .heartbeatSend s fun t =>
      t.fab.group = { g with beat := s.aon } ∧ FabricOnly s t ∧
        (∀ p, RingRoute s (masthead s) p → Queued p 1 s t fun h => h.payload = [Config.ctlCode ccHeartbeat])) ∧
    (Grouped ccHeartbeat rx s → isMasthead s = false → f.srcModule = masthead s → g.gstate = 2 →
      exec (.heartbeat rx) s = .next (setGroup (trace (linkTaken rx s) 2 46) { g with heard := s.aon })) ∧
    (∀ i x, Grouped ccHeartbeat rx s → isMasthead s = true → memberIdx s f.srcModule = some i → Tab.find g.members i = some x →
      exec (.heartbeat rx) s = .next (setGroup (trace (linkTaken rx s) 2 46) { g with
        members := Tab.set g.members i { x with heard := s.aon, st := .member } })) ∧
    (∀ i x, Tab.find g.members i = some x → isMasthead s = true → x.st = .member → x.heard + 1500000 ≤ s.aon →
      exec (.memberSilence i) s = .next (setGroup s { g with
        members := Tab.set g.members i { x with st := .suspect }, said := g.said ++ [.suspect i] })) ∧
    (isMasthead s = false → (g.gstate = 1 ∨ g.gstate = 2) → g.heard + 2500000 ≤ s.aon → exec .mastheadSilence s = .next (setGroup s { g with gstate := 3 })) ∧
    (∀ m i x, isMasthead s = true → memberIdx s m = some i → Tab.find g.members i = some x → Completes (.remove m) s fun t =>
      t.fab.group = { g with members := Tab.set g.members i { x with st := .removed } } ∧ FabricOnly s t ∧
        (∀ p, RingRoute s m p → Queued p 1 s t fun h => h.payload = [Config.ctlCode ccRemove]))

/-- Work of a group (R463 to R465, R607): a member performs a LAUNCH and keeps its id and status, a known id is answered again; the masthead
collects LAUNCH_ACK and reports the combined launch, at the latest after 100 ms with the members that are
silent; schedules, telemetry and domain summaries are kept. It rests on the model's choices of assumptions 61, 62, 146. -/
def Obligations.GroupWork : Prop :=
  ∀ (s : State) (rx : Rx),
    let f := rx.frame
    let g := s.fab.group
    let b := (f.payload.drop 1).take 64
    let p := fieldAt f.payload 65 1
    (Grouped ccLaunch rx s → isMasthead s = false → f.srcModule = masthead s → g.gstate = 2 → p < 16 → s.fwc.st = 3 →
      argsOk { idx := 0, bytes := b } = true → barePole s = false → launchMode b = 0 →
      frameHeld s f = false → g.launches = [] → g.recovering = [] → knownLaunch s p (launchId b) = false → Completes (.launchFrame rx) s fun t =>
        let r := placeJob (keepLaunch (hearHead (trace (linkTaken rx s) 2 46)) p (launchId b)) (p + 1) p b (.frame (launchId b)) rx.ecc
        t.fab.group.launches = [(p, launchId b, r.1)] ∧ t.hif = r.2.hif ∧ t.cores = r.2.cores ∧ t.hbm = r.2.hbm ∧ knownLaunch t p (launchId b) = true) ∧
    (∀ st, Grouped ccLaunch rx s → isMasthead s = false → f.srcModule = masthead s → g.gstate = 2 → p < 16 →
      frameHeld s f = false → g.launches = [(p, launchId b, st)] → Completes (.launchFrame rx) s fun t => t.fab.group = { g with heard := s.aon } ∧ FabricOnly s t ∧
        (∀ q, RingRoute s (masthead s) q → Queued q 1 (linkTaken rx s) t fun h =>
          h.payload = Config.ctlCode ccLaunchAck :: (leBytes 8 (launchId b) ++ leBytes 2 st))) ∧
    (∀ o c, Grouped ccLaunchAck rx s → g.out = [o] → o.id = fieldAt f.payload 1 8 → o.waiting = [f.srcModule] →
      (getHRing s o.fn o.ring).cmds.find? (fun c => c.idx == o.idx) = some c → Completes (.launchAck rx) s fun t =>
        t.fab.group.out = [] ∧ t.hbm = s.hbm ∧ t.cores = s.cores ∧ ∃ st, Reports o.fn o.ring c st s t ∧
          ((∀ x ∈ o.statuses, x.2 = 0) → fieldAt f.payload 9 2 = 0 → st = 0)) ∧
    (∀ o m, Grouped ccLaunchAck rx s → g.out = [o] → o.id = fieldAt f.payload 1 8 → o.waiting = [f.srcModule, m] → m ≠ f.srcModule →
      Completes (.launchAck rx) s fun t =>
        t.fab.group.out = [{ o with waiting := [m], statuses := o.statuses ++ [(f.srcModule, fieldAt f.payload 9 2)] }] ∧ FabricOnly s t) ∧
    (∀ o c, g.out = [o] → o.since + 5000000 ≤ s.aon → (getHRing s o.fn o.ring).cmds.find? (fun c => c.idx == o.idx) = some c →
      Completes (.launchReportTimeout o.id) s fun t => t.fab.group.out = [] ∧
        t.fab.group.said = g.said ++ o.waiting.map (.silent o.id) ∧ t.hbm = s.hbm ∧ t.cores = s.cores ∧ ∃ st, Reports o.fn o.ring c st s t) ∧
    (Grouped ccSchedule rx s → isMasthead s = false → f.srcModule = masthead s → g.gstate = 2 →
      exec (.schedule rx) s = .next (setGroup (trace (linkTaken rx s) 2 46) { g with heard := s.aon, schedule := f.payload.drop 1 })) ∧
    (isMasthead s = false → g.gstate = 2 → g.telem + 5000000 ≤ s.aon → Completes .telemetrySend s fun t =>
      t.fab.group = { g with telem := s.aon } ∧ FabricOnly s t ∧ (∀ q, RingRoute s (masthead s) q → Queued q 1 s t fun h =>
        h.payload = Config.ctlCode ccTelemetry :: (leBytes 8 (pwrTelem s) ++ leBytes 8 (pwrTemp s) ++ leBytes 8 s.pwr.energy.toNat))) ∧
    (∀ i x, Grouped ccTelemetry rx s → isMasthead s = true → memberIdx s f.srcModule = some i → Tab.find g.members i = some x →
      exec (.telemetry rx) s = .next (setGroup (trace (linkTaken rx s) 2 46) { g with
        members := Tab.set g.members i { x with heard := s.aon, st := .member, telemetry := f.payload.drop 1 } })) ∧
    (∀ m sum, isDomainMgr s = true → (∀ x, Tab.find g.domain (fieldAt sum 0 1) = some x → x.1 = m ∧ x.2.2 + 50000000 ≤ s.aon) →
      exec (.domainSummary m sum) s = .next (setGroup s { g with domain := Tab.set g.domain (fieldAt sum 0 1) (m, sum, s.aon) })) ∧
    (∀ m sum x, Tab.find g.domain (fieldAt sum 0 1) = some x → (x.1 ≠ m ∨ s.aon < x.2.2 + 50000000) →
      exec (.domainSummary m sum) s = .next s)

/-- Rings of the host (R478 to R484, R490, R491, R509): a poll takes the tail and head of the doorbell record and a bad one puts the ring into
ERROR, a fetch takes the next command with its 64 bytes, the oldest record goes to its slot, ENABLE starts an idle ring anew and is ignored
for an enabled one, and DISABLE drains. The event queue of a function (R614): its head comes from the doorbell page, the oldest event goes to the next slot, and a
record that is MOD_TIME old is signalled. It rests on the model's choices of assumption 96. -/
def Obligations.HostQueues : Prop :=
  (∀ (s : State) (f n : Nat), f ≤ 16 → n < ringCount f →
     let r := getHRing s f n
     let a := busAddr ((getFn s f).dbBase.toNat + 16 * n)
     let d0 := devNum s a 4
     let h0 := devNum s (a + 4) 4
     (∀ ns, ns ≤ 760 → r.st = .running → fnPolled s f = true → r.written = r.cqHead → r.written < 2 ^ 32 → h0 = r.cqHead → devNum s (a + 8) 8 = 0 →
       (d0 + 2 ^ 32 - r.fetched) % 2 ^ 32 ≤ ringEntries r → Completes (.doorbellPoll f n ns true) s fun t =>
         (getHRing t f n).tail = d0 ∧ (getHRing t f n).cqHead = h0 ∧ (getHRing t f n).st = .running ∧ (getHRing t f n).fetched = r.fetched ∧
           (d0 ≠ r.tail → (getHRing t f n).interval = 1) ∧ t.hbm = s.hbm ∧ t.host = s.host ∧ t.cores = s.cores) ∧
     (∀ ns, ringServed s f r = true → (r.st = .running ∧ ringEntries r < (d0 + 2 ^ 32 - r.fetched) % 2 ^ 32 ∨ devNum s (a + 8) 8 ≠ 0) →
       Completes (.doorbellPoll f n ns true) s fun t => (getHRing t f n).st = .error ∧ (getHRing t f n).cause = 1 ∧ t.hbm = s.hbm ∧ t.cores = s.cores) ∧
     (∀ ns, ringServed s f r = true → Completes (.doorbellPoll f n ns false) s fun t =>
       (getHRing t f n).st = .error ∧ (getHRing t f n).cause = 2 ∧ t.hif.aer = s.hif.aer + 1 ∧ t.hbm = s.hbm ∧ t.cores = s.cores) ∧
     (∀ ns, r.st = .running → fnPolled s f = true → r.cmds = [] → toFetch r = 1 → cqRoom r = true → Completes (.commandFetch f n ns true) s fun t =>
       let c : HCmd := { idx := r.fetched % 2 ^ 32, serial := (getFn s f).fetchNo, polled := r.lastPoll
                         bytes := devRead s (busAddr (r.sq.toNat + 64 * (r.fetched % 2 ^ 32 % ringEntries r))) 64 }
       (getHRing t f n).fetched = (r.fetched + 1) % 2 ^ 32 ∧ (getFn t f).fetchNo = (getFn s f).fetchNo + 1 ∧
         (startRefusal s f c = none → (getHRing t f n).cmds = [c] ∧ (getHRing t f n).done = r.done) ∧
         (∀ st, startRefusal s f c = some st → (getHRing t f n).cmds = [] ∧ (getHRing t f n).done = r.done ++ [doneOf c st []]) ∧
         t.hbm = s.hbm ∧ t.host = s.host ∧ t.cores = s.cores) ∧
     (∀ d rest, r.st = .running → r.cmds = [] → r.done = d :: rest → cqRoom r = true → Completes (.completionRecordWrite f n) s fun t =>
       (getHRing t f n).done = rest ∧ (getHRing t f n).written = (r.written + 1) % 2 ^ 32 ∧ t.hbm = s.hbm ∧ t.cores = s.cores ∧
         (d.irq = false → d.status = 0 → r.unsig + 1 < modCount r.cfg → modTime r.cfg ≠ 0 →
           t.host = (devWrite s (busAddr (r.cq.toNat + 32 * (r.written % ringEntries r))) (cqRecord r n d)).host)) ∧
     (0 < r.unsig → r.unsigSince + modTime r.cfg * 50 ≤ s.aon → Completes (.moderationTimeout f n) s fun t =>
       (getHRing t f n).unsig = 0 ∧ (getHRing t f n).done = r.done ∧ t.hbm = s.hbm ∧ t.cores = s.cores) ∧
     (∀ cfg : W64, r.cfg.getLsbD 0 = false → cfg.getLsbD 0 = true → r.st = .off → enableCause s f (cfg &&& ringMask) = 0 →
       exec (.ringEnable f n cfg) s = .next (setHRing s f n { sq := r.sq, cq := r.cq, cfg := cfg &&& ringMask, st := .running })) ∧
     (∀ cfg : W64, r.cfg.getLsbD 0 = false → cfg.getLsbD 0 = true → r.st = .off → enableCause s f (cfg &&& ringMask) ≠ 0 →
       exec (.ringEnable f n cfg) s = .next (setHRing s f n { r with
         cfg := cfg &&& ringMask &&& ~~~1#64, cause := enableCause s f (cfg &&& ringMask) })) ∧
     (∀ cfg, r.cfg.getLsbD 0 = true →
       exec (.ringEnable f n cfg) s = .next { s with hub := { s.hub with ignoredWr := satAdd s.hub.ignoredWr 1 } }) ∧
     (r.st = .running → Completes (.ringDisable f n) s fun t => (getHRing t f n).cfg.getLsbD 0 = false ∧
       (getHRing t f n).st = (if r.cmds.isEmpty && r.done.isEmpty then .off else .draining) ∧ (getHRing t f n).cmds = r.cmds ∧
         t.hbm = s.hbm ∧ t.host = s.host ∧ t.cores = s.cores)) ∧
  (∀ (s : State) (f : Nat), f ≤ 16 →
     let q := getEvq s f
     (q.enable = true → exec (.evqHeadPoll f) s =
       .next (setEvq s f { q with head := BitVec.ofNat 32 (devNum s (busAddr ((getFn s f).dbBase.toNat + 0xFF0)) 4) })) ∧
     (q.enable = false → exec (.evqHeadPoll f) s = .next s ∧ exec (.eventRecordWrite f) s = .next s) ∧
     (∀ e rest, q.enable = true → evqFull q = false → q.overflow = 0 → q.pending = e :: rest → Completes (.eventRecordWrite f) s fun t =>
       (getEvq t f).pending = rest ∧ (getEvq t f).written = q.written + 1 ∧ t.hbm = s.hbm ∧ t.cores = s.cores ∧
         (e.sev < 3 → q.unsig + 1 < q.modCount.toNat → q.modTime ≠ 0 →
           t.host = (devWrite s (busAddr (q.base.toNat + 32 * (q.written.toNat % evqEntries q))) (evqRecord q e)).host)) ∧
     (0 < q.unsig → q.unsigSince + q.modTime.toNat * 50 ≤ s.aon → Completes (.moderationTimeout f 64) s fun t =>
       (getEvq t f).unsig = 0 ∧ (getEvq t f).pending = q.pending ∧ t.hbm = s.hbm ∧ t.cores = s.cores))

/-- Data commands (R487, R501, R504, R517): COPY and FILL write their bytes, a tensor copy and COMPACT write the tensor, QUERY_LEDGER copies the
ledger, and each reports OK unless a word that it read or merged was uncorrectable; a command waits while a channel of its ranges does, and on a C0 ring for its tokens; every byte of device space outside the range is as before.
It rests on the model's choices of assumptions 44, 136. -/
def Obligations.DataCommands : Prop :=
  ∀ (s : State) (f n k : Nat) (c : HCmd),
    let a8 := fieldAt c.bytes 8 8
    let a16 := fieldAt c.bytes 16 8
    let len := fieldAt c.bytes 24 8
    (∀ ecc, DataReady f n k 2 c [(a8, len), (a16, len)] s → fieldAt c.bytes 32 1 = 0 →
      Completes (.copyCommand f n k ecc) s fun t =>
        Reports f n c (if hitsBad (accessHits a8 len false ecc ++ accessHits a16 len true ecc) then stUncorr else 0) s t ∧
          BytesAs (devWrite (readLedgers s a8 len ecc) a16 (devRead s a8 len)) t ∧ t.cores = s.cores ∧ (ecc = [] → readLedgers s a8 len ecc = s)) ∧
    (∀ ecc, DataReady f n k 2 c [(a8, len), (a16, len)] s → fieldAt c.bytes 32 1 = 1 → 64 ≤ len →
      let h := hdrOf (fieldAt (devRead s a8 64) 0 64)
      hdrValid h a8 = true → h.total ≤ len → Completes (.copyCommand f n k ecc) s fun t =>
        (∃ st, Reports f n c st s t ∧ (ecc = [] → st = 0)) ∧ 
          BytesAs (writeTensor (readLedgers s a8 h.total ecc) a16 (devRead s a8 h.total)) t ∧ t.cores = s.cores) ∧
    (∀ ecc, Ready f n k 2 c s → rangesBad s f [(a8, len), (a16, len)] = none → (rangeWaits s a8 len || rangeWaits s a16 len) = true →
      exec (.copyCommand f n k ecc) s = .next s) ∧
    (∀ ecc, DataReady f n k 3 c [(a8, fieldAt c.bytes 16 8)] s → Completes (.fillCommand f n k ecc) s fun t =>
      Reports f n c (if hitsBad (accessHits a8 (fieldAt c.bytes 16 8) true ecc) then stUncorr else 0) s t ∧
        BytesAs (devWrite s a8 ((List.range (fieldAt c.bytes 16 8)).map fun i => c.bytes.getD (24 + i % 8) 0)) t ∧
        t.cores = s.cores) ∧
    (∀ ecc, Ready f n k 3 c s → RangesOk s f [(a8, fieldAt c.bytes 16 8)] →
      (engineTake s c (engineNeed s f n [(a8, fieldAt c.bytes 16 8)])).1 < engineNeed s f n [(a8, fieldAt c.bytes 16 8)] →
      Completes (.fillCommand f n k ecc) s fun t => BytesAs s t ∧ t.cores = s.cores ∧ (getHRing t f n).done = (getHRing s f n).done ∧
        (getHRing t f n).cmds = (getHRing s f n).cmds.map fun x => if x.idx = c.idx then { x with
          tokens := (engineTake s c (engineNeed s f n [(a8, fieldAt c.bytes 16 8)])).1, paced := true } else x) ∧
    (∀ st ecc, Ready f n k 3 c s → rangesBad s f [(a8, fieldAt c.bytes 16 8)] = some st → Completes (.fillCommand f n k ecc) s fun t =>
      Reports f n c st s t ∧ BytesAs s t ∧ t.cores = s.cores) ∧
    (∀ ecc, compactRefusal (compactDesc c) = none →
      let h := hdrOf (fieldAt (devRead s a8 64) 0 64)
      let im := compactImage (compactDesc c) h (devReader s) a8
      hdrValid h a8 = true → h.fmt = 0 → RangesOk s f [(a8, h.total)] → im.total ≤ len →
      DataReady f n k 4 c [(a8, 64), (a16, len), (a8, h.total)] s → Completes (.compact f n k ecc) s fun t =>
        (∃ st, Reports f n c st s t ∧ (ecc = [] → st = 0)) ∧
          BytesAs (writeTensor s a16 ((imageBytes im).take 63 ++ [0xA5] ++ (imageBytes im).drop 64)) t ∧ t.cores = s.cores) ∧
    (∀ ecc, DataReady f n k 7 c [(a8, 64), (a8, 64 + 2 * ledgerSegments s a8), (a16, len)] s → spaceOf a8 64 = .hbm →
      64 + 2 * ledgerSegments s a8 ≤ len → Completes (.queryLedger f n k ecc) s fun t =>
        (∃ st, Reports f n c st s t ∧ (ecc = [] → st = 0)) ∧
        BytesAs (devWrite (queryUe s a8 ecc) a16 (devRead s a8 (64 + 2 * ledgerSegments s a8))) t ∧ t.cores = s.cores)

/-- FENCE, CANCEL, SCRUB and SELFTEST (R502, R503, R505, R506, R628): a FENCE reports once every earlier command of its reach is over and waits until
then, a CANCEL cancels the launches it names, a SCRUB starts the scrub of its regions, and a SELFTEST begins with the units of its kind
and ends with its record. It rests on the model's choices of assumption 63. -/
def Obligations.ControlCommands : Prop :=
  ∀ (s : State) (f n k : Nat) (c : HCmd),
    (Ready f n k 5 c s → (getHRing s f n).cmds = [c] → fencePending s f n c = false → Completes (.fenceCommand f n k) s fun t =>
      Reports f n c 0 s t ∧ BytesAs s t ∧ t.cores = s.cores) ∧
    (Ready f n k 5 c s → (getHRing s f n).cmds = [c] → fieldAt c.bytes 8 1 = 0 → fencePending s f n c = true → Completes (.fenceCommand f n k) s fun t =>
      (getHRing t f n).cmds = [{ c with st := .started }] ∧ (getHRing t f n).done = (getHRing s f n).done ∧ BytesAs s t ∧ t.cores = s.cores) ∧
    (Ready f n k 6 c s → (getHRing s f n).cmds = [c] → s.hif.jobs = [] → s.hif.flrs = [] → Completes (.cancel f n k) s fun t => Reports f n c 0 s t ∧ BytesAs s t ∧ t.cores = s.cores) ∧
    (∀ j, Ready f n k 6 c s → (getHRing s f n).cmds = [c] → s.hif.jobs = [j] → fnPart f = some j.part → j.cancel = none →
      (fieldAt c.bytes 16 1 = 1 ∨ j.launch = fieldAt c.bytes 8 8) → Completes (.cancel f n k) s fun t =>
        (∀ x ∈ t.hif.jobs, x.cancel.isSome = true) ∧ t.hif.nextTag = s.hif.nextTag + 1) ∧
    (Ready f n k 8 c s → (getHRing s f n).cmds = [c] → fieldAt c.bytes 8 2 < 768 → fieldAt c.bytes 10 2 = 1 →
      (getRegion s (fieldAt c.bytes 8 2)).st = .free → Completes (.scrub f n k) s fun t =>
        (getRegion t (fieldAt c.bytes 8 2)).st = .scrubbing ∧ (∀ r, r ≠ fieldAt c.bytes 8 2 → getRegion t r = getRegion s r) ∧ BytesAs s t ∧
          (getHRing t f n).cmds = [{ c with st := .scrubbing [fieldAt c.bytes 8 2] 0 }] ∧ t.cores = s.cores) ∧
    (Ready f n k 9 c s → s.hif.selftest = none → fieldAt c.bytes 8 1 = 0 → rangeBad s f (fieldAt c.bytes 16 8) (fieldAt c.bytes 24 4) = none →
      32 + 16 * (testUnits s 0).length ≤ fieldAt c.bytes 24 4 → Completes (.selftest f n k []) s fun t =>
        t.hif.selftest = some { fn := f, ring := n, idx := k, kind := 0, start := s.aon, units := testUnits s 0 } ∧ BytesAs s t ∧
          t.cores = s.cores) ∧
    (∀ x, f ≤ 16 → n < ringCount f → s.hif.selftest = some x → x.fn = f → x.ring = n → x.idx = k → x.kind = 0 → x.void = 0 → resultHeld s x (selftestDst c) = false →
      (getHRing s f n).cmds.find? (fun y => y.idx == k) = some c → Completes (.selftest f n k []) s fun t =>
        t.hif.selftest = none ∧ Reports f n c 0 s t ∧ t.cores = s.cores ∧
          BytesAs (devWrite s (fieldAt c.bytes 16 8) (testHeader x 0 s.aon ++ x.units.flatMap fun u =>
            leBytes 1 u.kind ++ [0] ++ leBytes 2 u.id ++ List.replicate 12 0)) t)

/-- A known LAUNCH_ID (R495), in each of the three modes: the LAUNCH completes with DUP_LAUNCH, places nothing, raises no event and changes no
counter, ledger or context; any other LAUNCH_ID joins the latest 256 of its partition. -/
def Obligations.DuplicateLaunch : Prop :=
  ∀ (s : State) (f n k p : Nat) (ecc : EccHits) (c : HCmd) (i : Instr), fnPart f = some p → Ready f n k 1 c s → procWaits s 2 = false →
    (i = .launchPlace f n k ecc ∧ launchMode c.bytes = 0 ∨ i = .launchPost f n k ∧ launchMode c.bytes = 1 ∨
      i = .launchRecover f n k ecc ∧ launchMode c.bytes = 2) →
    (knownLaunch s p (launchId c.bytes) = true → Completes i s fun t => Reports f n c 0x46 s t ∧ t.hif.jobs = s.hif.jobs ∧
      t.hif.launchIds = s.hif.launchIds ∧ t.evqs = s.evqs ∧ t.log = s.log ∧ t.hub = s.hub ∧ t.wct = s.wct ∧ t.hbm = s.hbm ∧ t.host = s.host ∧
      t.cores = s.cores ∧ t.fab = s.fab) ∧
    (knownLaunch s p (launchId c.bytes) = false → launchHeld s f p c.bytes = false → Completes i s fun t =>
      Tab.get [] t.hif.launchIds p = (launchId c.bytes :: Tab.get [] s.hif.launchIds p).take 256)

/-- LAUNCH with PLACE, POST and RECOVER, and the end of a job (R494 to R500, R311): a launch waits while a channel that it reads does, an
image that passes its checks starts its contexts and its job runs, a failed check reports, a POST sends its message to every listed core, a
RECOVER reports what its recovery answers, and a job whose contexts are over reports OK, or JOB_FAULTED with its partition's epoch closed.
It rests on the model's choices of assumptions 53, 55, 56, 141, 150. -/
def Obligations.Launches : Prop :=
  (∀ (s : State) (f n k p : Nat) (ecc : EccHits) (c : HCmd), fnPart f = some p → isMasthead s = false → Ready f n k 1 c s →
    procWaits s 2 = false → knownLaunch s p (launchId c.bytes) = false → (∀ st, rangesBad s f (namedRanges c.bytes) = some st → launchMode c.bytes = 0 →
      Completes (.launchPlace f n k ecc) s fun t => Reports f n c st s t ∧ t.hif.jobs = s.hif.jobs ∧ t.cores = s.cores ∧ BytesAs s t) ∧
    (launchHeld s f p c.bytes = true → exec (.launchPlace f n k ecc) s = .next s ∧ exec (.launchRecover f n k ecc) s = .next s) ∧
    (launchHeld s f p c.bytes = false →
    let image := fieldAt c.bytes 24 8
    let s1 := keepLaunch (markCmd s f n k .started) p (launchId c.bytes)
    (∀ e, launchMode c.bytes = 0 → rangesBad s f (namedRanges c.bytes) = none → imgBad s f p image = none → imgBusy s image = false →
      fieldAt c.bytes 32 8 = 0 → imgList s image = [e] → e.codeOff = 0 → e.argLen = 0 → Completes (.launchPlace f n k ecc) s fun t =>
        t.hif.jobs = s.hif.jobs ++ [{ launch := launchId c.bytes, part := p, origin := .command f n k, ctxs := [(e.core, e.ctx)] }] ∧
        (ctxAt t e.core e.ctx).st = .running ∧ (ctxAt t e.core e.ctx).pc = BitVec.ofNat 64 (e.entry / 2 % 32768 * 2) ∧
        (ctxAt t e.core e.ctx).base = BitVec.ofNat 18 (e.base / 64) ∧ (ctxAt t e.core e.ctx).x = [] ∧ BytesAs s t ∧ t.wct = s.wct ∧
        (∃ x ∈ (getHRing t f n).cmds, x.idx = k ∧ x.st = .placed) ∧ (getHRing t f n).done = (getHRing s f n).done) ∧
    (∀ st, launchMode c.bytes = 0 → rangesBad s f (namedRanges c.bytes) = none → imgBad s f p image = some st →
      Completes (.launchPlace f n k ecc) s fun t =>
      (st ≠ 0 → Reports f n c st s t) ∧ t.hif.jobs = s.hif.jobs ∧ t.cores = s.cores ∧ BytesAs s t) ∧
    (launchMode c.bytes = 1 → postBad s p c.bytes = none → postCores c.bytes ≠ [] → ringClass (getHRing s f n) ≠ 0 →
      (getHRing s f n).cmds = [c] → Completes (.launchPost f n k) s fun t =>
        t.hub.sendNo = s.hub.sendNo + (postCores c.bytes).length ∧ t.cores = s.cores ∧ BytesAs s t ∧
        (∀ i (h : i < (postCores c.bytes).length), ∃ e ∈ t.hub.sends, e.id = s.hub.sendNo + i ∧ e.dst = (postCores c.bytes)[i] ∧ e.kind = 0 ∧
          e.st = .sent) ∧
        (getHRing t f n).cmds = [{ c with st := .posting ((List.range (postCores c.bytes).length).map (s.hub.sendNo + ·)) }]) ∧
    (∀ st, launchMode c.bytes = 1 → postBad s p c.bytes = some st → Completes (.launchPost f n k) s fun t =>
      Reports f n c st s t ∧ t.hub = s.hub ∧ t.cores = s.cores ∧ BytesAs s t) ∧
    (launchMode c.bytes = 2 → recoverBad s f p c.bytes = none →
      ownersIdle (recoverFreeze (launchEcc s1 f p c.bytes ecc) ecc c.bytes).2 ecc c.bytes = true →
      let r := recoverRun (recoverFreeze (launchEcc s1 f p c.bytes ecc) ecc c.bytes).2 ecc f p c.bytes (.command f n k)
      (getHRing s f n).cmds = [c] → Completes (.launchRecover f n k ecc) s fun t => BytesAs r.2 t ∧ t.cores = r.2.cores ∧ t.wct = r.2.wct ∧
        t.hif.jobs = r.2.hif.jobs ∧ (r.1 ≠ 0 → Reports f n c r.1 s t) ∧ (r.1 = 0 → (getHRing t f n).cmds = [{ c with st := .placed }])) ∧
    (∀ st, launchMode c.bytes = 2 → recoverBad s f p c.bytes = some st → Completes (.launchRecover f n k ecc) s fun t =>
      Reports f n c st s t ∧ t.cores = s.cores ∧ t.wct = s.wct ∧ BytesAs s t))) ∧
  (∀ (s : State) (f n k : Nat) (c : HCmd) (j : Job), s.hif.jobs = [j] → j.part < 16 → j.cancel = none → j.origin = .command f n k →
    (getHRing s f n).cmds.find? (fun x => x.idx == k) = some c → (∀ x ∈ j.ctxs, ctxOver s x = true) → ledgerWaits s j = false → procWaits s 2 = false →
    Completes (.jobEnd j.part j.launch) s fun t => t.hif.jobs = [] ∧ (jobFaults s j = 0 → Reports f n c 0 s t ∧ BytesAs s t) ∧
      (jobFaults s j ≠ 0 → Reports f n c 0x47 s t ∧ ∀ e ms, epochOf t j.part ≠ .opened e ms))

/-- Smitum channels (R507, R537, R540, R556): GO puts the message of the request buffer on the PF's channel, a GO while BUSY is ignored and
counted, one in RECOVERY does nothing, MAILBOX puts its message on its ring's channel, and an answer goes back the way the request came (for HELLO).
It rests on the model's choices of assumptions 76, 146. -/
def Obligations.SmitumChannels : Prop :=
  ∀ s : State,
    (∀ vector m, s.fwc.busy = false → s.fwc.requests = [] → serving s = true →
      m = (memReadN 0 s.fwc.req 0 4096).take (64 + msgLen (memReadN 0 s.fwc.req 0 4096)) →
      refusal s { via := .waiting .pfMailbox, key := 0, msg := m, session := openId s 0 } = none →
      exec (.mboxGo vector) s = .next { trace s 0 6 with fwc := { s.fwc with
        mboxVector := BitVec.ofNat 11 vector, busy := true, requests := [{ ch := .pfMailbox, msg := m }] } }) ∧
    (∀ vector, s.fwc.st = 0 → exec (.mboxGo vector) s = .next s) ∧
    (∀ vector, s.fwc.st ≠ 0 → s.fwc.busy = true → exec (.mboxGo vector) s = .next { s with fwc := { s.fwc with
        mboxVector := BitVec.ofNat 11 vector, ignored := satAdd s.fwc.ignored 1 } }) ∧
    (∀ f n k c m, Ready f n k 10 c s → chanBusy s (.ring f n) = false → s.fwc.requests = [] → serving s = true →
      rangesBad s f (mailboxRanges c) = none → rangesHeld s f (mailboxRanges c) = false →
      m = devRead s (fieldAt c.bytes 8 8) (min 4096 (fieldAt c.bytes 16 4)) →
      refusal s { via := .waiting (.ring f n), key := f, msg := m, session := openId s f } = none →
      Completes (.mailbox f n k) s fun t => t.fwc = { s.fwc with requests := [{ ch := .ring f n, msg := m }] } ∧ BytesAs s t ∧
        (∃ x ∈ (getHRing t f n).cmds, x.idx = k ∧ x.st = .started) ∧ (getHRing t f n).done = (getHRing s f n).done ∧ t.cores = s.cores) ∧
    (∀ r, Asks (.waiting .pfMailbox) 1 r s → Completes (.hello (.waiting .pfMailbox)) s fun t =>
      t.fwc.requests = [] ∧ t.fwc.busy = false ∧ t.fwc.done = true ∧ t.hbm = s.hbm ∧ t.cores = s.cores ∧
        t.fwc.rsp = memWriteN 0 s.fwc.rsp 0 (response r.msg 0 (openId s 0) (helloBody s))) ∧
    (∀ f n c r, Asks (.waiting (.ring f n)) 1 r s → (getHRing s f n).cmds = [c] → cmdOp c = 10 → c.st = .started →
      (response r.msg 0 (openId s f) (helloBody s)).length ≤ fieldAt c.bytes 20 4 → Completes (.hello (.waiting (.ring f n))) s fun t =>
        t.fwc.requests = [] ∧ Reports f n c 0 s t ∧
          BytesAs (devWrite s (fieldAt c.bytes 24 8) (response r.msg 0 (openId s f) (helloBody s))) t) ∧
    (∀ m r, Asks (.mgmtPlain m) 1 r s → exec (.hello (.mgmtPlain m)) s =
      .next { s with sec := { s.sec with mgmtOut := response m 0 (openId s 17) (helloBody s) :: s.sec.mgmtOut } })

/-- Firmware messages (R541 to R549): HELLO, START of a READY module, LOG_READ of records in range, TRACE_SET, staging, commit and abort, and
FW_STATUS, whose body is open; and the writing of a log record. It rests on the model's choices of assumptions 79, 80, 81, 144, 160. -/
def Obligations.FirmwareMessages : Prop :=
  (∀ (s : State) (via : Via) (r : Req),
    let s0 := asked via s
    (Asks via 0x01 r s → exec (.hello via) s = .next (answer via r s s0 0 (helloBody s0))) ∧
    (Asks via 0x02 r s → s.fwc.st = 2 → exec (.start via) s = .next (answer via r s { s0 with fwc := { s0.fwc with st := 3 } } 0 [])) ∧
    (Asks via 0x02 r s → s.fwc.st ≠ 2 → s.fwc.st ≠ 3 → exec (.start via) s = .next (answer via r s s0 0x43 [])) ∧
    (∀ fails, Asks via 0x10 r s → r.at 12 4 = 0 → r.at 16 8 = 0 → ∃ (rs : List LogRec) (head : List Byte), exec (.logRead via fails) s =
      .next (answer via r s s0 0 (head ++ rs.flatMap logBytes)) ∧ rs.length ≤ min (r.at 8 4) 62 ∧ head.length = 24 ∧
        ∀ x ∈ rs, r.at 0 8 ≤ x.seq ∧ logSees s r.key x = true ∧ ∃ i, (i, x) ∈ s.log.ring) ∧
    (Asks via 0x11 r s → exec (.traceSet via) s =
      .next (answer via r s { s0 with log := { s0.log with traceEn := BitVec.ofNat 64 (r.at 0 8) } } 0 [])) ∧
    (Asks via 0x20 r s → r.at 0 8 = 0 → (∀ x ∈ (r.payload.drop 17).take 15, x = 0) → r.at 16 1 ≤ 1 → r.at 12 4 % 256 = 0 → 256 ≤ r.at 12 4 →
      r.at 12 4 ≤ 3840 → ∀ fails,
      let u := stage s0 r.session (r.at 8 4) (r.at 16 1 == 1) ((r.payload.drop 32 ++ List.replicate (r.at 12 4) 0).take (r.at 12 4)) fails
      exec (.fwStage via fails) s = .next (answer via r s u.2 u.1 [])) ∧
    (Asks via 0x21 r s → s.fwc.owner = some r.session → s.fwc.staging = true → LogRoom s → itemCount s.fwc.flash.boot ≠ 0xFFFFFFFF#32 →
      ∃ st t, exec (.fwCommit via false) s =
      .next (answer via r s t st []) ∧
        (verifyImage s (slotMem s (1 - activeSlot s)) = none → st = 0 ∧ activeSlot t = 1 - activeSlot s ∧
          t.fwc.flash.slots = s.fwc.flash.slots ∧ t.fwc.update = 2 ∧ t.fwc.owner = none ∧ t.fwc.staging = false) ∧
        (∀ e, verifyImage s (slotMem s (1 - activeSlot s)) = some e → st = e ∧ t = s0)) ∧
    (Asks via 0x21 r s → s.fwc.owner = some r.session → s.fwc.staging = true → LogRoom s →
      verifyImage s (slotMem s (1 - activeSlot s)) = none → ∃ t, exec (.fwCommit via true) s = .next (answer via r s t 0x55 []) ∧
        t.fwc = s0.fwc ∧ t.hbm = s.hbm ∧ t.cores = s.cores) ∧
    (Asks via 0x23 r s → s.fwc.owner = some r.session → s.fwc.staging = true → exec (.fwAbort via) s =
      .next (answer via r s { s0 with fwc := { s0.fwc with owner := none, staging := false, update := restingUpdate s } } 0 [])) ∧
    (Asks via 0x23 r s → s.fwc.owner.isSome = true → s.fwc.owner ≠ some r.session → exec (.fwAbort via) s = .next (answer via r s s0 0x43 [])) ∧
    (Asks via 0x24 r s → ∃ body, exec (.fwStatus via) s = .next (answer via r s { s0 with fresh := s0.fresh + 1 } 0 body))) ∧
  (∀ (s : State) (id : Nat) (data : List Byte), s.fwc.owner = none → s.fwc.update.toNat < 3 → data ≠ [] → data.length ≤ slotSize →
    let u := stage s id 0 true data false
    u.1 = 0 ∧ u.2.fwc.owner = some id ∧ u.2.fwc.staged = data.length ∧ u.2.fwc.update = 1 ∧ activeSlot u.2 = activeSlot s ∧
      memReadN 0xFF (slotMem u.2 (1 - activeSlot s)) 0 data.length = data) ∧
  (∀ (s : State) (id : Nat) (data : List Byte), s.fwc.owner = none → s.fwc.update.toNat < 3 → data ≠ [] → data.length ≤ slotSize →
    let u := stage s id 0 true data true
    u.1 = 0x55 ∧ u.2.fwc.owner = some id ∧ u.2.fwc.staged = 0 ∧ u.2.fwc.update = 1 ∧ activeSlot u.2 = activeSlot s ∧
      slotMem u.2 (activeSlot s) = slotMem s (activeSlot s)) ∧
  (∀ (s : State) (src : Nat) (q : LogRec) (rest : List LogRec), logQueue s src = q :: rest → 2 ≤ s.fwc.stage →
    (∀ k, k < 18 → (getSess s k).closing = false) →
    (getChan s (q.seq % 16384 / 64)).failed = false → exec (.logRecordWrite src) s = .next { s with log := { s.log with
      queues := Tab.set s.log.queues src rest, ring := Tab.set s.log.ring (q.seq % 16384) q } })

/-- SVN_RAISE (R550): with no update under way MIN_SVN becomes the SVN of the running image where that is larger and never less than it was;
in any other update state the answer is BUSY and nothing changes. -/
def Obligations.SvnRaise : Prop :=
  ∀ (s : State) (via : Via) (r : Req), Asks via 0x25 r s →
    (s.fwc.update = 0 → LogRoom s → ∃ t, exec (.svnRaise via) s = .next (answer via r s t 0 []) ∧
      t.fwc = { (asked via s).fwc with minSvn := max s.fwc.minSvn s.fwc.running.svn } ∧ s.fwc.minSvn ≤ t.fwc.minSvn ∧ t.hbm = s.hbm ∧
        t.sec = (asked via s).sec) ∧
    (s.fwc.update ≠ 0 → exec (.svnRaise via) s = .next (answer via r s (asked via s) 0x43 []))

/-- Activation and PLDM (R551 to R555): FW_ACTIVATE of a committed image defers it, a start with no emergency begins the swaps or ends the
request, an expired one ends, the swaps go one by one and the last runs the committed image, and PLDM stages and commits alike.
It rests on the model's choices of assumptions 80, 144. -/
def Obligations.Activation : Prop :=
  (∀ (s : State) (via : Via) (r : Req), Asks via 0x22 r s → r.at 0 4 ≤ 86400 → s.fwc.update = 2 → committedRuns s = false →
    exec (.fwActivate via) s = .next (taken via { trace (asked via s) 0 50 with fwc := { (asked via s).fwc with
      update := 3, deadline := s.aon + (if r.at 0 4 = 0 then 600 else r.at 0 4) * 50000000
      act := some { via := via, msg := r.msg, session := r.session } } })) ∧
  (∀ s : State,
    let m := slotMem s (activeSlot s)
    (s.fwc.update = 3 → calm s = true → s.aon < s.fwc.deadline → LogRoom s → s.fwc.act = none → Completes .activationStart s fun t =>
      (digestsOk m = true → hitless s m = true → t.fwc.update = 4 ∧ t.fwc.swaps = 0 ∧ t.fwc.running = s.fwc.running) ∧
        (digestsOk m = false ∨ hitless s m = false → t.fwc.update = 2 ∧ t.fwc.running = s.fwc.running) ∧ t.hbm = s.hbm ∧ t.cores = s.cores) ∧
    (s.fwc.update = 3 → s.fwc.deadline ≤ s.aon → s.fwc.act = none → exec .activationExpired s =
      .next { s with fwc := { s.fwc with update := 2, act := none } }) ∧
    (s.fwc.update = 4 → s.fwc.swaps = 0 → Completes .componentSwap s fun t =>
      t.fwc.swaps = 1 ∧ t.fwc.update = 4 ∧ (∀ c, Tab.find (fwImageOf m (activeSlot s)).comps 3 = some c →
        Tab.find t.fwc.running.comps 3 = some c)) ∧
    (s.fwc.update = 4 → 1 ≤ s.fwc.swaps → s.fwc.swaps < 16 → clusterBusy s (s.fwc.swaps - 1) = false →
      exec .componentSwap s = .next { s with fwc := { s.fwc with swaps := s.fwc.swaps + 1 } }) ∧
    (s.fwc.update = 4 → s.fwc.swaps = 18 → calm s = true → s.fwc.act = none → Completes .componentSwap s fun t =>
      t.fwc.update = 0 ∧ t.fwc.running = fwImageOf m (activeSlot s) ∧ t.fwc.version = t.fwc.running.version) ∧
    (s.fwc.update = 4 → s.fwc.swaps = 18 → calm s = false → exec .componentSwap s = .next { s with fwc := { s.fwc with update := 5 } }) ∧
    (s.fwc.update = 5 → calm s = true → s.fwc.act = none → Completes .pmcSwap s fun t =>
      t.fwc.update = 0 ∧ t.fwc.running = fwImageOf m (activeSlot s) ∧ t.fwc.version = t.fwc.running.version ∧ t.hbm = s.hbm) ∧
    (∀ off b data fails, pldmServed s = true →
      let u := stage s (openId s 17) off b data fails
      exec (.pldmUpdateComponent off b data fails) s = .next (pldmOut u.2 0 u.1)) ∧
    (pldmServed s = true → s.fwc.owner = some (openId s 17) → s.fwc.staging = true → LogRoom s → itemCount s.fwc.flash.boot ≠ 0xFFFFFFFF#32 →
      Completes (.pldmVerifyComplete false) s fun t =>
      (verifyImage s (slotMem s (1 - activeSlot s)) = none → activeSlot t = 1 - activeSlot s ∧ t.fwc.update = 2) ∧
        (∀ e, verifyImage s (slotMem s (1 - activeSlot s)) = some e → t = pldmOut s 1 e)) ∧
    (pldmServed s = true → s.fwc.owner = some (openId s 17) → s.fwc.staging = true → LogRoom s →
      verifyImage s (slotMem s (1 - activeSlot s)) = none → Completes (.pldmVerifyComplete true) s fun t => t.fwc = s.fwc ∧
        t.sec = (pldmOut s 1 0x55).sec ∧ t.hbm = s.hbm) ∧
    (pldmServed s = true → s.fwc.st ≠ 0 → s.fwc.update = 2 → committedRuns s = false → Completes .pldmActivateFirmware s fun t =>
      t.fwc.update = 3 ∧ t.fwc.deadline = s.aon + 600 * 50000000 ∧ t.sec = s.sec ∧ t.hbm = s.hbm))

/-- Sessions and credentials (R560 to R568, R589): SESSION_BEGIN leaves one pending handshake for its target, a first fragment is kept, the last one
opens the session or counts a failed proof, SESSION_END and the expiries end what they name, and CRED_SET writes its slot.
It rests on the model's choices of assumptions 80, 83, 160. -/
def Obligations.Sessions : Prop :=
  ∀ (s : State) (via : Via) (r : Req),
    let s0 := asked via s
    (∀ k, Asks via 0x40 r s → r.at 2 2 = 0 → targetKey (r.at 0 1) = some k → beginRefusal s0 k (r.at 1 1) = none →
      ∃ t body h, exec (.sessionBegin via) s = .next (answer via r s t 0 body) ∧ h ∈ t.sec.handshakes ∧ h.handle = s.sec.nextHandle ∧
        h.target = k ∧ h.start = s.aon ∧ h.frags = 0 ∧ (∀ x ∈ t.sec.handshakes, x.target = k → x = h) ∧ t.sec.sess = s0.sec.sess ∧ t.hbm = s.hbm) ∧
    (∀ k st, Asks via 0x40 r s → r.at 2 2 = 0 → targetKey (r.at 0 1) = some k → beginRefusal s0 k (r.at 1 1) = some st →
      exec (.sessionBegin via) s = .next (answer via r s s0 st [])) ∧
    (∀ h, Asks via 0x41 r s → r.at 4 1 = 0 → r.at 5 1 = 0 → r.at 6 2 ≤ 4000 → liveHands s = [h] → h.handle = r.at 0 4 → h.frags = 0 →
      s.sec.handshakes = [h] → ∃ t, exec (.sessionProve via) s = .next (answer via r s t 0 (leBytes 4 0)) ∧
        t.sec.handshakes = [{ h with proof := h.proof ++ ((r.payload.drop 8) ++ List.replicate (r.at 6 2) 0).take (r.at 6 2), frags := 1 }] ∧
        t.sec.sess = s0.sec.sess) ∧
    (∀ h, Asks via 0x41 r s → r.at 4 1 = h.frags → h.frags ≤ 1 → r.at 5 1 = 1 → r.at 6 2 ≤ 4000 → s.sec.handshakes = [h] → liveHands s = [h] →
      h.handle = r.at 0 4 → (logQueue s 0).length < 63 → (credOf s h.target).flags.getLsbD 0 = false → ∃ t st body,
        exec (.sessionProve via) s = .next (answer via r s t st body) ∧ t.sec.handshakes = [] ∧
        ((getSess t h.target).opened = true ∧ (getSess t h.target).id = s.sec.nextSession ∧ (getSess t h.target).secret = h.secret ∧
            (getSess t h.target).must = (credOf s h.target).flags.getLsbD 1 ∧ st = 0 ∨
          (getSess t h.target).fails = (getSess s0 h.target).fails + 1 ∧ (getSess t h.target).opened = (getSess s0 h.target).opened ∧ st = 0x41 ∧
            (5 ≤ (getSess t h.target).fails → (getSess t h.target).locked.isSome = true))) ∧
    (Asks via 0x42 r s → LogRoom s → (getSess s r.key).opened = true → ∃ t, exec (.sessionEnd via) s = .next (answer via r s t 0 []) ∧
      (getSess t r.key).opened = false ∧ (getSess t r.key).fails = (getSess s r.key).fails ∧ (∀ k, k ≠ r.key → getSess t k = getSess s0 k)) ∧
    (∀ h : Handshake, s.sec.handshakes = [h] → h.start + 500000000 ≤ s.aon → exec (.handshakeExpiry h.handle) s =
      .next { s with sec := { s.sec with handshakes := [] } }) ∧
    (∀ k u, targetKey u = some k → isLocked s k = false → exec (.lockoutExpiry u) s = .next (setSess s k { getSess s k with locked := none })) ∧
    ((getSess s 17).opened = true → (getSess s 17).last + 1800 * 50000000 ≤ s.aon → LogRoom s → Completes .mgmtSessionIdle s fun t =>
      (getSess t 17).opened = false ∧ (∀ k, k ≠ 17 → getSess t k = getSess s k) ∧ t.hbm = s.hbm ∧ t.cores = s.cores) ∧
    (Asks via 0x43 r s → slotAllowed r.key (r.at 0 1) = true → credFieldsOk (r.at 0 1) (r.at 1 1) (r.at 2 1) (r.at 3 1) (r.at 4 4) = true →
      LogRoom s → itemCount s.fwc.flash.creds ≠ 0xFFFFFFFF#32 → ∃ t, exec (.credSet via false) s = .next (answer via r s t 0 []) ∧
        Tab.find (credTable t) (r.at 0 1) = credFrom r ∧ (∀ k, k ≠ r.at 0 1 → Tab.find (credTable t) k = Tab.find (credTable s) k) ∧
        t.sec.sess = s0.sec.sess) ∧
    (Asks via 0x43 r s → slotAllowed r.key (r.at 0 1) = true → credFieldsOk (r.at 0 1) (r.at 1 1) (r.at 2 1) (r.at 3 1) (r.at 4 4) = true →
      LogRoom s → ∃ t, exec (.credSet via true) s = .next (answer via r s t 0x55 []) ∧ t.fwc.flash = s.fwc.flash ∧ t.sec = s0.sec) ∧
    (Asks via 0x43 r s → slotAllowed r.key (r.at 0 1) = false → ∀ fails, exec (.credSet via fails) s = .next (answer via r s s0 0x41 []))

/-- Partitions, debug and link encryption (R40, R572, R577 to R579, R583): PART_SETUP of free units assigns them, PART_TEARDOWN of an idle partition
frees them, PART_PEERS and DEBUG_SET write what they name, and KEY_SET_GO and KEY_SET_STOP make and drop a stream's keys.
It rests on the model's choices of assumptions 69, 85, 161. -/
def Obligations.Partitions : Prop :=
  ∀ (s : State) (via : Via) (r : Req),
    let s0 := asked via s
    let a := setupArgs r
    (Asks via 0x44 r s → setupFieldsOk r a = true → s.sec.debug = false → setupBusy s0 a = false → LogRoom s → ∃ t,
      exec (.partSetup via) s = .next (answer via r s t 0 []) ∧ (getPart t a.part).st = .setUp ∧ (getPart t a.part).regions = a.regions ∧
        (getPart t a.part).setupSeq = s.log.next ∧ (∀ n, n ≠ a.part → getPart t n = getPart s n) ∧
        (∀ g ∈ a.regions, (getRegion t g).st = .assigned ∧ (getRegion t g).part = BitVec.ofNat 4 a.part) ∧
        (∀ g, g ∉ a.regions → (getRegion s g).st ≠ .withdrawn → regionFailed t g = false → getRegion t g = getRegion s g) ∧
        (∀ n ∈ a.counters, (getCtr t n).assigned = true) ∧ t.host = s.host ∧
        (∀ y, (∀ g ∈ a.regions, g / 8 = y / 2 ^ 33 → bandMode s (g / 8) = a.placement) → hbmByte t y = hbmByte s y)) ∧
    (Asks via 0x44 r s → setupFieldsOk r a = true → s.sec.debug = true → exec (.partSetup via) s = .next (answer via r s s0 0x41 [])) ∧
    (Asks via 0x44 r s → setupFieldsOk r a = true → s.sec.debug = false → setupBusy s0 a = true →
      exec (.partSetup via) s = .next (answer via r s s0 0x43 [])) ∧
    (∀ p, Asks via 0x45 r s → r.at 0 1 = p → p < 16 → (getPart s p).st = .setUp → (getPart s p).clusters = 0 → (getPart s p).regions = [] →
      s.hif.jobs = [] → (logQueue s 0).length < 63 → (getSess s (p + 1)).closing = false → itemCount s.fwc.flash.creds ≠ 0xFFFFFFFF#32 → ∃ t, exec (.partTeardown via) s = .next (answer via r s t 0 []) ∧
        getPart t p = {} ∧ (getSess t (p + 1)).opened = false ∧ Tab.find (credTable t) (p + 1) = none ∧ (∀ n, n ≠ p → getPart t n = getPart s n) ∧
        (∀ n ∈ (getPart s p).counters, (getCtr t n).assigned = false) ∧ BytesAs s t) ∧
    (Asks via 0x46 r s → r.at 0 1 < 16 → r.at 1 1 = 0 → r.at 2 2 = 1 → r.at 4 4 < 2 ^ 20 → (r.at 4 4).testBit 15 = false →
      (getPart s (r.at 0 1)).st = .setUp → LogRoom s → ∃ t, exec (.partPeers via) s = .next (answer via r s t 0 []) ∧
        getPart t (r.at 0 1) = { getPart s (r.at 0 1) with peers := [(r.at 4 4 % 32768, r.at 4 4 / 65536)] } ∧
        (∀ n, n ≠ r.at 0 1 → getPart t n = getPart s n)) ∧
    (Asks via 0x47 r s → r.at 0 1 = 0 → LogRoom s → ∃ t, exec (.debugSet via) s = .next (answer via r s t 0 []) ∧
      t.sec.debug = false ∧ t.sec.debugSince = s.sec.debugSince ∧ t.hbm = s.hbm) ∧
    (Asks via 0x47 r s → r.at 0 1 = 1 → (∀ n, n < 16 → partLive (getPart s n) = false) → LogRoom s → ∃ t st,
      exec (.debugSet via) s = .next (answer via r s t st []) ∧ (Config.debugAllowed = true → st = 0 ∧ t.sec.debug = true ∧ t.sec.debugSince = true) ∧
        (Config.debugAllowed = false → st = 0x41 ∧ t = s0)) ∧
    (∀ f h, f ≤ 16 → s.sec.handshakes = [h] → h.target = f → Completes (.keySetGo f) s fun t => t = { s with sec := { s.sec with ide := t.sec.ide } } ∧
      ∃ ks, Tab.find t.sec.ide f = some ks ∧ ks.length = 6 ∧ (∀ g, g ≠ f → Tab.find t.sec.ide g = Tab.find s.sec.ide g) ∧
        ∀ i (h6 : i < ks.length), ks[i] =
          (((Config.shake256 (h.secret ++ labelBytes "IDE" ++ leBytes 1 f) 240).drop (40 * i)).take 32,
            ((Config.shake256 (h.secret ++ labelBytes "IDE" ++ leBytes 1 f) 240).drop (40 * i + 32)).take 8)) ∧
    (∀ f, f ≤ 16 → exec (.keySetStop f) s = .next { s with sec := { s.sec with ide := Tab.erase s.sec.ide f } })

/-- Messages of power, faults and identity (R586, R595, R601, R602, R606, R627, R630): each one's register or report.
It rests on the model's choices of assumptions 86, 87, 146. -/
def Obligations.AdminMessages : Prop :=
  ∀ (s : State) (via : Via) (r : Req),
    let s0 := asked via s
    (Asks via 0x30 r s → exec (.powerGet via) s =
      .next (answer via r s s0 0 (leBytes 4 (pwrStatus s0) ++ leBytes 8 (pwrTelem s0) ++ leBytes 8 (pwrTemp s0)))) ∧
    (Asks via 0x31 r s → r.key = 0 → exec (.powerSetCap via) s =
      .next (answer via r s { trace s0 1 17 with pwr := { s0.pwr with capHost := BitVec.ofNat 12 (min 4095 (r.at 0 2)) } } 0 [])) ∧
    (Asks via 0x31 r s → r.key = 17 → exec (.powerSetCap via) s =
      .next (answer via r s { trace s0 1 17 with pwr := { s0.pwr with capMgmt := BitVec.ofNat 12 (min 4095 (r.at 0 2)) } } 0 [])) ∧
    (Asks via 0x32 r s → r.at 0 1 ≤ 3 → ∃ t, exec (.powerSetLimit via) s = .next (answer via r s t 0 []) ∧
      t.pwr.reefLimit = BitVec.ofNat 2 (r.at 0 1) ∧ t.pwr.state = s.pwr.state ∧ t.hbm = s.hbm) ∧
    (Asks via 0x33 r s → r.at 0 1 = 2 → r.key = 17 → s.pwr.state = 4 → s.pwr.target = 4 → exec (.powerState via) s =
      .next (answer via r s { s0 with pwr := { s0.pwr with target := 5 } } 0 [])) ∧
    (Asks via 0x33 r s → r.at 0 1 = 2 → r.key ≠ 17 → exec (.powerState via) s = .next (answer via r s s0 0x41 [])) ∧
    (Asks via 0x33 r s → r.at 0 1 = 1 → s.pwr.state.toNat ≤ 3 → s.pwr.entering = false → s.hif.jobs = [] → ∃ t,
      exec (.powerState via) s = .next (answer via r s t 0 []) ∧ t.pwr = { s.pwr with entering := true, target := 4 } ∧ t.hbm = s.hbm) ∧
    (Asks via 0x34 r s → 70 ≤ r.at 0 1 → r.at 0 1 ≤ 100 → 70 ≤ r.at 1 1 → r.at 1 1 ≤ 90 → exec (.thermalSet via) s =
      .next (answer via r s { s0 with pwr := { s0.pwr with tJunction := r.at 0 1, tHbm := r.at 1 1 } } 0 [])) ∧
    (Asks via 0x60 r s → exec (.faultStatus via) s = .next (answer via r s s0 0 (leBytes 4 (hubFault s0) ++
      (List.range 4).flatMap (fun k => leBytes 8 (coreOutWord s0 k)) ++ leBytes 4 (hbmCaps s0) ++
      (List.range 16).flatMap fun p => leBytes 1 (portCode (getPort s0 p).st)))) ∧
    (Asks via 0x61 r s → r.at 0 1 = 6 → r.at 2 2 < 16 → ∃ t, exec (.unitRecommission via) s = .next (answer via r s t 0 []) ∧
      (getPort t (r.at 2 2)).epoch ≠ (getPort t (r.at 2 2)).expected ∧ (∀ p, p ≠ r.at 2 2 → getPort t p = getPort s p) ∧ t.hbm = s.hbm ∧
        t.cores = s.cores) ∧
    (Asks via 0x48 r s →
      let bs := report s0 (r.payload.take 32) ++ s0.sec.attest.flatten
      bs.length ≤ r.at 40 4 → spaceOf (r.at 32 8) bs.length = .host → exec (.attest via) s =
        .next (answer via r s (devWrite (trace s0 0 13) (r.at 32 8) bs) 0 (leBytes 4 bs.length))) ∧
    (Asks via 0x49 r s → r.at 0 1 = 0 → exec (.identity via) s = .next (answer via r s s0 0 Config.idKemKey)) ∧
    (Asks via 0x49 r s → r.at 0 1 = 1 → exec (.identity via) s = .next (answer via r s s0 0 Config.idDsaKey))

/-- SPDM (R588): VERSION, CAPABILITIES and ALGORITHMS in this order, the later requests only after them, each with its
response, while no change of another channel is under way (R580). It rests on the model's choices of assumptions 81, 88. -/
def Obligations.Spdm : Prop :=
  ∀ (s : State) (mg : Bool), serving s = true → procWaits s 0 = false → changeUnderWay s = false →
    let x := getSpdm s mg
    let said (phase code : Nat) (input : List Byte) : State := setSpdm s mg { phase := phase, out := (code, Config.spdmBody code input) :: x.out }
    exec (.getVersion mg) s = .next (said 1 1 []) ∧
    (1 ≤ x.phase → ∀ caps, exec (.getCapabilities mg caps) s = .next (said 2 2 caps)) ∧
    (x.phase < 1 → ∀ caps, exec (.getCapabilities mg caps) s = .next (said x.phase 0 [])) ∧
    (2 ≤ x.phase → ∀ a h : Nat, a.testBit 0 = true → h.testBit 0 = true → exec (.negotiateAlgorithms mg a h) s = .next (said 3 3 [])) ∧
    (3 ≤ x.phase → exec (.getDigests mg) s = .next (said x.phase 4 s.sec.chain)) ∧
    (3 ≤ x.phase → ∀ off len, exec (.getCertificate mg 0 off len) s = .next (said x.phase 5 ((s.sec.chain.drop off).take len))) ∧
    (3 ≤ x.phase → ∀ nonce, exec (.challenge mg nonce) s = .next (said x.phase 6 nonce)) ∧
    (3 ≤ x.phase → ∀ nonce, exec (.getMeasurements mg nonce 1) s = .next (said x.phase 7 (report s nonce))) ∧
    (x.phase < 3 → exec (.getDigests mg) s = .next (said x.phase 0 []) ∧ ∀ nonce, exec (.challenge mg nonce) s = .next (said x.phase 0 []))

/-- The host's side (R468, R469, R473, R476, R510, R511, R639): a failed read fails what owns it and is counted, the link comes up or stays
UNDERSPEC, the debug window reads and writes HBM only while debug is enabled, and the resets of a VF, of the PF and of the link put rings, event
queues and sessions at their reset values. It rests on the model's choices of assumptions 66, 67. -/
def Obligations.HostSide : Prop :=
  ∀ s : State,
    (∀ f n, f ≤ 16 → n < ringCount f → ringServed s f (getHRing s f n) = true → Completes (.completionFailure f (.doorbell n)) s fun t =>
      (getHRing t f n).st = .error ∧ (getHRing t f n).cause = 2 ∧ t.hif.aer = s.hif.aer + 1 ∧ t.hbm = s.hbm ∧ t.cores = s.cores) ∧
    (∀ f n k op c, Ready f n k op c s → (op = 1 ∨ op = 2 ∨ op = 4 ∨ op = 10) → Completes (.completionFailure f (.command n k)) s fun t =>
      Reports f n c 0x48 s t ∧ t.hif.aer = s.hif.aer + 1 ∧ BytesAs s t ∧ t.cores = s.cores) ∧
    (∀ f c n r b, f ≤ 16 → c < 256 → n < 8 → findRun (getCore s c) n r.seq = some r →
      r.bursts.find? (fun x => x.idx == b.idx && hostRead x) = some b →
      exec (.completionFailure f (.descriptor c n r.seq b.idx)) s =
        .next (finishBurst { s with hif := { s.hif with aer := s.hif.aer + 1 } } c r b stUncorr false)) ∧
    (∀ speed width flit, s.pins.pcieInReset = false → s.fwc.st ≠ 0 → s.pwr.state ≠ 5 → 3 ≤ speed → speed ≤ 6 → (width = 4 ∨ width = 8 ∨ width = 16) →
      s.hif.link.state ≠ 2 → exec (.linkTraining speed width flit) s = .next { s with hif := { s.hif with link :=
        { state := 2, speed := BitVec.ofNat 4 speed, width := BitVec.ofNat 4 (widthCode width), flit := flit
          retrains := s.hif.link.retrains, attempts := 0 } } }) ∧
    (∀ speed width flit, s.pins.pcieInReset = false → s.fwc.st ≠ 0 → s.pwr.state ≠ 5 → speed < 3 → s.hif.link.state ≠ 2 → s.hif.link.attempts = 2 →
      Completes (.linkTraining speed width flit) s fun t => t.hif.link.state = 3 ∧ t.hif.link.retrains = s.hif.link.retrains ∧ t.hbm = s.hbm) ∧
    (∀ i off d len, s.sec.debug = true → outsideStream s 0 i = false → off + d.length ≤ hbmEnd → rangeWaits s off d.length = false → rangeFailed s off d.length = false →
      exec (.bar2Access i off (some d) len []) s = .next (hbmWrite s off d)) ∧
    (∀ i off len, s.sec.debug = true → outsideStream s 0 i = false → off + len ≤ hbmEnd → rangeWaits s off len = false → rangeFailed s off len = false →
      exec (.bar2Access i off none len []) s = .next { s with hif := { s.hif with bar2Back := (List.range len).map fun j => hbmByte s (off + j) } }) ∧
    (∀ i off d len ecc, s.sec.debug = false ∨ outsideStream s 0 i = true → exec (.bar2Access i off d len ecc) s =
      .next { s with hif := { s.hif with aer := s.hif.aer + 1 } }) ∧
    (∀ f, 1 ≤ f → f ≤ 16 → s.hif.jobs = [] → Completes (.flrVf f) s fun t => getFn t f = {} ∧ getEvq t f = {} ∧ (LogRoom s → (getSess t f).opened = false) ∧
      Tab.find t.sec.ide f = none ∧ (∀ g, g ≠ f → getFn t g = getFn s g) ∧ BytesAs s t) ∧
    (s.hif.jobs = [] → s.hif.selftest = none → Completes .flrPf s fun t =>
      (∀ f, f ≤ 16 → getFn t f = {} ∧ ((logQueue s 0).length < 40 → (getSess t f).opened = false)) ∧
      t.hif.vfEnable = false ∧ t.hif.numVfs = 0 ∧ t.fwc.busy = false ∧ t.fwc.done = false ∧ (s.fwc.st = 3 → t.fwc.st = 2) ∧ BytesAs s t) ∧
    (s.hif.jobs = [] → s.hif.selftest = none → Completes .hotReset s fun t =>
      (∀ f, f ≤ 16 → getFn t f = {} ∧ ((logQueue s 0).length < 40 → (getSess t f).opened = false)) ∧
      t.hif.link = {} ∧ t.sec.ide = [] ∧ t.hif.aer = 0 ∧ (s.fwc.st = 3 → t.fwc.st = 2) ∧ BytesAs s t)

/-- Units that leave service and return (R530, R585, R613, R616, R619 to R626): a core that leaves is reset at once, a lost spar die takes its cores,
a lockstep mismatch destroys every session secret and link key,
a firmware watchdog loads its processor again until the third expiry within ten minutes, recommission gives a unit its epoch, and a failing
core is retired. It rests on the model's choices of assumption 74. -/
def Obligations.UnitFaults : Prop :=
  ∀ s : State,
    (∀ c p cause, coreLive s c = true → physOf s c = some p → 1 ≤ cause → cause ≤ 4 → s.hif.jobs = [] → s.hif.flrs = [] → Completes (.coreOut c cause) s fun t =>
      (getPhys t p).out = some cause ∧ (getPhys t p).expected = (getPhys s p).expected + 1 ∧ getCore t c = offCore s c (getCore s c) ∧
        (∀ d, d ≠ c → getCore t d = getCore s d) ∧ (∀ q, q ≠ p → getPhys t q = getPhys s q) ∧ t.hbm = s.hbm ∧ t.host = s.host) ∧
    (∀ c j, c < 256 → coreGone s c = true → s.hif.jobs = [j] → jobFenced s j = true → j.counter = none → Completes (.coreFenceTimeout c) s fun t =>
      t.hif.jobs = [] ∧ BytesAs s t ∧ ∀ f n k d, j.origin = .command f n k → (getHRing s f n).cmds.find? (fun x => x.idx == k) = some d →
        Reports f n d j.endStatus s t) ∧
    (∀ spar cause, spar < 2 → 1 ≤ cause → cause ≤ 3 → sparLost s spar = false → s.hif.jobs = [] → s.hif.flrs = [] → Completes (.sparLost spar cause) s fun t =>
      sparLost t spar = true ∧ (∀ c, c / 128 = spar → (getCore t c).runs = [] ∧ (getCore t c).spad.bytes = (getCore s c).spad.bytes ∧ ∀ n, ctxAt t c n = {}) ∧ (∀ c, c / 128 ≠ spar → getCore t c = getCore s c) ∧
        (sparLost s (1 - spar) = true → t.hub.moduleFault = true) ∧ BytesAs s t) ∧
    (∀ spar, spar < 2 → s.hif.jobs = [] → s.hif.flrs = [] → Completes (.edgeSwitchFailure spar) s fun t => t.hub.moduleFault = true ∧
      (s.pwr.state.toNat ≤ 3 → s.pwr.entering = false → t.pwr = { s.pwr with entering := true, target := 4 }) ∧ BytesAs s t ∧ t.cores = s.cores) ∧
    (s.hif.jobs = [] → s.hif.flrs = [] → Completes .lockstep s fun t => (∀ k, k < 18 → (getSess t k).secret = [] ∧
        ((getSess t k).opened = true → (getSess t k).closing = true) ∧ ((logQueue s 0).length < 40 → (getSess t k).opened = false)) ∧
        (∀ p, p < 16 → portOpen (getPort s p) = true → s.fwc.st ≠ 0 → (getPort t p).st = .training ∧ (getPort t p).linkSecret = [] ∧
          (getPort t p).txKey = [] ∧ (getPort t p).rxKey = []) ∧ t.sec.handshakes = [] ∧ t.sec.ide = [] ∧
      t.fwc.mismatches = recent s s.fwc.mismatches ++ [s.aon] ∧ t.sec.attestNo = s.sec.attestNo + 1 ∧
        (2 ≤ (recent s s.fwc.mismatches).length → t.hub.moduleFault = true) ∧ BytesAs s t ∧ t.cores = s.cores) ∧
    (∀ src, procRuns s src = true → (recent s (Tab.get [] s.fwc.expiries src)).length < 2 → Completes (.fwWatchdog src) s fun t =>
      Tab.get [] t.fwc.expiries src = recent s (Tab.get [] s.fwc.expiries src) ++ [s.aon] ∧ t.fwc.dead = s.fwc.dead ∧
        t.hub.moduleFault = s.hub.moduleFault ∧ t.hbm = s.hbm ∧ t.cores = s.cores) ∧
    (∀ src, procRuns s src = true → 2 ≤ (recent s (Tab.get [] s.fwc.expiries src)).length → s.hif.jobs = [] → Completes (.fwWatchdog src) s fun t =>
      src ∈ t.fwc.dead ∧ (src < 0x10 → t.hub.moduleFault = true) ∧ (0x10 ≤ src → t.hub.withdrawnCtl.getLsbD (src - 0x10) = true) ∧ BytesAs s t) ∧
    (∀ spar row pcol passes, spar < 2 → row < 8 → pcol < 17 →
      let p := physId spar row pcol
      let x := getPhys s p
      x.retired = false → sparLost s spar = false → x.epoch ≠ x.expected → s.pwr.state.toNat < 4 → procWaits s (ctlSource s p) = false →
      (passes = true ∨ x.out = none) →
      posExhausted s p = false → Completes (.coreRecommission spar row pcol passes) s fun t => (getPhys t p).epoch = x.expected ∧
        (getPhys t p).expected = x.expected ∧ (getPhys t p).out = none ∧ (∀ q, q ≠ p → getPhys t q = getPhys s q) ∧ t.hbm = s.hbm) ∧
    (∀ spar row pcol, spar < 2 → row < 8 → pcol < 17 →
      let p := physId spar row pcol
      let x := getPhys s p
      x.retired = false → sparLost s spar = false → x.epoch ≠ x.expected → s.pwr.state.toNat < 4 → procWaits s (ctlSource s p) = false →
      (x.out = some 1 ∨ x.out = some 2) →
      let u := failWhole s p
      let gone := displaced u (retiredRow u spar row pcol)
      (coresBusy u gone = false → Completes (.coreRecommission spar row pcol false) s fun t => (getPhys t p).retired = true ∧ t.hbm = s.hbm ∧
        t.cores = s.cores) ∧
      (coresBusy u gone = true → s.hif.jobs = [] → s.hif.flrs = [] → Completes (.coreRecommission spar row pcol false) s fun t =>
        getPhys t p = getPhys u p ∧ t.hbm = s.hbm ∧ (∀ c ∈ gone, ∀ n, n < 8 → (ctxAt s c n).st ≠ .idle → (ctxAt t c n).killPending = true) ∧
          ∀ c, c ∉ gone → getCore t c = getCore s c)) ∧
    (∀ cl, cl < 16 → (getCtlEpoch s cl).epoch ≠ (getCtlEpoch s cl).expected → 0x10 + cl ∉ s.fwc.dead → procWaits s (0x10 + cl) = false → sparLost s (cl / 8) = false →
      s.pwr.state.toNat < 4 → Completes (.controlCoreRecommission cl) s fun t =>
        getCtlEpoch t cl = { expected := (getCtlEpoch s cl).expected, epoch := (getCtlEpoch s cl).expected } ∧
        (∀ d, d ≠ cl → getCtlEpoch t d = getCtlEpoch s d) ∧ t.hbm = s.hbm ∧ t.cores = s.cores) ∧
    (∀ st kept, st < 8 → (getStack s st).epoch ≠ (getStack s st).expected → s.pwr.state ≠ 5 → s.hbm.waiting = [] → s.hif.jobs = [] → s.hif.flrs = [] →
      Completes (.stackRecommission st kept [] []) s fun t =>
      (getStack t st).epoch = (getStack s st).expected ∧ (getStack t st).trained = true ∧ (getStack t st).selfRefresh = false ∧ t.cores = s.cores ∧
        (kept = true → (getStack t st).content = (getStack s st).content ∧ BytesAs s t) ∧
        (kept = false → (getStack t st).content = (getStack s st).content + 1 ∧
          ∀ a, hbmByte t a = if (hbmMap s a).1 = st then 0 else hbmByte s a)) ∧
    (∀ p good, p < 16 → (getPort s p).epoch ≠ (getPort s p).expected → s.pwr.state ≠ 5 → s.fwc.st ≠ 0 → s.hif.jobs = [] → s.hif.flrs = [] →
      Completes (.portRecommission p good) s fun t =>
      (getPort t p).epoch = (getPort s p).expected ∧ (getPort t p).st = .training ∧
        (getPort t p).bad = (List.range 9).filter (fun l => !good.contains l) ∧ BytesAs s t ∧ t.cores = s.cores) ∧
    (∀ u, (suspAt s 3 u.kind u.id).active = true → (suspAt s 3 u.kind u.id).since + 50000000 ≤ s.aon → Completes (.boundResume u) s fun t =>
      (suspAt t 3 u.kind u.id).active = false ∧ t.hbm = s.hbm ∧ t.cores = s.cores ∧ t.fab = s.fab)

/-- Supply, cap and thermal loops, forces (R592, R593, R601 to R605): an input outside 36 V to 44 V is a power emergency and below 36 V forces
reef 3, a shutdown level turns the module Off with its cause, the cap loop deepens its request above the cap, a hot sample asks for a
deeper reef, and a junction at 105 degrees forces reef 3. It rests on the model's choices of assumption 72. -/
def Obligations.SupplyAndThermal : Prop :=
  ∀ s : State,
    (∀ mv, isOff s = false → mv < 36000 → Completes (.inputOutOfRange mv) s fun t => t.pwr.forceInput = true ∧ t.pwr.inputBad = true ∧
      t.pwr.powerEmerg = true ∧ (s.pwr.state.toNat ≤ 3 → s.pwr.entering = false → t.pwr.target = 3) ∧ t.pwr.state = s.pwr.state ∧ t.hbm = s.hbm) ∧
    (∀ mv, isOff s = false → 44000 < mv → Completes (.inputOutOfRange mv) s fun t => t.pwr.forceInput = s.pwr.forceInput ∧
      t.pwr.inputBad = true ∧ t.pwr.powerEmerg = true ∧ t.hbm = s.hbm) ∧
    (∀ mv, 36000 ≤ mv → mv ≤ 44000 → Completes (.inputInRange mv) s fun t => t.pwr.forceInput = false ∧ t.pwr.inputBad = false ∧
      t.pwr.state = s.pwr.state ∧ t.hbm = s.hbm) ∧
    (∀ mv, isOff s = false → (mv < 34000 ∨ 46000 < mv) → Completes (.inputShutdownLevel mv) s fun t =>
      t.pwr.lastShutdown = (if mv < 34000 then 1 else 2) ∧ t.pins.step = 1 ∧ t.pins.shutHold = true ∧ t.hbm.bytes = [] ∧ t.cores = [] ∧
        t.log.ring = [] ∧ t.host = s.host ∧ t.fwc.flash = s.fwc.flash) ∧
    (isOff s = false → Completes .thermalShutdown s fun t => t.pwr.lastShutdown = 3 ∧ t.pwr.thermHold = true ∧ t.pins.thermtripN = false ∧
      t.pins.step = 1 ∧ t.hbm.bytes = [] ∧ t.cores = []) ∧
    (∀ ma, isOff s = false → 56000 < ma → Completes (.overcurrent ma) s fun t => t.pwr.forceCurrent = true ∧ t.pwr.powerEmerg = true ∧
      (s.pwr.state.toNat ≤ 3 → s.pwr.entering = false → t.pwr.target = 3) ∧ t.hbm = s.hbm) ∧
    (Completes .overcurrentRelease s fun t => t.pwr.forceCurrent = false ∧ t.pwr.forceInput = s.pwr.forceInput ∧ t.pwr.state = s.pwr.state ∧
      t.hbm = s.hbm) ∧
    (∀ rail out, isOff s = false → Completes (.railOutOfRegulation rail out) s fun t => (rail ∈ t.pwr.railsBad ↔ out = true) ∧
      (out = true → t.pwr.powerEmerg = true) ∧ (∀ r, r ≠ rail → (r ∈ t.pwr.railsBad ↔ r ∈ s.pwr.railsBad)) ∧ t.hbm = s.hbm) ∧
    (∀ watts, pmcOn s = true → effectiveCap s.pwr < watts → Completes (.capLoop watts) s fun t =>
      t.pwr.capReq = min 3 (s.pwr.capReq + 1) ∧ t.pwr.capLow = 0 ∧ t.pwr.state = s.pwr.state ∧ t.hbm = s.hbm) ∧
    (∀ watts, pmcOn s = true → watts * 10 < effectiveCap s.pwr * 9 → Completes (.capLoop watts) s fun t => t.pwr.capUnmet = false ∧
      t.pwr.capReq = (if 9 ≤ s.pwr.capLow then s.pwr.capReq - 1 else s.pwr.capReq) ∧ t.pwr.state = s.pwr.state ∧ t.hbm = s.hbm) ∧
    (∀ spar0 spar1 mast engines hbm : List Nat, spar0.length = 24 → spar1.length = 24 → mast.length = 4 → engines.length = 4 → hbm.length = 8 →
      isOff s = false → pmcOn s = true → s.pwr.thermLast = none →
      (∃ x ∈ spar0 ++ spar1 ++ mast ++ engines, 2 * clampTemp 70 100 s.pwr.tJunction < x) →
      Completes (.thermalSample spar0 spar1 mast engines hbm) s fun t => t.pwr.thermReq = min 3 (s.pwr.thermReq + 1) ∧
        t.pwr.thermLast = some s.aon ∧ t.pwr.junctions = spar0 ++ spar1 ++ mast ++ engines ∧ t.pwr.hbmTemps = hbm ∧ t.hbm = s.hbm) ∧
    (isOff s = false → Completes .junctionForce s fun t => t.pwr.forceJunction = true ∧ t.pwr.thermalEmerg = true ∧
      (s.pwr.state.toNat ≤ 3 → s.pwr.entering = false → t.pwr.target = 3) ∧ t.hbm = s.hbm) ∧
    (Completes .junctionForceRelease s fun t => t.pwr.forceJunction = false ∧ (s.pwr.hot = false → t.pwr.thermalEmerg = false) ∧ t.hbm = s.hbm) ∧
    (∀ vin iin pin energy, pmcOn s = true → vin < 65536 → iin < 65536 → pin < 65536 → Completes (.telemetryUpdate vin iin pin energy) s fun t =>
      t.pwr.vin = BitVec.ofNat 16 vin ∧ t.pwr.iin = BitVec.ofNat 16 iin ∧ t.pwr.pin = BitVec.ofNat 16 pin ∧
        t.pwr.pinMax = (if pin ≤ s.pwr.pinMax.toNat then s.pwr.pinMax else BitVec.ofNat 16 pin) ∧ t.pwr.state = s.pwr.state ∧ t.hbm = s.hbm)

/-- Power states (R595 to R599, R417): a reef step goes one state toward the effective reef state, bare-pole entry cancels every job and then
loses the cores' state, exit returns to reef 3, and standby puts every stack to self-refresh and closes the stay switches.
It rests on the model's choices of assumption 73. -/
def Obligations.PowerStates : Prop :=
  ∀ s : State,
    (s.pwr.state.toNat < reefGoal s → reefGoal s ≤ 3 → procWaits s 1 = false → s.pwr.entering = false → Completes .reefStep s fun t =>
      t.pwr.state = s.pwr.state + 1 ∧ t.hbm = s.hbm ∧ t.cores = s.cores) ∧
    (reefGoal s < s.pwr.state.toNat → s.pwr.state.toNat ≤ 3 → procWaits s 1 = false → s.pwr.entering = false → Completes .reefStep s fun t =>
      t.pwr.state = s.pwr.state - 1 ∧ t.hbm = s.hbm ∧ t.cores = s.cores) ∧
    (∀ t0, s.pwr.hotSince = some t0 → t0 + 50000000 ≤ s.aon → pmcOn s = true → s.pwr.state.toNat ≤ 3 → s.pwr.entering = false → s.hif.jobs = [] → s.hif.flrs = [] →
      Completes .thermalBarePole s fun t => t.pwr = { s.pwr with entering := true, target := 4 } ∧ t.hbm = s.hbm ∧ t.cores = s.cores) ∧
    (s.pwr.entering = true → s.hif.jobs = [] → s.hif.flrs = [] → procWaits s 1 = false → s.pwr.state ≠ 4 → Completes .barePoleEntry s fun t => t.pwr.state = 4 ∧ t.pwr.entering = false ∧
      (∀ c, (getCore t c).runs = [] ∧ (getCore t c).spad.bytes = (getCore s c).spad.bytes ∧ ∀ n, ctxAt t c n = {}) ∧ (∀ p, p < 272 → (getPhys t p).expected = (getPhys s p).expected + 1) ∧ t.hbm = s.hbm ∧ t.host = s.host) ∧
    (s.pwr.state = 4 → s.pwr.target.toNat ≤ 3 → procWaits s 1 = false → Completes .barePoleExit s fun t => t.pwr.state = 3 ∧ t.hbm = s.hbm ∧ t.cores = s.cores) ∧
    (s.pwr.state = 4 → s.pwr.target = 5 → procWaits s 1 = false → s.hif.jobs = [] → s.hif.selftest = none → s.hbm.waiting = [] →
      Completes .standbyEntry s fun t => t.pwr.state = 5 ∧
      (∀ k, k < 8 → (getStack t k).selfRefresh = true ∧ (getStack t k).trained = false) ∧
      (∀ p, p < 16 → (getPort t p).st = .down ∧ (getPort t p).expected = (getPort s p).expected + 1) ∧
      (∀ n, n < 2 → (getStay t n).st ≠ .opened) ∧ t.hif.link = {} ∧ BytesAs s t) ∧
    (s.pwr.state = 5 → s.pwr.target.toNat ≤ 3 → procWaits s 1 = false → Completes .standbyExit s fun t => t.pwr.state = 4 ∧
      (∀ k, k < 8 → (getStack t k).expected = (getStack s k).expected + 1) ∧ BytesAs s t)

/-- Pins and resets (R592, R593, R600, R658 to R668): a power-on reset starts the always-on logic anew, MOD_EN takes the module out of Off and into
it, MOD_RST_N holds the module reset and PERST# the PCIe controller's; what each leaves is stated with it.
It rests on the model's choices of assumptions 70, 93. -/
def Obligations.PinsAndResets : Prop :=
  ∀ s : State,
    (Completes .powerOnReset s fun t => t.aon = 0 ∧ (∀ die, aclk t die = 0 ∧ nclk t die = 0) ∧ t.xclk = 0 ∧ t.pwr.lastShutdown = s.pwr.lastShutdown ∧ t.fab.stay = s.fab.stay ∧
      t.hbm.bytes = [] ∧ t.cores = [] ∧ t.log.ring = [] ∧ t.fwc.flash = s.fwc.flash ∧
        (s.pins.modEn = true → s.pwr.thermHold = false → s.pins.modRstN = true → t.pins.step = 3) ∧ (s.pins.modEn = false → t.pins.step = 1)) ∧
    (isOff s = true → s.pwr.thermHold = false → s.pins.modEn = false → Completes .modEnRise s fun t => t.pins.modEn = true ∧
      t.pins.shutHold = false ∧ t.pins.step = (if s.pins.modRstN then 3 else 2) ∧ t.hbm = s.hbm ∧ t.cores = s.cores) ∧
    (Completes .modEnFall s fun t => t.pins.modEn = false ∧ t.pins.step = 1 ∧ t.pwr.lastShutdown = 4 ∧ t.hbm.bytes = [] ∧ t.cores = [] ∧
      t.fwc.flash = s.fwc.flash) ∧
    (isOff s = false → Completes .modRstNFall s fun t => t.pins.modRstN = false ∧ t.pins.step = 2 ∧ t.fwc.st = 1 ∧ t.fwc.stage = 0 ∧
      (∀ c, (getCore t c).runs = [] ∧ (getCore t c).spad.bytes = (getCore s c).spad.bytes ∧ ∀ n, ctxAt t c n = {}) ∧
      t.hif = {} ∧ t.parts = [] ∧ t.hbm.bytes = s.hbm.bytes ∧ t.log.ring = s.log.ring ∧ t.sec.sess = [] ∧
        t.sec.debug = false ∧ t.fwc.flash = s.fwc.flash ∧ t.fwc.minSvn = s.fwc.minSvn) ∧
    (s.pins.step = 2 → exec .modRstNRise s = .next { s with pins := { s.pins with modRstN := true, step := 3, pcieInReset := !s.pins.perstN } }) ∧
    (s.fwc.stage < 5 → exec .perstFall s = .next { s with
      hif := { s.hif with link := {} }, pins := { s.pins with perstN := false, pcieInReset := true } }) ∧
    (5 ≤ s.fwc.stage → s.hif.jobs = [] → s.hif.selftest = none → Completes .perstFall s fun t => t.hif.link = {} ∧ t.pins.perstN = false ∧
      t.pins.pcieInReset = true ∧ (∀ f, f ≤ 16 → getFn t f = {}) ∧ BytesAs s t) ∧
    (exec .perstRise s = .next { s with pins := { s.pins with perstN := true, pcieInReset := decide (s.pins.step < 3) } })

/-- Boot stages (R410, R419, R534 to R536, R544, R585): stage 0 boots and measures the slot of the boot record, or the other one, or goes to RECOVERY,
stage 1 starts the firmware, stage 2 trains every stack, stage 3 commissions the spar dies, and stage 4 scrubs the HBM and is READY; what verifies is an image of R534,
and at stage 1 its digests. It rests on the model's choices of assumptions 11, 89, 91, 92, 143. -/
def Obligations.BootStages : Prop :=
  ∀ s : State,
    (∀ bad, booting s 0 = true → activeSlot (loseCopies s (bad.filter (·.item == .bootRecord))) = 0 → verifyImage s (slotMem s 0) = none →
      Completes (.bootStage0 bad) s fun t => t.fwc.stage = 1 ∧ t.fwc.slot = false ∧
      t.fwc.fallback = false ∧ t.fwc.running = fwImageOf (slotMem s 0) 0 ∧ t.sec.attestNo = s.sec.attestNo + 5 ∧ t.hbm = s.hbm) ∧
    (∀ bad, booting s 0 = true → activeSlot (loseCopies s (bad.filter (·.item == .bootRecord))) = 0 → verifyImage s (slotMem s 0) ≠ none →
      verifyImage s (slotMem s 1) = none → Completes (.bootStage0 bad) s fun t => t.fwc.stage = 1 ∧ t.fwc.slot = true ∧
      t.fwc.fallback = true ∧ t.fwc.running = fwImageOf (slotMem s 1) 1 ∧ t.hbm = s.hbm) ∧
    (∀ bad, booting s 0 = true → verifyImage s (slotMem s 0) ≠ none → verifyImage s (slotMem s 1) ≠ none → Completes (.bootStage0 bad) s fun t => t.fwc.st = 0 ∧ t.hif.link = {} ∧
      (∀ p, (getPort t p).st = .down) ∧ t.hbm = s.hbm) ∧
    (∀ bad, booting s 1 = true → s.fwc.requests = [] → digestsOk (slotMem s (if s.fwc.slot then 1 else 0)) = true → Completes (.bootStage1 bad) s fun t => t.fwc.stage = 2 ∧
      t.fwc.version = s.fwc.running.version ∧ t.hbm = s.hbm ∧ t.cores = s.cores ∧
      ((∀ x ∈ bad, x.item ≠ .credentials) → credTable t = credTable s) ∧
      ({ item := .credentials, second := false } ∈ bad → { item := .credentials, second := true } ∈ bad → credTable t = [])) ∧
    (∀ bad, booting s 1 = true → digestsOk (slotMem s (if s.fwc.slot then 1 else 0)) = false → Completes (.bootStage1 bad) s fun t => t.fwc.st = 0 ∧ t.fwc.stage = 1) ∧
    (∀ failed restored : List Nat, (∀ x ∈ failed ++ restored, x < 256) → booting s 2 = true → s.hbm.waiting = [] → Completes (.bootStage2 .passes failed restored) s fun t => t.fwc.stage = 3 ∧ (∀ k, k < 8 → (getStack t k).trained = true ∧
      (getStack t k).selfRefresh = false ∧ (getStack t k).epoch = (getStack s k).expected) ∧ t.hbm.bytes = s.hbm.bytes) ∧
    (∀ failed restored : List Nat, (∀ x ∈ failed ++ restored, x < 256) → booting s 2 = true → Completes (.bootStage2 .fails failed restored) s fun t => t.pins.step = 1 ∧ t.pins.shutHold = true) ∧
    (booting s 3 = true → s.hif.jobs = [] → Completes (.bootStage3 .passes) s fun t => t.fwc.stage = 4 ∧ t.hbm = s.hbm ∧
      (∀ p, 4 ≤ p → p < 16 → (getPort s p).light = true → (getPort t p).st = .training)) ∧
    (booting s 4 = true → Completes .bootStage4 s fun t => t.fwc.st = 2 ∧ t.fwc.stage = 5 ∧ t.cores = s.cores ∧
      (∀ r, r < 768 → (getRegion s r).st ≠ .withdrawn → (getRegion s r).st ≠ .assigned → (getRegion t r).st = .free) ∧
      (∀ a, (getRegion s (a / gib)).st ≠ .withdrawn → (getRegion s (a / gib)).st ≠ .assigned → hbmByte t a = 0))

/-- Unused offsets (R635), of a read, of a write and of a write that may clear W1C bits, by whatever agent. (A host's request outside the IDE
stream to which its function's session is bound, or in RECOVERY, never reaches an offset, R536, R572: RegisterAccess says what it does.) -/
def Obligations.UnusedOffsets : Prop :=
  ∀ (s : State) (a : BarAccess) (v : W64) (same : Bool), accessFn a ≤ 16 → (a.agent = .host → s.fwc.st ≠ 0) → refusesTlp s a = false → regHit a = .unused →
    exec (.readClear a) s = .next { s with hif := { s.hif with readBack := some 0 } } ∧
    exec (.registerWrite a v) s = .next s ∧ exec (.w1cClear a v same) s = .next s

/-- Register accesses (R13, R123, R437, R512, R556, R572, R633, R634, R636, R638): a request outside the IDE stream to which
its function's session is bound changes nothing, nor does one in RECOVERY, a read returns the register's bytes and clears the RC fields of the half it
returns, a bad access is counted, a read-only register ignores a write and counts it, and writes reach their fields.
It rests on the model's choices of assumptions 94, 95, 145. -/
def Obligations.RegisterAccess : Prop :=
  ∀ (s : State) (a : BarAccess) (v : W64), accessFn a ≤ 16 →
    (a.agent = .host → s.fwc.st = 0 → exec (.readClear a) s = .next s ∧ exec (.registerWrite a v) s = .next s ∧
      ∀ same, exec (.w1cClear a v same) s = .next s) ∧
    ((a.agent = .host → s.fwc.st ≠ 0) →
    (refusesTlp s a = true → exec (.readClear a) s = .next { s with hif := { s.hif with readBack := none } } ∧
      ∀ same, exec (.registerWrite a v) s = .next s ∧ exec (.w1cClear a v same) s = .next s) ∧
    (refusesTlp s a = false →
    (regHit a = .bad → a.agent = .host →
      exec (.registerWrite a v) s = .next { s with hub := { s.hub with badAccess := satAdd s.hub.badAccess 1 } } ∧
      exec (.readClear a) s = .next { s with hub := { s.hub with badAccess := satAdd s.hub.badAccess 1 }, hif := { s.hif with readBack := none } }) ∧
    (regHit a = .reg .hubId 0 → exec (.readClear a) s = .next { s with hif := { s.hif with
      readBack := some (BitVec.ofNat 64 (regValue s (accessFn a) .hubId % 2 ^ (8 * a.size))) } }) ∧
    (∀ n, regHit a = .reg (.portStats n) 0 → a.size = 4 → Completes (.readClear a) s fun t =>
      (getPort t n).stomped = 0 ∧ (getPort t n).framesLost = 0 ∧ (getPort t n).retries = (getPort s n).retries ∧
        (getPort t n).fecUe = (getPort s n).fecUe ∧
        t.hif.readBack = some (BitVec.ofNat 64 (regValue s (accessFn a) (.portStats n) % 2 ^ 32)) ∧ t.hbm = s.hbm ∧ t.cores = s.cores) ∧
    (∀ n, regHit a = .reg (.portStats n) 4 → a.size = 4 → Completes (.readClear a) s fun t =>
      (getPort t n).stomped = (getPort s n).stomped ∧ (getPort t n).framesLost = (getPort s n).framesLost ∧ (getPort t n).retries = 0 ∧
        (getPort t n).fecUe = 0 ∧ t.hbm = s.hbm ∧ t.cores = s.cores) ∧
    (a.agent = .host → regHit a = .reg .hubId 0 →
      exec (.registerWrite a v) s = .next { s with hub := { s.hub with ignoredWr := satAdd s.hub.ignoredWr 1 } }) ∧
    (a.agent = .host → regHit a = .reg .dbBase 0 → a.size = 8 → Completes (.registerWrite a v) s fun t =>
      (getFn t a.fn).dbBase = BitVec.ofNat 64 (v.toNat / 4096 * 4096) ∧ (getFn t a.fn).rings = (getFn s a.fn).rings ∧
        (∀ f, f ≠ a.fn → getFn t f = getFn s f) ∧ t.hbm = s.hbm ∧ t.cores = s.cores) ∧
    (∀ n, a.agent = .host → regHit a = .reg (.route n) 0 → a.size = 4 → (getSess s 0).opened = true → LogRoom s → Completes (.registerWrite a v) s fun t =>
      Tab.get 0#16 t.fab.route n = BitVec.ofNat 16 v.toNat ∧ Tab.get 0#16 t.fab.route (n + 1) = BitVec.ofNat 16 (v.toNat / 65536) ∧
        (∀ m, m ≠ n → m ≠ n + 1 → Tab.get 0#16 t.fab.route m = Tab.get 0#16 s.fab.route m) ∧ s.log.next < t.log.next ∧ t.hbm = s.hbm) ∧
    (∀ c n, a.agent = .control (clusterOf c) → coreLive s c = true → regHit a = .reg (.core c (.ctxEntry n)) 0 → a.size = 4 →
      procWaits s (0x10 + clusterOf c) = false → (ctxAt s c n).st = .idle → Completes (.registerWrite a v) s fun t => (ctxAt t c n).entry = BitVec.ofNat 15 (v.toNat / 2) ∧
        (ctxAt t c n).st = .idle ∧ (∀ m, m ≠ n → ctxAt t c m = ctxAt s c m) ∧ t.hbm = s.hbm) ∧
    (∀ c n cl, a.agent = .control cl → cl ≠ clusterOf c → regHit a = .reg (.core c (.ctxEntry n)) 0 → exec (.registerWrite a v) s = .next s) ∧
    (a.agent = .host → regHit a = .reg .mboxStatus 0 → v.getLsbD 1 = true →
      exec (.w1cClear a v false) s = .next { s with fwc := { s.fwc with done := false } } ∧ exec (.w1cClear a v true) s = .next s)))

/-- A tile closes, keys are set and stopped, and partitions and debug are set up (R40, R231, R572, R577 to R579, R583): each of these commands
runs to its own effect under the conditions named. It rests on the model's choices of assumptions 69, 85, 161. -/
def Obligations.SetupAndClose : Prop :=
  (∀ (s : State) (c n seq : Nat) (r : Run) (ecc abuf : EccHits), c < 256 → n < 8 → findRun (getCore s c) n seq = some r →
    mayCloseTile (getCore s c) r = true → Completes (.tileClose c n seq ecc abuf) s fun t =>
      (∃ r', findRun (getCore t c) n seq = some r' ∧ r'.desc = r.desc ∧ r'.holds = r.holds ∧ (r'.finished = true ∨ r'.tile = r.tile + 1)) ∧
        t.hbm = s.hbm ∧ t.host = s.host ∧ t.fab = s.fab ∧ ∀ d, d ≠ c → getCore t d = getCore s d) ∧
  (∀ (s : State) (f : Nat), f ≤ 16 →
    (∀ x, ideSecret s f = some x → exec (.keySetGo f) s = .next { s with sec := { s.sec with ide := Tab.set s.sec.ide f (ideKeys x f) } }) ∧
    (∀ h, s.sec.handshakes.find? (fun x => x.target == f) = some h → ideSecret s f = some h.secret) ∧
    ((∀ h ∈ s.sec.handshakes, h.target ≠ f) → (getSess s f).opened = true → ideSecret s f = some (getSess s f).secret) ∧
    exec (.keySetStop f) s = .next { s with sec := { s.sec with ide := Tab.erase s.sec.ide f } }) ∧
  (∀ (s : State) (via : Via) (r : Req),
    let s0 := asked via s
    let a := setupArgs r
    let p := r.at 0 1
    let u := teardownStart s0 p
    (Asks via 0x44 r s → setupFieldsOk r a = true → s.sec.debug = false → setupBusy s0 a = false → LogRoom s →
      exec (.partSetup via) s = .next (answer via r s (setupDo s0 a r.session) 0 []) ∧ getPart (setupDo s0 a r.session) a.part = {
        st := .setUp, placement := a.placement, clusters := BitVec.ofNat 16 (a.clusters.foldl (fun m c => m + 2 ^ c) 0), regions := a.regions
        counters := a.counters, c0Budget := a.c0Cores, c0Cores := a.c0Ids, c0Rings := BitVec.ofNat 8 a.c0Rings, setupSeq := s.log.next }) ∧
    (Asks via 0x45 r s → p < 16 → (getPart s p).st = .setUp → teardownClear u p = true → LogRoom u →
      exec (.partTeardown via) s = .next (answer via r s (teardownEnd u p r.session) 0 []) ∧ getPart (teardownEnd u p r.session) p = {}) ∧
    (Asks via 0x45 r s → p < 16 → (getPart s p).st = .setUp → teardownClear u p = false →
      exec (.partTeardown via) s = .next u ∧ (getPart u p).st = .teardown 2 ∧ (getPart u p).peers = []) ∧
    (Asks via 0x46 r s → p < 16 → r.at 1 1 = 0 → r.at 2 2 ≤ 256 → (getPart s p).st = .setUp → LogRoom s →
      (∀ i, i < r.at 2 2 → r.at (4 + 4 * i) 4 < 2 ^ 20 ∧ (r.at (4 + 4 * i) 4).testBit 15 = false) → ∃ t,
      exec (.partPeers via) s = .next (answer via r s t 0 []) ∧ getPart t p = { getPart s p with
        peers := (List.range (r.at 2 2)).map fun i => (r.at (4 + 4 * i) 4 % 32768, r.at (4 + 4 * i) 4 / 65536) } ∧ t.hbm = s.hbm) ∧
    (∀ on : Nat, Asks via 0x47 r s → p = on → on ≤ 1 → (on = 1 → Config.debugAllowed = true ∧ ∀ n, n < 16 → partLive (getPart s n) = false) →
      LogRoom s → ∃ t, exec (.debugSet via) s = .next (answer via r s t 0 []) ∧ t.sec.debug = (on == 1) ∧
        t.sec.debugSince = (s.sec.debugSince || on == 1) ∧ t.hbm = s.hbm))
end

