-- ==== Sys2Proof/Laws/State.lean ====
section
/-! SUPPORT. Laws/State.lean: what reading a table after writing it gives, and one lemma per field for each accessor of the state. -/

namespace Sys2Proof.Machine

open Sys2Proof

/-! ### Tables -/

@[simp] theorem Tab.get_nil {α : Type} (d : α) (k : Nat) : Tab.get d [] k = d := rfl

@[simp] theorem Tab.get_set_self {α : Type} (d : α) (t : Tab α) (k : Nat) (a : α) : Tab.get d (Tab.set t k a) k = a := by
  induction t with
  | nil => simp [Tab.set, Tab.get]
  | cons p t ih =>
    obtain ⟨j, b⟩ := p
    simp only [Tab.set]
    split
    · simp [Tab.get]
    · split
      · simp [Tab.get]
      · simp [Tab.get, *]

theorem Tab.get_set_ne {α : Type} (d : α) (t : Tab α) {k j : Nat} (a : α) (h : j ≠ k) :
    Tab.get d (Tab.set t k a) j = Tab.get d t j := by
  induction t with
  | nil => simp [Tab.set, Tab.get, h]
  | cons p t ih =>
    obtain ⟨i, b⟩ := p
    simp only [Tab.set]
    split
    · subst_vars; simp [Tab.get, h]
    · split
      · simp [Tab.get, h]
      · simp [Tab.get, ih]

theorem Tab.get_set {α : Type} (d : α) (t : Tab α) (k j : Nat) (a : α) :
    Tab.get d (Tab.set t k a) j = if j = k then a else Tab.get d t j := by
  split
  · subst_vars; simp
  · exact Tab.get_set_ne d t a ‹_›

@[simp] theorem Tab.set_set {α : Type} (t : Tab α) (k : Nat) (a b : α) : Tab.set (Tab.set t k a) k b = Tab.set t k b := by
  induction t with
  | nil => simp [Tab.set]
  | cons p t ih =>
    obtain ⟨i, c⟩ := p
    simp only [Tab.set]
    split
    · simp [Tab.set]
    · split
      · simp [Tab.set]
      · simp [Tab.set, *]

/-! ### The accessors of the state -/

@[simp] theorem getCore_setCore (s : State) (c : Nat) (k : Core) : getCore (setCore s c k) c = k := by simp [getCore, setCore]
theorem getCore_setCore_ne (s : State) {c d : Nat} (k : Core) (h : d ≠ c) : getCore (setCore s c k) d = getCore s d := by
  simp [getCore, setCore, Tab.get_set_ne, h]
@[simp] theorem setCore_setCore (s : State) (c : Nat) (k l : Core) : setCore (setCore s c k) c l = setCore s c l := by simp [setCore]
@[simp] theorem getCtx_putCtx (k : Core) (n : Nat) (x : Ctx) : getCtx (putCtx k n x) n = x := by simp [getCtx, putCtx]
theorem getCtx_putCtx_ne (k : Core) {n m : Nat} (x : Ctx) (h : m ≠ n) : getCtx (putCtx k n x) m = getCtx k m := by
  simp [getCtx, putCtx, Tab.get_set_ne, h]
@[simp] theorem putCtx_putCtx (k : Core) (n : Nat) (x y : Ctx) : putCtx (putCtx k n x) n y = putCtx k n y := by simp [putCtx]
@[simp] theorem getPart_setPart (s : State) (p : Nat) (x : Part) : getPart (setPart s p x) p = x := by simp [getPart, setPart]
@[simp] theorem getPhys_setPhys (s : State) (p : Nat) (x : PhysCore) : getPhys (setPhys s p x) p = x := by simp [getPhys, setPhys]
@[simp] theorem getRegion_setRegion (s : State) (r : Nat) (x : Region) : getRegion (setRegion s r x) r = x := by
  simp [getRegion, setRegion]
@[simp] theorem getCtr_setCtr (s : State) (n : Nat) (x : Ctr) : getCtr (setCtr s n x) n = x := by simp [getCtr, setCtr]
@[simp] theorem getEvq_setEvq (s : State) (f : Nat) (x : Evq) : getEvq (setEvq s f x) f = x := by simp [getEvq, setEvq]

/-! ### Registers of a context -/

@[simp] theorem readX_zero (x : Ctx) : readX x 0 = 0 := rfl
@[simp] theorem writeX_zero (x : Ctx) (v : W64) : writeX x 0 v = x := rfl
@[simp] theorem readX_writeX (x : Ctx) {r : Nat} (v : W64) (h : r ≠ 0) : readX (writeX x r v) r = v := by simp [readX, writeX, h]
theorem readX_writeX_ne (x : Ctx) {r q : Nat} (v : W64) (h : q ≠ r) : readX (writeX x r v) q = readX x q := by
  unfold readX writeX
  split
  · rfl
  · split
    · rfl
    · simp [Tab.get_set_ne, h]
@[simp] theorem readF_writeF (x : Ctx) (r : Nat) (v : W64) : readF (writeF x r v) r = v := by simp [readF, writeF]

/-! ### One lemma per field that an accessor leaves alone -/

@[simp] theorem setCore_pending (s : State) (c : Nat) (k : Core) : (setCore s c k).pending = s.pending := rfl
@[simp] theorem setCore_aon (s : State) (c : Nat) (k : Core) : (setCore s c k).aon = s.aon := rfl
@[simp] theorem setCore_aclks (s : State) (c : Nat) (k : Core) : (setCore s c k).aclks = s.aclks := rfl
@[simp] theorem setCore_nclks (s : State) (c : Nat) (k : Core) : (setCore s c k).nclks = s.nclks := rfl
@[simp] theorem setCore_xclk (s : State) (c : Nat) (k : Core) : (setCore s c k).xclk = s.xclk := rfl
@[simp] theorem setCore_fresh (s : State) (c : Nat) (k : Core) : (setCore s c k).fresh = s.fresh := rfl
@[simp] theorem setCore_phys (s : State) (c : Nat) (k : Core) : (setCore s c k).phys = s.phys := rfl
@[simp] theorem setCore_hub (s : State) (c : Nat) (k : Core) : (setCore s c k).hub = s.hub := rfl
@[simp] theorem setCore_parts (s : State) (c : Nat) (k : Core) : (setCore s c k).parts = s.parts := rfl
@[simp] theorem setCore_evqs (s : State) (c : Nat) (k : Core) : (setCore s c k).evqs = s.evqs := rfl
@[simp] theorem setCore_log (s : State) (c : Nat) (k : Core) : (setCore s c k).log = s.log := rfl
@[simp] theorem setCore_wct (s : State) (c : Nat) (k : Core) : (setCore s c k).wct = s.wct := rfl
@[simp] theorem setCore_hbm (s : State) (c : Nat) (k : Core) : (setCore s c k).hbm = s.hbm := rfl
@[simp] theorem setCore_host (s : State) (c : Nat) (k : Core) : (setCore s c k).host = s.host := rfl
@[simp] theorem setCore_arb (s : State) (c : Nat) (k : Core) : (setCore s c k).arb = s.arb := rfl
@[simp] theorem setCore_fab (s : State) (c : Nat) (k : Core) : (setCore s c k).fab = s.fab := rfl
@[simp] theorem setCore_hif (s : State) (c : Nat) (k : Core) : (setCore s c k).hif = s.hif := rfl
@[simp] theorem setCore_fwc (s : State) (c : Nat) (k : Core) : (setCore s c k).fwc = s.fwc := rfl
@[simp] theorem setCore_sec (s : State) (c : Nat) (k : Core) : (setCore s c k).sec = s.sec := rfl
@[simp] theorem setCore_pwr (s : State) (c : Nat) (k : Core) : (setCore s c k).pwr = s.pwr := rfl
@[simp] theorem setCore_pins (s : State) (c : Nat) (k : Core) : (setCore s c k).pins = s.pins := rfl
@[simp] theorem setPhys_pending (s : State) (p : Nat) (x : PhysCore) : (setPhys s p x).pending = s.pending := rfl
@[simp] theorem setPhys_aon (s : State) (p : Nat) (x : PhysCore) : (setPhys s p x).aon = s.aon := rfl
@[simp] theorem setPhys_aclks (s : State) (p : Nat) (x : PhysCore) : (setPhys s p x).aclks = s.aclks := rfl
@[simp] theorem setPhys_nclks (s : State) (p : Nat) (x : PhysCore) : (setPhys s p x).nclks = s.nclks := rfl
@[simp] theorem setPhys_xclk (s : State) (p : Nat) (x : PhysCore) : (setPhys s p x).xclk = s.xclk := rfl
@[simp] theorem setPhys_fresh (s : State) (p : Nat) (x : PhysCore) : (setPhys s p x).fresh = s.fresh := rfl
@[simp] theorem setPhys_cores (s : State) (p : Nat) (x : PhysCore) : (setPhys s p x).cores = s.cores := rfl
@[simp] theorem setPhys_hub (s : State) (p : Nat) (x : PhysCore) : (setPhys s p x).hub = s.hub := rfl
@[simp] theorem setPhys_parts (s : State) (p : Nat) (x : PhysCore) : (setPhys s p x).parts = s.parts := rfl
@[simp] theorem setPhys_evqs (s : State) (p : Nat) (x : PhysCore) : (setPhys s p x).evqs = s.evqs := rfl
@[simp] theorem setPhys_log (s : State) (p : Nat) (x : PhysCore) : (setPhys s p x).log = s.log := rfl
@[simp] theorem setPhys_wct (s : State) (p : Nat) (x : PhysCore) : (setPhys s p x).wct = s.wct := rfl
@[simp] theorem setPhys_hbm (s : State) (p : Nat) (x : PhysCore) : (setPhys s p x).hbm = s.hbm := rfl
@[simp] theorem setPhys_host (s : State) (p : Nat) (x : PhysCore) : (setPhys s p x).host = s.host := rfl
@[simp] theorem setPhys_arb (s : State) (p : Nat) (x : PhysCore) : (setPhys s p x).arb = s.arb := rfl
@[simp] theorem setPhys_fab (s : State) (p : Nat) (x : PhysCore) : (setPhys s p x).fab = s.fab := rfl
@[simp] theorem setPhys_hif (s : State) (p : Nat) (x : PhysCore) : (setPhys s p x).hif = s.hif := rfl
@[simp] theorem setPhys_fwc (s : State) (p : Nat) (x : PhysCore) : (setPhys s p x).fwc = s.fwc := rfl
@[simp] theorem setPhys_sec (s : State) (p : Nat) (x : PhysCore) : (setPhys s p x).sec = s.sec := rfl
@[simp] theorem setPhys_pwr (s : State) (p : Nat) (x : PhysCore) : (setPhys s p x).pwr = s.pwr := rfl
@[simp] theorem setPhys_pins (s : State) (p : Nat) (x : PhysCore) : (setPhys s p x).pins = s.pins := rfl
@[simp] theorem setPart_pending (s : State) (p : Nat) (x : Part) : (setPart s p x).pending = s.pending := rfl
@[simp] theorem setPart_aon (s : State) (p : Nat) (x : Part) : (setPart s p x).aon = s.aon := rfl
@[simp] theorem setPart_aclks (s : State) (p : Nat) (x : Part) : (setPart s p x).aclks = s.aclks := rfl
@[simp] theorem setPart_nclks (s : State) (p : Nat) (x : Part) : (setPart s p x).nclks = s.nclks := rfl
@[simp] theorem setPart_xclk (s : State) (p : Nat) (x : Part) : (setPart s p x).xclk = s.xclk := rfl
@[simp] theorem setPart_fresh (s : State) (p : Nat) (x : Part) : (setPart s p x).fresh = s.fresh := rfl
@[simp] theorem setPart_cores (s : State) (p : Nat) (x : Part) : (setPart s p x).cores = s.cores := rfl
@[simp] theorem setPart_phys (s : State) (p : Nat) (x : Part) : (setPart s p x).phys = s.phys := rfl
@[simp] theorem setPart_hub (s : State) (p : Nat) (x : Part) : (setPart s p x).hub = s.hub := rfl
@[simp] theorem setPart_evqs (s : State) (p : Nat) (x : Part) : (setPart s p x).evqs = s.evqs := rfl
@[simp] theorem setPart_log (s : State) (p : Nat) (x : Part) : (setPart s p x).log = s.log := rfl
@[simp] theorem setPart_wct (s : State) (p : Nat) (x : Part) : (setPart s p x).wct = s.wct := rfl
@[simp] theorem setPart_hbm (s : State) (p : Nat) (x : Part) : (setPart s p x).hbm = s.hbm := rfl
@[simp] theorem setPart_host (s : State) (p : Nat) (x : Part) : (setPart s p x).host = s.host := rfl
@[simp] theorem setPart_arb (s : State) (p : Nat) (x : Part) : (setPart s p x).arb = s.arb := rfl
@[simp] theorem setPart_fab (s : State) (p : Nat) (x : Part) : (setPart s p x).fab = s.fab := rfl
@[simp] theorem setPart_hif (s : State) (p : Nat) (x : Part) : (setPart s p x).hif = s.hif := rfl
@[simp] theorem setPart_fwc (s : State) (p : Nat) (x : Part) : (setPart s p x).fwc = s.fwc := rfl
@[simp] theorem setPart_sec (s : State) (p : Nat) (x : Part) : (setPart s p x).sec = s.sec := rfl
@[simp] theorem setPart_pwr (s : State) (p : Nat) (x : Part) : (setPart s p x).pwr = s.pwr := rfl
@[simp] theorem setPart_pins (s : State) (p : Nat) (x : Part) : (setPart s p x).pins = s.pins := rfl
@[simp] theorem setRegion_pending (s : State) (r : Nat) (x : Region) : (setRegion s r x).pending = s.pending := rfl
@[simp] theorem setRegion_aon (s : State) (r : Nat) (x : Region) : (setRegion s r x).aon = s.aon := rfl
@[simp] theorem setRegion_aclks (s : State) (r : Nat) (x : Region) : (setRegion s r x).aclks = s.aclks := rfl
@[simp] theorem setRegion_nclks (s : State) (r : Nat) (x : Region) : (setRegion s r x).nclks = s.nclks := rfl
@[simp] theorem setRegion_xclk (s : State) (r : Nat) (x : Region) : (setRegion s r x).xclk = s.xclk := rfl
@[simp] theorem setRegion_fresh (s : State) (r : Nat) (x : Region) : (setRegion s r x).fresh = s.fresh := rfl
@[simp] theorem setRegion_cores (s : State) (r : Nat) (x : Region) : (setRegion s r x).cores = s.cores := rfl
@[simp] theorem setRegion_phys (s : State) (r : Nat) (x : Region) : (setRegion s r x).phys = s.phys := rfl
@[simp] theorem setRegion_hub (s : State) (r : Nat) (x : Region) : (setRegion s r x).hub = s.hub := rfl
@[simp] theorem setRegion_parts (s : State) (r : Nat) (x : Region) : (setRegion s r x).parts = s.parts := rfl
@[simp] theorem setRegion_evqs (s : State) (r : Nat) (x : Region) : (setRegion s r x).evqs = s.evqs := rfl
@[simp] theorem setRegion_log (s : State) (r : Nat) (x : Region) : (setRegion s r x).log = s.log := rfl
@[simp] theorem setRegion_wct (s : State) (r : Nat) (x : Region) : (setRegion s r x).wct = s.wct := rfl
@[simp] theorem setRegion_host (s : State) (r : Nat) (x : Region) : (setRegion s r x).host = s.host := rfl
@[simp] theorem setRegion_arb (s : State) (r : Nat) (x : Region) : (setRegion s r x).arb = s.arb := rfl
@[simp] theorem setRegion_fab (s : State) (r : Nat) (x : Region) : (setRegion s r x).fab = s.fab := rfl
@[simp] theorem setRegion_hif (s : State) (r : Nat) (x : Region) : (setRegion s r x).hif = s.hif := rfl
@[simp] theorem setRegion_fwc (s : State) (r : Nat) (x : Region) : (setRegion s r x).fwc = s.fwc := rfl
@[simp] theorem setRegion_sec (s : State) (r : Nat) (x : Region) : (setRegion s r x).sec = s.sec := rfl
@[simp] theorem setRegion_pwr (s : State) (r : Nat) (x : Region) : (setRegion s r x).pwr = s.pwr := rfl
@[simp] theorem setRegion_pins (s : State) (r : Nat) (x : Region) : (setRegion s r x).pins = s.pins := rfl
@[simp] theorem setCtr_pending (s : State) (n : Nat) (x : Ctr) : (setCtr s n x).pending = s.pending := rfl
@[simp] theorem setCtr_aon (s : State) (n : Nat) (x : Ctr) : (setCtr s n x).aon = s.aon := rfl
@[simp] theorem setCtr_aclks (s : State) (n : Nat) (x : Ctr) : (setCtr s n x).aclks = s.aclks := rfl
@[simp] theorem setCtr_nclks (s : State) (n : Nat) (x : Ctr) : (setCtr s n x).nclks = s.nclks := rfl
@[simp] theorem setCtr_xclk (s : State) (n : Nat) (x : Ctr) : (setCtr s n x).xclk = s.xclk := rfl
@[simp] theorem setCtr_fresh (s : State) (n : Nat) (x : Ctr) : (setCtr s n x).fresh = s.fresh := rfl
@[simp] theorem setCtr_cores (s : State) (n : Nat) (x : Ctr) : (setCtr s n x).cores = s.cores := rfl
@[simp] theorem setCtr_phys (s : State) (n : Nat) (x : Ctr) : (setCtr s n x).phys = s.phys := rfl
@[simp] theorem setCtr_hub (s : State) (n : Nat) (x : Ctr) : (setCtr s n x).hub = s.hub := rfl
@[simp] theorem setCtr_parts (s : State) (n : Nat) (x : Ctr) : (setCtr s n x).parts = s.parts := rfl
@[simp] theorem setCtr_evqs (s : State) (n : Nat) (x : Ctr) : (setCtr s n x).evqs = s.evqs := rfl
@[simp] theorem setCtr_log (s : State) (n : Nat) (x : Ctr) : (setCtr s n x).log = s.log := rfl
@[simp] theorem setCtr_hbm (s : State) (n : Nat) (x : Ctr) : (setCtr s n x).hbm = s.hbm := rfl
@[simp] theorem setCtr_host (s : State) (n : Nat) (x : Ctr) : (setCtr s n x).host = s.host := rfl
@[simp] theorem setCtr_arb (s : State) (n : Nat) (x : Ctr) : (setCtr s n x).arb = s.arb := rfl
@[simp] theorem setCtr_fab (s : State) (n : Nat) (x : Ctr) : (setCtr s n x).fab = s.fab := rfl
@[simp] theorem setCtr_hif (s : State) (n : Nat) (x : Ctr) : (setCtr s n x).hif = s.hif := rfl
@[simp] theorem setCtr_fwc (s : State) (n : Nat) (x : Ctr) : (setCtr s n x).fwc = s.fwc := rfl
@[simp] theorem setCtr_sec (s : State) (n : Nat) (x : Ctr) : (setCtr s n x).sec = s.sec := rfl
@[simp] theorem setCtr_pwr (s : State) (n : Nat) (x : Ctr) : (setCtr s n x).pwr = s.pwr := rfl
@[simp] theorem setCtr_pins (s : State) (n : Nat) (x : Ctr) : (setCtr s n x).pins = s.pins := rfl
@[simp] theorem setEvq_pending (s : State) (f : Nat) (x : Evq) : (setEvq s f x).pending = s.pending := rfl
@[simp] theorem setEvq_aon (s : State) (f : Nat) (x : Evq) : (setEvq s f x).aon = s.aon := rfl
@[simp] theorem setEvq_aclks (s : State) (f : Nat) (x : Evq) : (setEvq s f x).aclks = s.aclks := rfl
@[simp] theorem setEvq_nclks (s : State) (f : Nat) (x : Evq) : (setEvq s f x).nclks = s.nclks := rfl
@[simp] theorem setEvq_xclk (s : State) (f : Nat) (x : Evq) : (setEvq s f x).xclk = s.xclk := rfl
@[simp] theorem setEvq_fresh (s : State) (f : Nat) (x : Evq) : (setEvq s f x).fresh = s.fresh := rfl
@[simp] theorem setEvq_cores (s : State) (f : Nat) (x : Evq) : (setEvq s f x).cores = s.cores := rfl
@[simp] theorem setEvq_phys (s : State) (f : Nat) (x : Evq) : (setEvq s f x).phys = s.phys := rfl
@[simp] theorem setEvq_hub (s : State) (f : Nat) (x : Evq) : (setEvq s f x).hub = s.hub := rfl
@[simp] theorem setEvq_parts (s : State) (f : Nat) (x : Evq) : (setEvq s f x).parts = s.parts := rfl
@[simp] theorem setEvq_log (s : State) (f : Nat) (x : Evq) : (setEvq s f x).log = s.log := rfl
@[simp] theorem setEvq_wct (s : State) (f : Nat) (x : Evq) : (setEvq s f x).wct = s.wct := rfl
@[simp] theorem setEvq_hbm (s : State) (f : Nat) (x : Evq) : (setEvq s f x).hbm = s.hbm := rfl
@[simp] theorem setEvq_host (s : State) (f : Nat) (x : Evq) : (setEvq s f x).host = s.host := rfl
@[simp] theorem setEvq_arb (s : State) (f : Nat) (x : Evq) : (setEvq s f x).arb = s.arb := rfl
@[simp] theorem setEvq_fab (s : State) (f : Nat) (x : Evq) : (setEvq s f x).fab = s.fab := rfl
@[simp] theorem setEvq_hif (s : State) (f : Nat) (x : Evq) : (setEvq s f x).hif = s.hif := rfl
@[simp] theorem setEvq_fwc (s : State) (f : Nat) (x : Evq) : (setEvq s f x).fwc = s.fwc := rfl
@[simp] theorem setEvq_sec (s : State) (f : Nat) (x : Evq) : (setEvq s f x).sec = s.sec := rfl
@[simp] theorem setEvq_pwr (s : State) (f : Nat) (x : Evq) : (setEvq s f x).pwr = s.pwr := rfl
@[simp] theorem setEvq_pins (s : State) (f : Nat) (x : Evq) : (setEvq s f x).pins = s.pins := rfl
@[simp] theorem hbmWrite_pending (s : State) (a : Nat) (bs : List Byte) : (hbmWrite s a bs).pending = s.pending := rfl
@[simp] theorem hbmWrite_aon (s : State) (a : Nat) (bs : List Byte) : (hbmWrite s a bs).aon = s.aon := rfl
@[simp] theorem hbmWrite_aclks (s : State) (a : Nat) (bs : List Byte) : (hbmWrite s a bs).aclks = s.aclks := rfl
@[simp] theorem hbmWrite_nclks (s : State) (a : Nat) (bs : List Byte) : (hbmWrite s a bs).nclks = s.nclks := rfl
@[simp] theorem hbmWrite_xclk (s : State) (a : Nat) (bs : List Byte) : (hbmWrite s a bs).xclk = s.xclk := rfl
@[simp] theorem hbmWrite_fresh (s : State) (a : Nat) (bs : List Byte) : (hbmWrite s a bs).fresh = s.fresh := rfl
@[simp] theorem hbmWrite_cores (s : State) (a : Nat) (bs : List Byte) : (hbmWrite s a bs).cores = s.cores := rfl
@[simp] theorem hbmWrite_phys (s : State) (a : Nat) (bs : List Byte) : (hbmWrite s a bs).phys = s.phys := rfl
@[simp] theorem hbmWrite_hub (s : State) (a : Nat) (bs : List Byte) : (hbmWrite s a bs).hub = s.hub := rfl
@[simp] theorem hbmWrite_parts (s : State) (a : Nat) (bs : List Byte) : (hbmWrite s a bs).parts = s.parts := rfl
@[simp] theorem hbmWrite_evqs (s : State) (a : Nat) (bs : List Byte) : (hbmWrite s a bs).evqs = s.evqs := rfl
@[simp] theorem hbmWrite_log (s : State) (a : Nat) (bs : List Byte) : (hbmWrite s a bs).log = s.log := rfl
@[simp] theorem hbmWrite_wct (s : State) (a : Nat) (bs : List Byte) : (hbmWrite s a bs).wct = s.wct := rfl
@[simp] theorem hbmWrite_host (s : State) (a : Nat) (bs : List Byte) : (hbmWrite s a bs).host = s.host := rfl
@[simp] theorem hbmWrite_arb (s : State) (a : Nat) (bs : List Byte) : (hbmWrite s a bs).arb = s.arb := rfl
@[simp] theorem hbmWrite_fab (s : State) (a : Nat) (bs : List Byte) : (hbmWrite s a bs).fab = s.fab := rfl
@[simp] theorem hbmWrite_hif (s : State) (a : Nat) (bs : List Byte) : (hbmWrite s a bs).hif = s.hif := rfl
@[simp] theorem hbmWrite_fwc (s : State) (a : Nat) (bs : List Byte) : (hbmWrite s a bs).fwc = s.fwc := rfl
@[simp] theorem hbmWrite_sec (s : State) (a : Nat) (bs : List Byte) : (hbmWrite s a bs).sec = s.sec := rfl
@[simp] theorem hbmWrite_pwr (s : State) (a : Nat) (bs : List Byte) : (hbmWrite s a bs).pwr = s.pwr := rfl
@[simp] theorem hbmWrite_pins (s : State) (a : Nat) (bs : List Byte) : (hbmWrite s a bs).pins = s.pins := rfl
@[simp] theorem putCtx_imem (k : Core) (n : Nat) (x : Ctx) : (putCtx k n x).imem = k.imem := rfl
@[simp] theorem putCtx_lastServed (k : Core) (n : Nat) (x : Ctx) : (putCtx k n x).lastServed = k.lastServed := rfl
@[simp] theorem putCtx_cycle0 (k : Core) (n : Nat) (x : Ctx) : (putCtx k n x).cycle0 = k.cycle0 := rfl
@[simp] theorem putCtx_krecvOrder (k : Core) (n : Nat) (x : Ctx) : (putCtx k n x).krecvOrder = k.krecvOrder := rfl
@[simp] theorem putCtx_claims (k : Core) (n : Nat) (x : Ctx) : (putCtx k n x).claims = k.claims := rfl
@[simp] theorem putCtx_pushes (k : Core) (n : Nat) (x : Ctx) : (putCtx k n x).pushes = k.pushes := rfl
@[simp] theorem putCtx_dispatches (k : Core) (n : Nat) (x : Ctx) : (putCtx k n x).dispatches = k.dispatches := rfl
@[simp] theorem putCtx_sb (k : Core) (n : Nat) (x : Ctx) : (putCtx k n x).sb = k.sb := rfl
@[simp] theorem putCtx_runs (k : Core) (n : Nat) (x : Ctx) : (putCtx k n x).runs = k.runs := rfl
@[simp] theorem putCtx_spad (k : Core) (n : Nat) (x : Ctx) : (putCtx k n x).spad = k.spad := rfl
@[simp] theorem putCtx_acc (k : Core) (n : Nat) (x : Ctx) : (putCtx k n x).acc = k.acc := rfl
@[simp] theorem putCtx_dma (k : Core) (n : Nat) (x : Ctx) : (putCtx k n x).dma = k.dma := rfl
@[simp] theorem putCtx_mesh (k : Core) (n : Nat) (x : Ctx) : (putCtx k n x).mesh = k.mesh := rfl
@[simp] theorem writeX_st (x : Ctx) (r : Nat) (v : W64) : (writeX x r v).st = x.st := by unfold writeX; split <;> rfl
@[simp] theorem writeX_pc (x : Ctx) (r : Nat) (v : W64) : (writeX x r v).pc = x.pc := by unfold writeX; split <;> rfl
@[simp] theorem writeX_f (x : Ctx) (r : Nat) (v : W64) : (writeX x r v).f = x.f := by unfold writeX; split <;> rfl
@[simp] theorem writeX_fflags (x : Ctx) (r : Nat) (v : W64) : (writeX x r v).fflags = x.fflags := by unfold writeX; split <;> rfl
@[simp] theorem writeX_frm (x : Ctx) (r : Nat) (v : W64) : (writeX x r v).frm = x.frm := by unfold writeX; split <;> rfl
@[simp] theorem writeX_instret (x : Ctx) (r : Nat) (v : W64) : (writeX x r v).instret = x.instret := by unfold writeX; split <;> rfl
@[simp] theorem writeX_classFloor (x : Ctx) (r : Nat) (v : W64) : (writeX x r v).classFloor = x.classFloor := by unfold writeX; split <;> rfl
@[simp] theorem writeX_entry (x : Ctx) (r : Nat) (v : W64) : (writeX x r v).entry = x.entry := by unfold writeX; split <;> rfl
@[simp] theorem writeX_base (x : Ctx) (r : Nat) (v : W64) : (writeX x r v).base = x.base := by unfold writeX; split <;> rfl
@[simp] theorem writeX_bound (x : Ctx) (r : Nat) (v : W64) : (writeX x r v).bound = x.bound := by unfold writeX; split <;> rfl
@[simp] theorem writeX_faultPc (x : Ctx) (r : Nat) (v : W64) : (writeX x r v).faultPc = x.faultPc := by unfold writeX; split <;> rfl
@[simp] theorem writeX_cause (x : Ctx) (r : Nat) (v : W64) : (writeX x r v).cause = x.cause := by unfold writeX; split <;> rfl
@[simp] theorem writeX_queue (x : Ctx) (r : Nat) (v : W64) : (writeX x r v).queue = x.queue := by unfold writeX; split <;> rfl
@[simp] theorem writeX_nextSeq (x : Ctx) (r : Nat) (v : W64) : (writeX x r v).nextSeq = x.nextSeq := by unfold writeX; split <;> rfl
@[simp] theorem writeX_window (x : Ctx) (r : Nat) (v : W64) : (writeX x r v).window = x.window := by unfold writeX; split <;> rfl
@[simp] theorem writeX_drainSum (x : Ctx) (r : Nat) (v : W64) : (writeX x r v).drainSum = x.drainSum := by unfold writeX; split <;> rfl
@[simp] theorem writeX_drainBad (x : Ctx) (r : Nat) (v : W64) : (writeX x r v).drainBad = x.drainBad := by unfold writeX; split <;> rfl
@[simp] theorem writeX_wait (x : Ctx) (r : Nat) (v : W64) : (writeX x r v).wait = x.wait := by unfold writeX; split <;> rfl
@[simp] theorem writeX_haltPending (x : Ctx) (r : Nat) (v : W64) : (writeX x r v).haltPending = x.haltPending := by unfold writeX; split <;> rfl
@[simp] theorem writeX_killPending (x : Ctx) (r : Nat) (v : W64) : (writeX x r v).killPending = x.killPending := by unfold writeX; split <;> rfl
@[simp] theorem writeX_resv (x : Ctx) (r : Nat) (v : W64) : (writeX x r v).resv = x.resv := by unfold writeX; split <;> rfl
@[simp] theorem writeX_hostSince (x : Ctx) (r : Nat) (v : W64) : (writeX x r v).hostSince = x.hostSince := by unfold writeX; split <;> rfl
@[simp] theorem writeF_st (x : Ctx) (r : Nat) (v : W64) : (writeF x r v).st = x.st := rfl
@[simp] theorem writeF_pc (x : Ctx) (r : Nat) (v : W64) : (writeF x r v).pc = x.pc := rfl
@[simp] theorem writeF_x (x : Ctx) (r : Nat) (v : W64) : (writeF x r v).x = x.x := rfl
@[simp] theorem writeF_fflags (x : Ctx) (r : Nat) (v : W64) : (writeF x r v).fflags = x.fflags := rfl
@[simp] theorem writeF_frm (x : Ctx) (r : Nat) (v : W64) : (writeF x r v).frm = x.frm := rfl
@[simp] theorem writeF_instret (x : Ctx) (r : Nat) (v : W64) : (writeF x r v).instret = x.instret := rfl
@[simp] theorem writeF_classFloor (x : Ctx) (r : Nat) (v : W64) : (writeF x r v).classFloor = x.classFloor := rfl
@[simp] theorem writeF_entry (x : Ctx) (r : Nat) (v : W64) : (writeF x r v).entry = x.entry := rfl
@[simp] theorem writeF_base (x : Ctx) (r : Nat) (v : W64) : (writeF x r v).base = x.base := rfl
@[simp] theorem writeF_bound (x : Ctx) (r : Nat) (v : W64) : (writeF x r v).bound = x.bound := rfl
@[simp] theorem writeF_faultPc (x : Ctx) (r : Nat) (v : W64) : (writeF x r v).faultPc = x.faultPc := rfl
@[simp] theorem writeF_cause (x : Ctx) (r : Nat) (v : W64) : (writeF x r v).cause = x.cause := rfl
@[simp] theorem writeF_queue (x : Ctx) (r : Nat) (v : W64) : (writeF x r v).queue = x.queue := rfl
@[simp] theorem writeF_nextSeq (x : Ctx) (r : Nat) (v : W64) : (writeF x r v).nextSeq = x.nextSeq := rfl
@[simp] theorem writeF_window (x : Ctx) (r : Nat) (v : W64) : (writeF x r v).window = x.window := rfl
@[simp] theorem writeF_drainSum (x : Ctx) (r : Nat) (v : W64) : (writeF x r v).drainSum = x.drainSum := rfl
@[simp] theorem writeF_drainBad (x : Ctx) (r : Nat) (v : W64) : (writeF x r v).drainBad = x.drainBad := rfl
@[simp] theorem writeF_wait (x : Ctx) (r : Nat) (v : W64) : (writeF x r v).wait = x.wait := rfl
@[simp] theorem writeF_haltPending (x : Ctx) (r : Nat) (v : W64) : (writeF x r v).haltPending = x.haltPending := rfl
@[simp] theorem writeF_killPending (x : Ctx) (r : Nat) (v : W64) : (writeF x r v).killPending = x.killPending := rfl
@[simp] theorem writeF_resv (x : Ctx) (r : Nat) (v : W64) : (writeF x r v).resv = x.resv := rfl
@[simp] theorem writeF_hostSince (x : Ctx) (r : Nat) (v : W64) : (writeF x r v).hostSince = x.hostSince := rfl

end Sys2Proof.Machine
end

