-- ==== Sys2Proof/Laws/Memory.lean ====
section
/-! SUPPORT. Laws/Memory.lean: the byte memories: a read after a write, and the canonical form, which every operation keeps; and the two-copy items
of the flash. -/

namespace Sys2Proof.Machine

open Sys2Proof

/-! ### Rising keys -/

theorem keysRising_cons {α : Type} (p : Nat × α) (t : Tab α) :
    keysRising (p :: t) = true ↔ keysRising t = true ∧ ∀ q ∈ t, p.1 < q.1 := by
  induction t generalizing p with
  | nil => simp [keysRising]
  | cons q t ih =>
    simp only [keysRising, Bool.and_eq_true, decide_eq_true_eq, List.mem_cons, forall_eq_or_imp]
    rw [ih q]
    constructor
    · rintro ⟨h, hr, hq⟩; exact ⟨⟨hr, hq⟩, h, fun x hx => Nat.lt_trans h (hq x hx)⟩
    · rintro ⟨⟨hr, hq⟩, h, _⟩; exact ⟨h, hr, hq⟩

/-- A key above every listed key reads the default. -/
theorem Tab.get_of_lt {α : Type} (d : α) (t : Tab α) (k : Nat) (h : ∀ q ∈ t, k < q.1) : Tab.get d t k = d := by
  induction t with
  | nil => rfl
  | cons p t ih =>
    obtain ⟨j, b⟩ := p
    simp only [List.mem_cons, forall_eq_or_imp] at h
    have hj : k ≠ j := by have := h.1; omega
    simp [Tab.get, hj, ih h.2]

theorem Tab.mem_set {α : Type} (t : Tab α) (k : Nat) (a : α) (q : Nat × α) (h : q ∈ Tab.set t k a) : q = (k, a) ∨ q ∈ t := by
  induction t with
  | nil => simpa [Tab.set] using h
  | cons p t ih =>
    obtain ⟨j, b⟩ := p
    simp only [Tab.set] at h
    split at h
    · simp only [List.mem_cons] at h ⊢; tauto
    · split at h
      · simp only [List.mem_cons] at h ⊢; tauto
      · simp only [List.mem_cons] at h ⊢
        rcases h with h | h
        · exact .inr (.inl h)
        · rcases ih h with h | h
          · exact .inl h
          · exact .inr (.inr h)

theorem Tab.mem_erase {α : Type} (t : Tab α) (k : Nat) (q : Nat × α) (h : q ∈ Tab.erase t k) : q ∈ t := by
  induction t with
  | nil => simp [Tab.erase] at h
  | cons p t ih =>
    obtain ⟨j, b⟩ := p
    simp only [Tab.erase] at h
    split at h
    · exact List.mem_cons_of_mem _ (ih h)
    · simp only [List.mem_cons] at h ⊢
      rcases h with h | h
      · exact .inl h
      · exact .inr (ih h)

theorem keysRising_set {α : Type} (t : Tab α) (k : Nat) (a : α) (h : keysRising t = true) : keysRising (Tab.set t k a) = true := by
  induction t with
  | nil => rfl
  | cons p t ih =>
    obtain ⟨j, b⟩ := p
    rw [keysRising_cons] at h
    simp only [Tab.set]
    split
    · subst_vars; exact (keysRising_cons _ _).2 h
    · split
      · refine (keysRising_cons _ _).2 ⟨(keysRising_cons _ _).2 h, ?_⟩
        intro q hq
        simp only [List.mem_cons] at hq
        rcases hq with rfl | hq
        · assumption
        · exact Nat.lt_trans ‹k < j› (h.2 q hq)
      · refine (keysRising_cons _ _).2 ⟨ih h.1, ?_⟩
        intro q hq
        rcases Tab.mem_set t k a q hq with rfl | hq
        · simp only; omega
        · exact h.2 q hq

theorem keysRising_erase {α : Type} (t : Tab α) (k : Nat) (h : keysRising t = true) : keysRising (Tab.erase t k) = true := by
  induction t with
  | nil => rfl
  | cons p t ih =>
    obtain ⟨j, b⟩ := p
    rw [keysRising_cons] at h
    simp only [Tab.erase]
    split
    · exact ih h.1
    · exact (keysRising_cons _ _).2 ⟨ih h.1, fun q hq => h.2 q (Tab.mem_erase t k q hq)⟩

theorem keysRising_filter {α : Type} (t : Tab α) (p : Nat × α → Bool) (h : keysRising t = true) : keysRising (t.filter p) = true := by
  induction t with
  | nil => rfl
  | cons q t ih =>
    rw [keysRising_cons] at h
    simp only [List.filter_cons]
    split
    · exact (keysRising_cons _ _).2 ⟨ih h.1, fun x hx => h.2 x (List.mem_filter.1 hx).1⟩
    · exact ih h.1

/-! ### The canonical form -/

theorem Mem.wf_iff (d : Byte) (m : Mem) : Mem.wf d m = true ↔ keysRising m = true ∧ ∀ q ∈ m, q.2 ≠ d := by
  simp only [Mem.wf, Bool.and_eq_true, List.all_eq_true, bne_iff_ne, ne_eq]

@[simp] theorem Mem.wf_nil (d : Byte) : Mem.wf d [] = true := rfl

theorem memWrite_wf (d : Byte) (m : Mem) (a : Nat) (b : Byte) (h : Mem.wf d m = true) : Mem.wf d (memWrite d m a b) = true := by
  rw [Mem.wf_iff] at h ⊢
  unfold memWrite
  split
  · exact ⟨keysRising_erase m a h.1, fun q hq => h.2 q (Tab.mem_erase m a q hq)⟩
  · refine ⟨keysRising_set m a b h.1, fun q hq => ?_⟩
    rcases Tab.mem_set m a b q hq with rfl | hq
    · assumption
    · exact h.2 q hq

theorem memWriteN_wf (d : Byte) (bs : List Byte) : ∀ (m : Mem) (a : Nat), Mem.wf d m = true → Mem.wf d (memWriteN d m a bs) = true := by
  induction bs with
  | nil => intro m a h; exact h
  | cons b t ih => intro m a h; exact ih _ _ (memWrite_wf d m a b h)

theorem memClear_wf (d : Byte) (m : Mem) (lo hi : Nat) (h : Mem.wf d m = true) : Mem.wf d (memClear m lo hi) = true := by
  rw [Mem.wf_iff] at h ⊢
  exact ⟨keysRising_filter m _ h.1, fun q hq => h.2 q (List.mem_filter.1 hq).1⟩

/-! ### A read after a write -/

theorem Tab.get_erase_self {α : Type} (d : α) (t : Tab α) (k : Nat) : Tab.get d (Tab.erase t k) k = d := by
  induction t with
  | nil => rfl
  | cons p t ih =>
    obtain ⟨j, b⟩ := p
    simp only [Tab.erase]
    split
    · exact ih
    · simp [Tab.get, *]

theorem Tab.get_erase_ne {α : Type} (d : α) (t : Tab α) {k j : Nat} (h : j ≠ k) : Tab.get d (Tab.erase t k) j = Tab.get d t j := by
  induction t with
  | nil => rfl
  | cons p t ih =>
    obtain ⟨i, b⟩ := p
    simp only [Tab.erase]
    split
    · subst_vars; simp [Tab.get, h, ih]
    · simp [Tab.get, ih]

/-- The byte written reads back. -/
theorem memRead_memWrite_self (d : Byte) (m : Mem) (a : Nat) (b : Byte) : memRead d (memWrite d m a b) a = b := by
  unfold memRead memWrite
  split
  · subst_vars; exact Tab.get_erase_self _ m a
  · exact Tab.get_set_self d m a b

/-- Every other byte reads as before. -/
theorem memRead_memWrite_ne (d : Byte) (m : Mem) {a c : Nat} (b : Byte) (h : c ≠ a) : memRead d (memWrite d m a b) c = memRead d m c := by
  unfold memRead memWrite
  split
  · exact Tab.get_erase_ne d m h
  · exact Tab.get_set_ne d m b h

/-- Bytes outside a run that is written read as before. -/
theorem memRead_memWriteN_out (d : Byte) (bs : List Byte) : ∀ (m : Mem) (a c : Nat), (c < a ∨ a + bs.length ≤ c) →
    memRead d (memWriteN d m a bs) c = memRead d m c := by
  induction bs with
  | nil => intro m a c _; rfl
  | cons b t ih =>
    intro m a c h
    simp only [List.length_cons] at h
    rw [memWriteN, ih _ _ _ (by omega), memRead_memWrite_ne d m b (by omega)]

/-- Bytes of a run that is written read back. -/
theorem memRead_memWriteN_in (d : Byte) (bs : List Byte) : ∀ (m : Mem) (a i : Nat) (h : i < bs.length),
    memRead d (memWriteN d m a bs) (a + i) = bs[i] := by
  induction bs with
  | nil => intro m a i h; simp at h
  | cons b t ih =>
    intro m a i h
    cases i with
    | zero =>
      rw [memWriteN, Nat.add_zero, memRead_memWriteN_out d t _ _ _ (by omega)]
      exact memRead_memWrite_self d m a b
    | succ i =>
      have h2 : i < t.length := by simpa using h
      have e : a + (i + 1) = (a + 1) + i := by omega
      rw [memWriteN, e, ih _ _ _ h2]
      rfl

/-! ### Two-copy items of the flash (R532) -/

/-- The body last written is the one that is read, as long as COUNT can still grow. -/
theorem itemBody_itemWrite {α : Type} (x : TwoCopy α) (v e : α) (h : itemCount x ≠ 0xFFFFFFFF#32) : itemBody (itemWrite x v) e = v := by
  have up (c : W32) (hc : c ≠ 0xFFFFFFFF#32) : c.ult (c + 1#32) = true ∧ (c + 1#32).ult c = false := by
    have h1 : c.toNat ≠ 4294967295 := fun e => hc (BitVec.eq_of_toNat_eq (by simpa using e))
    have h2 := c.isLt
    simp only [BitVec.ult, BitVec.toNat_add, BitVec.toNat_ofNat, decide_eq_true_eq, decide_eq_false_iff_not]
    omega
  obtain ⟨a, b⟩ := x
  have hu := up _ h
  cases a <;> cases b <;> simp only [itemWrite, itemBody, copyInUse, itemCount, secondInUse] at hu ⊢
  · simp
  · simp_all
  · simp_all
  · rename_i p q
    by_cases hpq : BitVec.ult p.1 q.1 = true <;> simp [hpq] at hu ⊢ <;> simp [hu]

/-- The copy in use is never touched by a write. -/
theorem copyInUse_kept {α : Type} (x : TwoCopy α) (v : α) :
    (secondInUse x = true → (itemWrite x v).copy1 = x.copy1) ∧ (secondInUse x = false → (itemWrite x v).copy0 = x.copy0) := by
  constructor <;> intro h <;> simp [itemWrite, h]

end Sys2Proof.Machine
end

