-- ==== Sys2Proof/Laws/Accessors.lean ====
section
/-! SUPPORT. Laws/Accessors.lean: what each later accessor reads after its own write, and one lemma per field that a write leaves alone. -/

namespace Sys2Proof.Machine

open Sys2Proof

/-! ### A read after a write -/

@[simp] theorem getPort_setPort (s : State) (p : Nat) (x : Port) : getPort (setPort s p x) p = x := by simp [getPort, setPort]
theorem getPort_setPort_ne (s : State) {q₁ q₂ : Nat} (x : Port) (h : q₂ ≠ q₁) : getPort (setPort s q₁ x) q₂ = getPort s q₂ := by
  simp [getPort, setPort, Tab.get_set_ne, h]
@[simp] theorem getTree_setTree (s : State) (n : Nat) (x : Tree) : getTree (setTree s n x) n = x := by simp [getTree, setTree]
theorem getTree_setTree_ne (s : State) {q₁ q₂ : Nat} (x : Tree) (h : q₂ ≠ q₁) : getTree (setTree s q₁ x) q₂ = getTree s q₂ := by
  simp [getTree, setTree, Tab.get_set_ne, h]
@[simp] theorem getStay_setStay (s : State) (n : Nat) (x : Stay) : getStay (setStay s n x) n = x := by simp [getStay, setStay]
theorem getStay_setStay_ne (s : State) {q₁ q₂ : Nat} (x : Stay) (h : q₂ ≠ q₁) : getStay (setStay s q₁ x) q₂ = getStay s q₂ := by
  simp [getStay, setStay, Tab.get_set_ne, h]
@[simp] theorem getChan_setChan (s : State) (n : Nat) (x : Chan) : getChan (setChan s n x) n = x := by simp [getChan, setChan]
theorem getChan_setChan_ne (s : State) {q₁ q₂ : Nat} (x : Chan) (h : q₂ ≠ q₁) : getChan (setChan s q₁ x) q₂ = getChan s q₂ := by
  simp [getChan, setChan, Tab.get_set_ne, h]
@[simp] theorem getStack_setStack (s : State) (n : Nat) (x : Stack) : getStack (setStack s n x) n = x := by simp [getStack, setStack]
theorem getStack_setStack_ne (s : State) {q₁ q₂ : Nat} (x : Stack) (h : q₂ ≠ q₁) : getStack (setStack s q₁ x) q₂ = getStack s q₂ := by
  simp [getStack, setStack, Tab.get_set_ne, h]
@[simp] theorem getEcc_setEcc (s : State) (n : Nat) (x : HbmEcc) : getEcc (setEcc s n x) n = x := by simp [getEcc, setEcc]
theorem getEcc_setEcc_ne (s : State) {q₁ q₂ : Nat} (x : HbmEcc) (h : q₂ ≠ q₁) : getEcc (setEcc s q₁ x) q₂ = getEcc s q₂ := by
  simp [getEcc, setEcc, Tab.get_set_ne, h]
@[simp] theorem getCdc_setCdc (s : State) (q : Nat) (x : Cdc) : getCdc (setCdc s q x) q = x := by simp [getCdc, setCdc]
theorem getCdc_setCdc_ne (s : State) {q₁ q₂ : Nat} (x : Cdc) (h : q₂ ≠ q₁) : getCdc (setCdc s q₁ x) q₂ = getCdc s q₂ := by
  simp [getCdc, setCdc, Tab.get_set_ne, h]
@[simp] theorem getArbSet_setArbSet (s : State) (set : Nat) (x : ArbSet) : getArbSet (setArbSet s set x) set = x := by simp [getArbSet, setArbSet]
theorem getArbSet_setArbSet_ne (s : State) {q₁ q₂ : Nat} (x : ArbSet) (h : q₂ ≠ q₁) : getArbSet (setArbSet s q₁ x) q₂ = getArbSet s q₂ := by
  simp [getArbSet, setArbSet, Tab.get_set_ne, h]
@[simp] theorem getFn_setFn (s : State) (f : Nat) (x : Fn) : getFn (setFn s f x) f = x := by simp [getFn, setFn]
theorem getFn_setFn_ne (s : State) {q₁ q₂ : Nat} (x : Fn) (h : q₂ ≠ q₁) : getFn (setFn s q₁ x) q₂ = getFn s q₂ := by
  simp [getFn, setFn, Tab.get_set_ne, h]
@[simp] theorem getSess_setSess (s : State) (k : Nat) (x : Sess) : getSess (setSess s k x) k = x := by simp [getSess, setSess]
theorem getSess_setSess_ne (s : State) {q₁ q₂ : Nat} (x : Sess) (h : q₂ ≠ q₁) : getSess (setSess s q₁ x) q₂ = getSess s q₂ := by
  simp [getSess, setSess, Tab.get_set_ne, h]
@[simp] theorem getCtlEpoch_setCtlEpoch (s : State) (n : Nat) (x : Epochs) : getCtlEpoch (setCtlEpoch s n x) n = x := by simp [getCtlEpoch, setCtlEpoch]
theorem getCtlEpoch_setCtlEpoch_ne (s : State) {q₁ q₂ : Nat} (x : Epochs) (h : q₂ ≠ q₁) : getCtlEpoch (setCtlEpoch s q₁ x) q₂ = getCtlEpoch s q₂ := by
  simp [getCtlEpoch, setCtlEpoch, Tab.get_set_ne, h]
@[simp] theorem getHRing_setHRing (s : State) (f n : Nat) (x : HRing) : getHRing (setHRing s f n x) f n = x := by
  simp [getHRing, setHRing]
@[simp] theorem getSpdm_setSpdm (s : State) (m : Bool) (x : Spdm) : getSpdm (setSpdm s m x) m = x := by simp [getSpdm, setSpdm]
@[simp] theorem getPoint_setPoint (s : State) (set p : Nat) (x : ArbPoint) : getPoint (setPoint s set p x) set p = x := by
  simp [getPoint, setPoint]
@[simp] theorem getRing_putRing (k : Core) (r : Nat) (x : Ring) : getRing (putRing k r x) r = x := by simp [getRing, putRing]
theorem getRing_putRing_ne (k : Core) {q r : Nat} (x : Ring) (h : q ≠ r) : getRing (putRing k r x) q = getRing k q := by
  simp [getRing, putRing, Tab.get_set_ne, h]
@[simp] theorem getFold_putFold (k : Core) (r : Nat) (x : Fold) : getFold (putFold k r x) r = x := by simp [getFold, putFold]
theorem getFold_putFold_ne (k : Core) {q r : Nat} (x : Fold) (h : q ≠ r) : getFold (putFold k r x) q = getFold k q := by
  simp [getFold, putFold, Tab.get_set_ne, h]
@[simp] theorem getGroup_putGroup (k : Core) (arr : Bool) (g : Nat) (x : Group) : getGroup (putGroup k arr g x) arr g = x := by
  cases arr <;> simp [getGroup, putGroup]
@[simp] theorem halOf_setHal (s : State) (c : Nat) (h : Hal) : halOf (setHal s c h) c = h := by simp [halOf, setHal, putHal]

/-! ### One lemma per field that a write leaves alone -/

@[simp] theorem setPort_pending (s : State) (p : Nat) (x : Port) : (setPort s p x).pending = s.pending := rfl
@[simp] theorem setPort_aon (s : State) (p : Nat) (x : Port) : (setPort s p x).aon = s.aon := rfl
@[simp] theorem setPort_aclks (s : State) (p : Nat) (x : Port) : (setPort s p x).aclks = s.aclks := rfl
@[simp] theorem setPort_nclks (s : State) (p : Nat) (x : Port) : (setPort s p x).nclks = s.nclks := rfl
@[simp] theorem setPort_xclk (s : State) (p : Nat) (x : Port) : (setPort s p x).xclk = s.xclk := rfl
@[simp] theorem setPort_fresh (s : State) (p : Nat) (x : Port) : (setPort s p x).fresh = s.fresh := rfl
@[simp] theorem setPort_cores (s : State) (p : Nat) (x : Port) : (setPort s p x).cores = s.cores := rfl
@[simp] theorem setPort_phys (s : State) (p : Nat) (x : Port) : (setPort s p x).phys = s.phys := rfl
@[simp] theorem setPort_hub (s : State) (p : Nat) (x : Port) : (setPort s p x).hub = s.hub := rfl
@[simp] theorem setPort_parts (s : State) (p : Nat) (x : Port) : (setPort s p x).parts = s.parts := rfl
@[simp] theorem setPort_evqs (s : State) (p : Nat) (x : Port) : (setPort s p x).evqs = s.evqs := rfl
@[simp] theorem setPort_log (s : State) (p : Nat) (x : Port) : (setPort s p x).log = s.log := rfl
@[simp] theorem setPort_wct (s : State) (p : Nat) (x : Port) : (setPort s p x).wct = s.wct := rfl
@[simp] theorem setPort_hbm (s : State) (p : Nat) (x : Port) : (setPort s p x).hbm = s.hbm := rfl
@[simp] theorem setPort_host (s : State) (p : Nat) (x : Port) : (setPort s p x).host = s.host := rfl
@[simp] theorem setPort_arb (s : State) (p : Nat) (x : Port) : (setPort s p x).arb = s.arb := rfl
@[simp] theorem setPort_hif (s : State) (p : Nat) (x : Port) : (setPort s p x).hif = s.hif := rfl
@[simp] theorem setPort_fwc (s : State) (p : Nat) (x : Port) : (setPort s p x).fwc = s.fwc := rfl
@[simp] theorem setPort_sec (s : State) (p : Nat) (x : Port) : (setPort s p x).sec = s.sec := rfl
@[simp] theorem setPort_pwr (s : State) (p : Nat) (x : Port) : (setPort s p x).pwr = s.pwr := rfl
@[simp] theorem setPort_pins (s : State) (p : Nat) (x : Port) : (setPort s p x).pins = s.pins := rfl
@[simp] theorem setTree_pending (s : State) (n : Nat) (x : Tree) : (setTree s n x).pending = s.pending := rfl
@[simp] theorem setTree_aon (s : State) (n : Nat) (x : Tree) : (setTree s n x).aon = s.aon := rfl
@[simp] theorem setTree_aclks (s : State) (n : Nat) (x : Tree) : (setTree s n x).aclks = s.aclks := rfl
@[simp] theorem setTree_nclks (s : State) (n : Nat) (x : Tree) : (setTree s n x).nclks = s.nclks := rfl
@[simp] theorem setTree_xclk (s : State) (n : Nat) (x : Tree) : (setTree s n x).xclk = s.xclk := rfl
@[simp] theorem setTree_fresh (s : State) (n : Nat) (x : Tree) : (setTree s n x).fresh = s.fresh := rfl
@[simp] theorem setTree_cores (s : State) (n : Nat) (x : Tree) : (setTree s n x).cores = s.cores := rfl
@[simp] theorem setTree_phys (s : State) (n : Nat) (x : Tree) : (setTree s n x).phys = s.phys := rfl
@[simp] theorem setTree_hub (s : State) (n : Nat) (x : Tree) : (setTree s n x).hub = s.hub := rfl
@[simp] theorem setTree_parts (s : State) (n : Nat) (x : Tree) : (setTree s n x).parts = s.parts := rfl
@[simp] theorem setTree_evqs (s : State) (n : Nat) (x : Tree) : (setTree s n x).evqs = s.evqs := rfl
@[simp] theorem setTree_log (s : State) (n : Nat) (x : Tree) : (setTree s n x).log = s.log := rfl
@[simp] theorem setTree_wct (s : State) (n : Nat) (x : Tree) : (setTree s n x).wct = s.wct := rfl
@[simp] theorem setTree_hbm (s : State) (n : Nat) (x : Tree) : (setTree s n x).hbm = s.hbm := rfl
@[simp] theorem setTree_host (s : State) (n : Nat) (x : Tree) : (setTree s n x).host = s.host := rfl
@[simp] theorem setTree_arb (s : State) (n : Nat) (x : Tree) : (setTree s n x).arb = s.arb := rfl
@[simp] theorem setTree_hif (s : State) (n : Nat) (x : Tree) : (setTree s n x).hif = s.hif := rfl
@[simp] theorem setTree_fwc (s : State) (n : Nat) (x : Tree) : (setTree s n x).fwc = s.fwc := rfl
@[simp] theorem setTree_sec (s : State) (n : Nat) (x : Tree) : (setTree s n x).sec = s.sec := rfl
@[simp] theorem setTree_pwr (s : State) (n : Nat) (x : Tree) : (setTree s n x).pwr = s.pwr := rfl
@[simp] theorem setTree_pins (s : State) (n : Nat) (x : Tree) : (setTree s n x).pins = s.pins := rfl
@[simp] theorem setStay_pending (s : State) (n : Nat) (x : Stay) : (setStay s n x).pending = s.pending := rfl
@[simp] theorem setStay_aon (s : State) (n : Nat) (x : Stay) : (setStay s n x).aon = s.aon := rfl
@[simp] theorem setStay_aclks (s : State) (n : Nat) (x : Stay) : (setStay s n x).aclks = s.aclks := rfl
@[simp] theorem setStay_nclks (s : State) (n : Nat) (x : Stay) : (setStay s n x).nclks = s.nclks := rfl
@[simp] theorem setStay_xclk (s : State) (n : Nat) (x : Stay) : (setStay s n x).xclk = s.xclk := rfl
@[simp] theorem setStay_fresh (s : State) (n : Nat) (x : Stay) : (setStay s n x).fresh = s.fresh := rfl
@[simp] theorem setStay_cores (s : State) (n : Nat) (x : Stay) : (setStay s n x).cores = s.cores := rfl
@[simp] theorem setStay_phys (s : State) (n : Nat) (x : Stay) : (setStay s n x).phys = s.phys := rfl
@[simp] theorem setStay_hub (s : State) (n : Nat) (x : Stay) : (setStay s n x).hub = s.hub := rfl
@[simp] theorem setStay_parts (s : State) (n : Nat) (x : Stay) : (setStay s n x).parts = s.parts := rfl
@[simp] theorem setStay_evqs (s : State) (n : Nat) (x : Stay) : (setStay s n x).evqs = s.evqs := rfl
@[simp] theorem setStay_log (s : State) (n : Nat) (x : Stay) : (setStay s n x).log = s.log := rfl
@[simp] theorem setStay_wct (s : State) (n : Nat) (x : Stay) : (setStay s n x).wct = s.wct := rfl
@[simp] theorem setStay_hbm (s : State) (n : Nat) (x : Stay) : (setStay s n x).hbm = s.hbm := rfl
@[simp] theorem setStay_host (s : State) (n : Nat) (x : Stay) : (setStay s n x).host = s.host := rfl
@[simp] theorem setStay_arb (s : State) (n : Nat) (x : Stay) : (setStay s n x).arb = s.arb := rfl
@[simp] theorem setStay_hif (s : State) (n : Nat) (x : Stay) : (setStay s n x).hif = s.hif := rfl
@[simp] theorem setStay_fwc (s : State) (n : Nat) (x : Stay) : (setStay s n x).fwc = s.fwc := rfl
@[simp] theorem setStay_sec (s : State) (n : Nat) (x : Stay) : (setStay s n x).sec = s.sec := rfl
@[simp] theorem setStay_pwr (s : State) (n : Nat) (x : Stay) : (setStay s n x).pwr = s.pwr := rfl
@[simp] theorem setStay_pins (s : State) (n : Nat) (x : Stay) : (setStay s n x).pins = s.pins := rfl
@[simp] theorem setEpoch_pending (s : State) (p : Nat) (x : EpochSt) : (setEpoch s p x).pending = s.pending := rfl
@[simp] theorem setEpoch_aon (s : State) (p : Nat) (x : EpochSt) : (setEpoch s p x).aon = s.aon := rfl
@[simp] theorem setEpoch_aclks (s : State) (p : Nat) (x : EpochSt) : (setEpoch s p x).aclks = s.aclks := rfl
@[simp] theorem setEpoch_nclks (s : State) (p : Nat) (x : EpochSt) : (setEpoch s p x).nclks = s.nclks := rfl
@[simp] theorem setEpoch_xclk (s : State) (p : Nat) (x : EpochSt) : (setEpoch s p x).xclk = s.xclk := rfl
@[simp] theorem setEpoch_fresh (s : State) (p : Nat) (x : EpochSt) : (setEpoch s p x).fresh = s.fresh := rfl
@[simp] theorem setEpoch_cores (s : State) (p : Nat) (x : EpochSt) : (setEpoch s p x).cores = s.cores := rfl
@[simp] theorem setEpoch_phys (s : State) (p : Nat) (x : EpochSt) : (setEpoch s p x).phys = s.phys := rfl
@[simp] theorem setEpoch_hub (s : State) (p : Nat) (x : EpochSt) : (setEpoch s p x).hub = s.hub := rfl
@[simp] theorem setEpoch_parts (s : State) (p : Nat) (x : EpochSt) : (setEpoch s p x).parts = s.parts := rfl
@[simp] theorem setEpoch_evqs (s : State) (p : Nat) (x : EpochSt) : (setEpoch s p x).evqs = s.evqs := rfl
@[simp] theorem setEpoch_log (s : State) (p : Nat) (x : EpochSt) : (setEpoch s p x).log = s.log := rfl
@[simp] theorem setEpoch_wct (s : State) (p : Nat) (x : EpochSt) : (setEpoch s p x).wct = s.wct := rfl
@[simp] theorem setEpoch_hbm (s : State) (p : Nat) (x : EpochSt) : (setEpoch s p x).hbm = s.hbm := rfl
@[simp] theorem setEpoch_host (s : State) (p : Nat) (x : EpochSt) : (setEpoch s p x).host = s.host := rfl
@[simp] theorem setEpoch_arb (s : State) (p : Nat) (x : EpochSt) : (setEpoch s p x).arb = s.arb := rfl
@[simp] theorem setEpoch_hif (s : State) (p : Nat) (x : EpochSt) : (setEpoch s p x).hif = s.hif := rfl
@[simp] theorem setEpoch_fwc (s : State) (p : Nat) (x : EpochSt) : (setEpoch s p x).fwc = s.fwc := rfl
@[simp] theorem setEpoch_sec (s : State) (p : Nat) (x : EpochSt) : (setEpoch s p x).sec = s.sec := rfl
@[simp] theorem setEpoch_pwr (s : State) (p : Nat) (x : EpochSt) : (setEpoch s p x).pwr = s.pwr := rfl
@[simp] theorem setEpoch_pins (s : State) (p : Nat) (x : EpochSt) : (setEpoch s p x).pins = s.pins := rfl
@[simp] theorem setGroup_pending (s : State) (g : Group_) : (setGroup s g).pending = s.pending := rfl
@[simp] theorem setGroup_aon (s : State) (g : Group_) : (setGroup s g).aon = s.aon := rfl
@[simp] theorem setGroup_aclks (s : State) (g : Group_) : (setGroup s g).aclks = s.aclks := rfl
@[simp] theorem setGroup_nclks (s : State) (g : Group_) : (setGroup s g).nclks = s.nclks := rfl
@[simp] theorem setGroup_xclk (s : State) (g : Group_) : (setGroup s g).xclk = s.xclk := rfl
@[simp] theorem setGroup_fresh (s : State) (g : Group_) : (setGroup s g).fresh = s.fresh := rfl
@[simp] theorem setGroup_cores (s : State) (g : Group_) : (setGroup s g).cores = s.cores := rfl
@[simp] theorem setGroup_phys (s : State) (g : Group_) : (setGroup s g).phys = s.phys := rfl
@[simp] theorem setGroup_hub (s : State) (g : Group_) : (setGroup s g).hub = s.hub := rfl
@[simp] theorem setGroup_parts (s : State) (g : Group_) : (setGroup s g).parts = s.parts := rfl
@[simp] theorem setGroup_evqs (s : State) (g : Group_) : (setGroup s g).evqs = s.evqs := rfl
@[simp] theorem setGroup_log (s : State) (g : Group_) : (setGroup s g).log = s.log := rfl
@[simp] theorem setGroup_wct (s : State) (g : Group_) : (setGroup s g).wct = s.wct := rfl
@[simp] theorem setGroup_hbm (s : State) (g : Group_) : (setGroup s g).hbm = s.hbm := rfl
@[simp] theorem setGroup_host (s : State) (g : Group_) : (setGroup s g).host = s.host := rfl
@[simp] theorem setGroup_arb (s : State) (g : Group_) : (setGroup s g).arb = s.arb := rfl
@[simp] theorem setGroup_hif (s : State) (g : Group_) : (setGroup s g).hif = s.hif := rfl
@[simp] theorem setGroup_fwc (s : State) (g : Group_) : (setGroup s g).fwc = s.fwc := rfl
@[simp] theorem setGroup_sec (s : State) (g : Group_) : (setGroup s g).sec = s.sec := rfl
@[simp] theorem setGroup_pwr (s : State) (g : Group_) : (setGroup s g).pwr = s.pwr := rfl
@[simp] theorem setGroup_pins (s : State) (g : Group_) : (setGroup s g).pins = s.pins := rfl
@[simp] theorem setChan_pending (s : State) (n : Nat) (x : Chan) : (setChan s n x).pending = s.pending := rfl
@[simp] theorem setChan_aon (s : State) (n : Nat) (x : Chan) : (setChan s n x).aon = s.aon := rfl
@[simp] theorem setChan_aclks (s : State) (n : Nat) (x : Chan) : (setChan s n x).aclks = s.aclks := rfl
@[simp] theorem setChan_nclks (s : State) (n : Nat) (x : Chan) : (setChan s n x).nclks = s.nclks := rfl
@[simp] theorem setChan_xclk (s : State) (n : Nat) (x : Chan) : (setChan s n x).xclk = s.xclk := rfl
@[simp] theorem setChan_fresh (s : State) (n : Nat) (x : Chan) : (setChan s n x).fresh = s.fresh := rfl
@[simp] theorem setChan_cores (s : State) (n : Nat) (x : Chan) : (setChan s n x).cores = s.cores := rfl
@[simp] theorem setChan_phys (s : State) (n : Nat) (x : Chan) : (setChan s n x).phys = s.phys := rfl
@[simp] theorem setChan_hub (s : State) (n : Nat) (x : Chan) : (setChan s n x).hub = s.hub := rfl
@[simp] theorem setChan_parts (s : State) (n : Nat) (x : Chan) : (setChan s n x).parts = s.parts := rfl
@[simp] theorem setChan_evqs (s : State) (n : Nat) (x : Chan) : (setChan s n x).evqs = s.evqs := rfl
@[simp] theorem setChan_log (s : State) (n : Nat) (x : Chan) : (setChan s n x).log = s.log := rfl
@[simp] theorem setChan_wct (s : State) (n : Nat) (x : Chan) : (setChan s n x).wct = s.wct := rfl
@[simp] theorem setChan_host (s : State) (n : Nat) (x : Chan) : (setChan s n x).host = s.host := rfl
@[simp] theorem setChan_arb (s : State) (n : Nat) (x : Chan) : (setChan s n x).arb = s.arb := rfl
@[simp] theorem setChan_fab (s : State) (n : Nat) (x : Chan) : (setChan s n x).fab = s.fab := rfl
@[simp] theorem setChan_hif (s : State) (n : Nat) (x : Chan) : (setChan s n x).hif = s.hif := rfl
@[simp] theorem setChan_fwc (s : State) (n : Nat) (x : Chan) : (setChan s n x).fwc = s.fwc := rfl
@[simp] theorem setChan_sec (s : State) (n : Nat) (x : Chan) : (setChan s n x).sec = s.sec := rfl
@[simp] theorem setChan_pwr (s : State) (n : Nat) (x : Chan) : (setChan s n x).pwr = s.pwr := rfl
@[simp] theorem setChan_pins (s : State) (n : Nat) (x : Chan) : (setChan s n x).pins = s.pins := rfl
@[simp] theorem setStack_pending (s : State) (n : Nat) (x : Stack) : (setStack s n x).pending = s.pending := rfl
@[simp] theorem setStack_aon (s : State) (n : Nat) (x : Stack) : (setStack s n x).aon = s.aon := rfl
@[simp] theorem setStack_aclks (s : State) (n : Nat) (x : Stack) : (setStack s n x).aclks = s.aclks := rfl
@[simp] theorem setStack_nclks (s : State) (n : Nat) (x : Stack) : (setStack s n x).nclks = s.nclks := rfl
@[simp] theorem setStack_xclk (s : State) (n : Nat) (x : Stack) : (setStack s n x).xclk = s.xclk := rfl
@[simp] theorem setStack_fresh (s : State) (n : Nat) (x : Stack) : (setStack s n x).fresh = s.fresh := rfl
@[simp] theorem setStack_cores (s : State) (n : Nat) (x : Stack) : (setStack s n x).cores = s.cores := rfl
@[simp] theorem setStack_phys (s : State) (n : Nat) (x : Stack) : (setStack s n x).phys = s.phys := rfl
@[simp] theorem setStack_hub (s : State) (n : Nat) (x : Stack) : (setStack s n x).hub = s.hub := rfl
@[simp] theorem setStack_parts (s : State) (n : Nat) (x : Stack) : (setStack s n x).parts = s.parts := rfl
@[simp] theorem setStack_evqs (s : State) (n : Nat) (x : Stack) : (setStack s n x).evqs = s.evqs := rfl
@[simp] theorem setStack_log (s : State) (n : Nat) (x : Stack) : (setStack s n x).log = s.log := rfl
@[simp] theorem setStack_wct (s : State) (n : Nat) (x : Stack) : (setStack s n x).wct = s.wct := rfl
@[simp] theorem setStack_host (s : State) (n : Nat) (x : Stack) : (setStack s n x).host = s.host := rfl
@[simp] theorem setStack_arb (s : State) (n : Nat) (x : Stack) : (setStack s n x).arb = s.arb := rfl
@[simp] theorem setStack_fab (s : State) (n : Nat) (x : Stack) : (setStack s n x).fab = s.fab := rfl
@[simp] theorem setStack_hif (s : State) (n : Nat) (x : Stack) : (setStack s n x).hif = s.hif := rfl
@[simp] theorem setStack_fwc (s : State) (n : Nat) (x : Stack) : (setStack s n x).fwc = s.fwc := rfl
@[simp] theorem setStack_sec (s : State) (n : Nat) (x : Stack) : (setStack s n x).sec = s.sec := rfl
@[simp] theorem setStack_pwr (s : State) (n : Nat) (x : Stack) : (setStack s n x).pwr = s.pwr := rfl
@[simp] theorem setStack_pins (s : State) (n : Nat) (x : Stack) : (setStack s n x).pins = s.pins := rfl
@[simp] theorem setEcc_pending (s : State) (n : Nat) (x : HbmEcc) : (setEcc s n x).pending = s.pending := rfl
@[simp] theorem setEcc_aon (s : State) (n : Nat) (x : HbmEcc) : (setEcc s n x).aon = s.aon := rfl
@[simp] theorem setEcc_aclks (s : State) (n : Nat) (x : HbmEcc) : (setEcc s n x).aclks = s.aclks := rfl
@[simp] theorem setEcc_nclks (s : State) (n : Nat) (x : HbmEcc) : (setEcc s n x).nclks = s.nclks := rfl
@[simp] theorem setEcc_xclk (s : State) (n : Nat) (x : HbmEcc) : (setEcc s n x).xclk = s.xclk := rfl
@[simp] theorem setEcc_fresh (s : State) (n : Nat) (x : HbmEcc) : (setEcc s n x).fresh = s.fresh := rfl
@[simp] theorem setEcc_cores (s : State) (n : Nat) (x : HbmEcc) : (setEcc s n x).cores = s.cores := rfl
@[simp] theorem setEcc_phys (s : State) (n : Nat) (x : HbmEcc) : (setEcc s n x).phys = s.phys := rfl
@[simp] theorem setEcc_hub (s : State) (n : Nat) (x : HbmEcc) : (setEcc s n x).hub = s.hub := rfl
@[simp] theorem setEcc_parts (s : State) (n : Nat) (x : HbmEcc) : (setEcc s n x).parts = s.parts := rfl
@[simp] theorem setEcc_evqs (s : State) (n : Nat) (x : HbmEcc) : (setEcc s n x).evqs = s.evqs := rfl
@[simp] theorem setEcc_log (s : State) (n : Nat) (x : HbmEcc) : (setEcc s n x).log = s.log := rfl
@[simp] theorem setEcc_wct (s : State) (n : Nat) (x : HbmEcc) : (setEcc s n x).wct = s.wct := rfl
@[simp] theorem setEcc_host (s : State) (n : Nat) (x : HbmEcc) : (setEcc s n x).host = s.host := rfl
@[simp] theorem setEcc_arb (s : State) (n : Nat) (x : HbmEcc) : (setEcc s n x).arb = s.arb := rfl
@[simp] theorem setEcc_fab (s : State) (n : Nat) (x : HbmEcc) : (setEcc s n x).fab = s.fab := rfl
@[simp] theorem setEcc_hif (s : State) (n : Nat) (x : HbmEcc) : (setEcc s n x).hif = s.hif := rfl
@[simp] theorem setEcc_fwc (s : State) (n : Nat) (x : HbmEcc) : (setEcc s n x).fwc = s.fwc := rfl
@[simp] theorem setEcc_sec (s : State) (n : Nat) (x : HbmEcc) : (setEcc s n x).sec = s.sec := rfl
@[simp] theorem setEcc_pwr (s : State) (n : Nat) (x : HbmEcc) : (setEcc s n x).pwr = s.pwr := rfl
@[simp] theorem setEcc_pins (s : State) (n : Nat) (x : HbmEcc) : (setEcc s n x).pins = s.pins := rfl
@[simp] theorem setCdc_pending (s : State) (q : Nat) (x : Cdc) : (setCdc s q x).pending = s.pending := rfl
@[simp] theorem setCdc_aon (s : State) (q : Nat) (x : Cdc) : (setCdc s q x).aon = s.aon := rfl
@[simp] theorem setCdc_aclks (s : State) (q : Nat) (x : Cdc) : (setCdc s q x).aclks = s.aclks := rfl
@[simp] theorem setCdc_nclks (s : State) (q : Nat) (x : Cdc) : (setCdc s q x).nclks = s.nclks := rfl
@[simp] theorem setCdc_xclk (s : State) (q : Nat) (x : Cdc) : (setCdc s q x).xclk = s.xclk := rfl
@[simp] theorem setCdc_fresh (s : State) (q : Nat) (x : Cdc) : (setCdc s q x).fresh = s.fresh := rfl
@[simp] theorem setCdc_cores (s : State) (q : Nat) (x : Cdc) : (setCdc s q x).cores = s.cores := rfl
@[simp] theorem setCdc_phys (s : State) (q : Nat) (x : Cdc) : (setCdc s q x).phys = s.phys := rfl
@[simp] theorem setCdc_hub (s : State) (q : Nat) (x : Cdc) : (setCdc s q x).hub = s.hub := rfl
@[simp] theorem setCdc_parts (s : State) (q : Nat) (x : Cdc) : (setCdc s q x).parts = s.parts := rfl
@[simp] theorem setCdc_evqs (s : State) (q : Nat) (x : Cdc) : (setCdc s q x).evqs = s.evqs := rfl
@[simp] theorem setCdc_log (s : State) (q : Nat) (x : Cdc) : (setCdc s q x).log = s.log := rfl
@[simp] theorem setCdc_wct (s : State) (q : Nat) (x : Cdc) : (setCdc s q x).wct = s.wct := rfl
@[simp] theorem setCdc_hbm (s : State) (q : Nat) (x : Cdc) : (setCdc s q x).hbm = s.hbm := rfl
@[simp] theorem setCdc_host (s : State) (q : Nat) (x : Cdc) : (setCdc s q x).host = s.host := rfl
@[simp] theorem setCdc_fab (s : State) (q : Nat) (x : Cdc) : (setCdc s q x).fab = s.fab := rfl
@[simp] theorem setCdc_hif (s : State) (q : Nat) (x : Cdc) : (setCdc s q x).hif = s.hif := rfl
@[simp] theorem setCdc_fwc (s : State) (q : Nat) (x : Cdc) : (setCdc s q x).fwc = s.fwc := rfl
@[simp] theorem setCdc_sec (s : State) (q : Nat) (x : Cdc) : (setCdc s q x).sec = s.sec := rfl
@[simp] theorem setCdc_pwr (s : State) (q : Nat) (x : Cdc) : (setCdc s q x).pwr = s.pwr := rfl
@[simp] theorem setCdc_pins (s : State) (q : Nat) (x : Cdc) : (setCdc s q x).pins = s.pins := rfl
@[simp] theorem setArbSet_pending (s : State) (set : Nat) (x : ArbSet) : (setArbSet s set x).pending = s.pending := rfl
@[simp] theorem setArbSet_aon (s : State) (set : Nat) (x : ArbSet) : (setArbSet s set x).aon = s.aon := rfl
@[simp] theorem setArbSet_aclks (s : State) (set : Nat) (x : ArbSet) : (setArbSet s set x).aclks = s.aclks := rfl
@[simp] theorem setArbSet_nclks (s : State) (set : Nat) (x : ArbSet) : (setArbSet s set x).nclks = s.nclks := rfl
@[simp] theorem setArbSet_xclk (s : State) (set : Nat) (x : ArbSet) : (setArbSet s set x).xclk = s.xclk := rfl
@[simp] theorem setArbSet_fresh (s : State) (set : Nat) (x : ArbSet) : (setArbSet s set x).fresh = s.fresh := rfl
@[simp] theorem setArbSet_cores (s : State) (set : Nat) (x : ArbSet) : (setArbSet s set x).cores = s.cores := rfl
@[simp] theorem setArbSet_phys (s : State) (set : Nat) (x : ArbSet) : (setArbSet s set x).phys = s.phys := rfl
@[simp] theorem setArbSet_hub (s : State) (set : Nat) (x : ArbSet) : (setArbSet s set x).hub = s.hub := rfl
@[simp] theorem setArbSet_parts (s : State) (set : Nat) (x : ArbSet) : (setArbSet s set x).parts = s.parts := rfl
@[simp] theorem setArbSet_evqs (s : State) (set : Nat) (x : ArbSet) : (setArbSet s set x).evqs = s.evqs := rfl
@[simp] theorem setArbSet_log (s : State) (set : Nat) (x : ArbSet) : (setArbSet s set x).log = s.log := rfl
@[simp] theorem setArbSet_wct (s : State) (set : Nat) (x : ArbSet) : (setArbSet s set x).wct = s.wct := rfl
@[simp] theorem setArbSet_hbm (s : State) (set : Nat) (x : ArbSet) : (setArbSet s set x).hbm = s.hbm := rfl
@[simp] theorem setArbSet_host (s : State) (set : Nat) (x : ArbSet) : (setArbSet s set x).host = s.host := rfl
@[simp] theorem setArbSet_fab (s : State) (set : Nat) (x : ArbSet) : (setArbSet s set x).fab = s.fab := rfl
@[simp] theorem setArbSet_hif (s : State) (set : Nat) (x : ArbSet) : (setArbSet s set x).hif = s.hif := rfl
@[simp] theorem setArbSet_fwc (s : State) (set : Nat) (x : ArbSet) : (setArbSet s set x).fwc = s.fwc := rfl
@[simp] theorem setArbSet_sec (s : State) (set : Nat) (x : ArbSet) : (setArbSet s set x).sec = s.sec := rfl
@[simp] theorem setArbSet_pwr (s : State) (set : Nat) (x : ArbSet) : (setArbSet s set x).pwr = s.pwr := rfl
@[simp] theorem setArbSet_pins (s : State) (set : Nat) (x : ArbSet) : (setArbSet s set x).pins = s.pins := rfl
@[simp] theorem setPoint_pending (s : State) (set p : Nat) (x : ArbPoint) : (setPoint s set p x).pending = s.pending := rfl
@[simp] theorem setPoint_aon (s : State) (set p : Nat) (x : ArbPoint) : (setPoint s set p x).aon = s.aon := rfl
@[simp] theorem setPoint_aclks (s : State) (set p : Nat) (x : ArbPoint) : (setPoint s set p x).aclks = s.aclks := rfl
@[simp] theorem setPoint_nclks (s : State) (set p : Nat) (x : ArbPoint) : (setPoint s set p x).nclks = s.nclks := rfl
@[simp] theorem setPoint_xclk (s : State) (set p : Nat) (x : ArbPoint) : (setPoint s set p x).xclk = s.xclk := rfl
@[simp] theorem setPoint_fresh (s : State) (set p : Nat) (x : ArbPoint) : (setPoint s set p x).fresh = s.fresh := rfl
@[simp] theorem setPoint_cores (s : State) (set p : Nat) (x : ArbPoint) : (setPoint s set p x).cores = s.cores := rfl
@[simp] theorem setPoint_phys (s : State) (set p : Nat) (x : ArbPoint) : (setPoint s set p x).phys = s.phys := rfl
@[simp] theorem setPoint_hub (s : State) (set p : Nat) (x : ArbPoint) : (setPoint s set p x).hub = s.hub := rfl
@[simp] theorem setPoint_parts (s : State) (set p : Nat) (x : ArbPoint) : (setPoint s set p x).parts = s.parts := rfl
@[simp] theorem setPoint_evqs (s : State) (set p : Nat) (x : ArbPoint) : (setPoint s set p x).evqs = s.evqs := rfl
@[simp] theorem setPoint_log (s : State) (set p : Nat) (x : ArbPoint) : (setPoint s set p x).log = s.log := rfl
@[simp] theorem setPoint_wct (s : State) (set p : Nat) (x : ArbPoint) : (setPoint s set p x).wct = s.wct := rfl
@[simp] theorem setPoint_hbm (s : State) (set p : Nat) (x : ArbPoint) : (setPoint s set p x).hbm = s.hbm := rfl
@[simp] theorem setPoint_host (s : State) (set p : Nat) (x : ArbPoint) : (setPoint s set p x).host = s.host := rfl
@[simp] theorem setPoint_fab (s : State) (set p : Nat) (x : ArbPoint) : (setPoint s set p x).fab = s.fab := rfl
@[simp] theorem setPoint_hif (s : State) (set p : Nat) (x : ArbPoint) : (setPoint s set p x).hif = s.hif := rfl
@[simp] theorem setPoint_fwc (s : State) (set p : Nat) (x : ArbPoint) : (setPoint s set p x).fwc = s.fwc := rfl
@[simp] theorem setPoint_sec (s : State) (set p : Nat) (x : ArbPoint) : (setPoint s set p x).sec = s.sec := rfl
@[simp] theorem setPoint_pwr (s : State) (set p : Nat) (x : ArbPoint) : (setPoint s set p x).pwr = s.pwr := rfl
@[simp] theorem setPoint_pins (s : State) (set p : Nat) (x : ArbPoint) : (setPoint s set p x).pins = s.pins := rfl
@[simp] theorem setFn_pending (s : State) (f : Nat) (x : Fn) : (setFn s f x).pending = s.pending := rfl
@[simp] theorem setFn_aon (s : State) (f : Nat) (x : Fn) : (setFn s f x).aon = s.aon := rfl
@[simp] theorem setFn_aclks (s : State) (f : Nat) (x : Fn) : (setFn s f x).aclks = s.aclks := rfl
@[simp] theorem setFn_nclks (s : State) (f : Nat) (x : Fn) : (setFn s f x).nclks = s.nclks := rfl
@[simp] theorem setFn_xclk (s : State) (f : Nat) (x : Fn) : (setFn s f x).xclk = s.xclk := rfl
@[simp] theorem setFn_fresh (s : State) (f : Nat) (x : Fn) : (setFn s f x).fresh = s.fresh := rfl
@[simp] theorem setFn_cores (s : State) (f : Nat) (x : Fn) : (setFn s f x).cores = s.cores := rfl
@[simp] theorem setFn_phys (s : State) (f : Nat) (x : Fn) : (setFn s f x).phys = s.phys := rfl
@[simp] theorem setFn_hub (s : State) (f : Nat) (x : Fn) : (setFn s f x).hub = s.hub := rfl
@[simp] theorem setFn_parts (s : State) (f : Nat) (x : Fn) : (setFn s f x).parts = s.parts := rfl
@[simp] theorem setFn_evqs (s : State) (f : Nat) (x : Fn) : (setFn s f x).evqs = s.evqs := rfl
@[simp] theorem setFn_log (s : State) (f : Nat) (x : Fn) : (setFn s f x).log = s.log := rfl
@[simp] theorem setFn_wct (s : State) (f : Nat) (x : Fn) : (setFn s f x).wct = s.wct := rfl
@[simp] theorem setFn_hbm (s : State) (f : Nat) (x : Fn) : (setFn s f x).hbm = s.hbm := rfl
@[simp] theorem setFn_host (s : State) (f : Nat) (x : Fn) : (setFn s f x).host = s.host := rfl
@[simp] theorem setFn_arb (s : State) (f : Nat) (x : Fn) : (setFn s f x).arb = s.arb := rfl
@[simp] theorem setFn_fab (s : State) (f : Nat) (x : Fn) : (setFn s f x).fab = s.fab := rfl
@[simp] theorem setFn_fwc (s : State) (f : Nat) (x : Fn) : (setFn s f x).fwc = s.fwc := rfl
@[simp] theorem setFn_sec (s : State) (f : Nat) (x : Fn) : (setFn s f x).sec = s.sec := rfl
@[simp] theorem setFn_pwr (s : State) (f : Nat) (x : Fn) : (setFn s f x).pwr = s.pwr := rfl
@[simp] theorem setFn_pins (s : State) (f : Nat) (x : Fn) : (setFn s f x).pins = s.pins := rfl
@[simp] theorem setHRing_pending (s : State) (f n : Nat) (x : HRing) : (setHRing s f n x).pending = s.pending := rfl
@[simp] theorem setHRing_aon (s : State) (f n : Nat) (x : HRing) : (setHRing s f n x).aon = s.aon := rfl
@[simp] theorem setHRing_aclks (s : State) (f n : Nat) (x : HRing) : (setHRing s f n x).aclks = s.aclks := rfl
@[simp] theorem setHRing_nclks (s : State) (f n : Nat) (x : HRing) : (setHRing s f n x).nclks = s.nclks := rfl
@[simp] theorem setHRing_xclk (s : State) (f n : Nat) (x : HRing) : (setHRing s f n x).xclk = s.xclk := rfl
@[simp] theorem setHRing_fresh (s : State) (f n : Nat) (x : HRing) : (setHRing s f n x).fresh = s.fresh := rfl
@[simp] theorem setHRing_cores (s : State) (f n : Nat) (x : HRing) : (setHRing s f n x).cores = s.cores := rfl
@[simp] theorem setHRing_phys (s : State) (f n : Nat) (x : HRing) : (setHRing s f n x).phys = s.phys := rfl
@[simp] theorem setHRing_hub (s : State) (f n : Nat) (x : HRing) : (setHRing s f n x).hub = s.hub := rfl
@[simp] theorem setHRing_parts (s : State) (f n : Nat) (x : HRing) : (setHRing s f n x).parts = s.parts := rfl
@[simp] theorem setHRing_evqs (s : State) (f n : Nat) (x : HRing) : (setHRing s f n x).evqs = s.evqs := rfl
@[simp] theorem setHRing_log (s : State) (f n : Nat) (x : HRing) : (setHRing s f n x).log = s.log := rfl
@[simp] theorem setHRing_wct (s : State) (f n : Nat) (x : HRing) : (setHRing s f n x).wct = s.wct := rfl
@[simp] theorem setHRing_hbm (s : State) (f n : Nat) (x : HRing) : (setHRing s f n x).hbm = s.hbm := rfl
@[simp] theorem setHRing_host (s : State) (f n : Nat) (x : HRing) : (setHRing s f n x).host = s.host := rfl
@[simp] theorem setHRing_arb (s : State) (f n : Nat) (x : HRing) : (setHRing s f n x).arb = s.arb := rfl
@[simp] theorem setHRing_fab (s : State) (f n : Nat) (x : HRing) : (setHRing s f n x).fab = s.fab := rfl
@[simp] theorem setHRing_fwc (s : State) (f n : Nat) (x : HRing) : (setHRing s f n x).fwc = s.fwc := rfl
@[simp] theorem setHRing_sec (s : State) (f n : Nat) (x : HRing) : (setHRing s f n x).sec = s.sec := rfl
@[simp] theorem setHRing_pwr (s : State) (f n : Nat) (x : HRing) : (setHRing s f n x).pwr = s.pwr := rfl
@[simp] theorem setHRing_pins (s : State) (f n : Nat) (x : HRing) : (setHRing s f n x).pins = s.pins := rfl
@[simp] theorem setSess_pending (s : State) (k : Nat) (x : Sess) : (setSess s k x).pending = s.pending := rfl
@[simp] theorem setSess_aon (s : State) (k : Nat) (x : Sess) : (setSess s k x).aon = s.aon := rfl
@[simp] theorem setSess_aclks (s : State) (k : Nat) (x : Sess) : (setSess s k x).aclks = s.aclks := rfl
@[simp] theorem setSess_nclks (s : State) (k : Nat) (x : Sess) : (setSess s k x).nclks = s.nclks := rfl
@[simp] theorem setSess_xclk (s : State) (k : Nat) (x : Sess) : (setSess s k x).xclk = s.xclk := rfl
@[simp] theorem setSess_fresh (s : State) (k : Nat) (x : Sess) : (setSess s k x).fresh = s.fresh := rfl
@[simp] theorem setSess_cores (s : State) (k : Nat) (x : Sess) : (setSess s k x).cores = s.cores := rfl
@[simp] theorem setSess_phys (s : State) (k : Nat) (x : Sess) : (setSess s k x).phys = s.phys := rfl
@[simp] theorem setSess_hub (s : State) (k : Nat) (x : Sess) : (setSess s k x).hub = s.hub := rfl
@[simp] theorem setSess_parts (s : State) (k : Nat) (x : Sess) : (setSess s k x).parts = s.parts := rfl
@[simp] theorem setSess_evqs (s : State) (k : Nat) (x : Sess) : (setSess s k x).evqs = s.evqs := rfl
@[simp] theorem setSess_log (s : State) (k : Nat) (x : Sess) : (setSess s k x).log = s.log := rfl
@[simp] theorem setSess_wct (s : State) (k : Nat) (x : Sess) : (setSess s k x).wct = s.wct := rfl
@[simp] theorem setSess_hbm (s : State) (k : Nat) (x : Sess) : (setSess s k x).hbm = s.hbm := rfl
@[simp] theorem setSess_host (s : State) (k : Nat) (x : Sess) : (setSess s k x).host = s.host := rfl
@[simp] theorem setSess_arb (s : State) (k : Nat) (x : Sess) : (setSess s k x).arb = s.arb := rfl
@[simp] theorem setSess_fab (s : State) (k : Nat) (x : Sess) : (setSess s k x).fab = s.fab := rfl
@[simp] theorem setSess_hif (s : State) (k : Nat) (x : Sess) : (setSess s k x).hif = s.hif := rfl
@[simp] theorem setSess_fwc (s : State) (k : Nat) (x : Sess) : (setSess s k x).fwc = s.fwc := rfl
@[simp] theorem setSess_pwr (s : State) (k : Nat) (x : Sess) : (setSess s k x).pwr = s.pwr := rfl
@[simp] theorem setSess_pins (s : State) (k : Nat) (x : Sess) : (setSess s k x).pins = s.pins := rfl
@[simp] theorem setSpdm_pending (s : State) (m : Bool) (x : Spdm) : (setSpdm s m x).pending = s.pending := rfl
@[simp] theorem setSpdm_aon (s : State) (m : Bool) (x : Spdm) : (setSpdm s m x).aon = s.aon := rfl
@[simp] theorem setSpdm_aclks (s : State) (m : Bool) (x : Spdm) : (setSpdm s m x).aclks = s.aclks := rfl
@[simp] theorem setSpdm_nclks (s : State) (m : Bool) (x : Spdm) : (setSpdm s m x).nclks = s.nclks := rfl
@[simp] theorem setSpdm_xclk (s : State) (m : Bool) (x : Spdm) : (setSpdm s m x).xclk = s.xclk := rfl
@[simp] theorem setSpdm_fresh (s : State) (m : Bool) (x : Spdm) : (setSpdm s m x).fresh = s.fresh := rfl
@[simp] theorem setSpdm_cores (s : State) (m : Bool) (x : Spdm) : (setSpdm s m x).cores = s.cores := rfl
@[simp] theorem setSpdm_phys (s : State) (m : Bool) (x : Spdm) : (setSpdm s m x).phys = s.phys := rfl
@[simp] theorem setSpdm_hub (s : State) (m : Bool) (x : Spdm) : (setSpdm s m x).hub = s.hub := rfl
@[simp] theorem setSpdm_parts (s : State) (m : Bool) (x : Spdm) : (setSpdm s m x).parts = s.parts := rfl
@[simp] theorem setSpdm_evqs (s : State) (m : Bool) (x : Spdm) : (setSpdm s m x).evqs = s.evqs := rfl
@[simp] theorem setSpdm_log (s : State) (m : Bool) (x : Spdm) : (setSpdm s m x).log = s.log := rfl
@[simp] theorem setSpdm_wct (s : State) (m : Bool) (x : Spdm) : (setSpdm s m x).wct = s.wct := rfl
@[simp] theorem setSpdm_hbm (s : State) (m : Bool) (x : Spdm) : (setSpdm s m x).hbm = s.hbm := rfl
@[simp] theorem setSpdm_host (s : State) (m : Bool) (x : Spdm) : (setSpdm s m x).host = s.host := rfl
@[simp] theorem setSpdm_arb (s : State) (m : Bool) (x : Spdm) : (setSpdm s m x).arb = s.arb := rfl
@[simp] theorem setSpdm_fab (s : State) (m : Bool) (x : Spdm) : (setSpdm s m x).fab = s.fab := rfl
@[simp] theorem setSpdm_hif (s : State) (m : Bool) (x : Spdm) : (setSpdm s m x).hif = s.hif := rfl
@[simp] theorem setSpdm_fwc (s : State) (m : Bool) (x : Spdm) : (setSpdm s m x).fwc = s.fwc := rfl
@[simp] theorem setSpdm_pwr (s : State) (m : Bool) (x : Spdm) : (setSpdm s m x).pwr = s.pwr := rfl
@[simp] theorem setSpdm_pins (s : State) (m : Bool) (x : Spdm) : (setSpdm s m x).pins = s.pins := rfl
@[simp] theorem setHands_pending (s : State) (l : List Handshake) : (setHands s l).pending = s.pending := rfl
@[simp] theorem setHands_aon (s : State) (l : List Handshake) : (setHands s l).aon = s.aon := rfl
@[simp] theorem setHands_aclks (s : State) (l : List Handshake) : (setHands s l).aclks = s.aclks := rfl
@[simp] theorem setHands_nclks (s : State) (l : List Handshake) : (setHands s l).nclks = s.nclks := rfl
@[simp] theorem setHands_xclk (s : State) (l : List Handshake) : (setHands s l).xclk = s.xclk := rfl
@[simp] theorem setHands_fresh (s : State) (l : List Handshake) : (setHands s l).fresh = s.fresh := rfl
@[simp] theorem setHands_cores (s : State) (l : List Handshake) : (setHands s l).cores = s.cores := rfl
@[simp] theorem setHands_phys (s : State) (l : List Handshake) : (setHands s l).phys = s.phys := rfl
@[simp] theorem setHands_hub (s : State) (l : List Handshake) : (setHands s l).hub = s.hub := rfl
@[simp] theorem setHands_parts (s : State) (l : List Handshake) : (setHands s l).parts = s.parts := rfl
@[simp] theorem setHands_evqs (s : State) (l : List Handshake) : (setHands s l).evqs = s.evqs := rfl
@[simp] theorem setHands_log (s : State) (l : List Handshake) : (setHands s l).log = s.log := rfl
@[simp] theorem setHands_wct (s : State) (l : List Handshake) : (setHands s l).wct = s.wct := rfl
@[simp] theorem setHands_hbm (s : State) (l : List Handshake) : (setHands s l).hbm = s.hbm := rfl
@[simp] theorem setHands_host (s : State) (l : List Handshake) : (setHands s l).host = s.host := rfl
@[simp] theorem setHands_arb (s : State) (l : List Handshake) : (setHands s l).arb = s.arb := rfl
@[simp] theorem setHands_fab (s : State) (l : List Handshake) : (setHands s l).fab = s.fab := rfl
@[simp] theorem setHands_hif (s : State) (l : List Handshake) : (setHands s l).hif = s.hif := rfl
@[simp] theorem setHands_fwc (s : State) (l : List Handshake) : (setHands s l).fwc = s.fwc := rfl
@[simp] theorem setHands_pwr (s : State) (l : List Handshake) : (setHands s l).pwr = s.pwr := rfl
@[simp] theorem setHands_pins (s : State) (l : List Handshake) : (setHands s l).pins = s.pins := rfl
@[simp] theorem setCtlEpoch_pending (s : State) (n : Nat) (x : Epochs) : (setCtlEpoch s n x).pending = s.pending := rfl
@[simp] theorem setCtlEpoch_aon (s : State) (n : Nat) (x : Epochs) : (setCtlEpoch s n x).aon = s.aon := rfl
@[simp] theorem setCtlEpoch_aclks (s : State) (n : Nat) (x : Epochs) : (setCtlEpoch s n x).aclks = s.aclks := rfl
@[simp] theorem setCtlEpoch_nclks (s : State) (n : Nat) (x : Epochs) : (setCtlEpoch s n x).nclks = s.nclks := rfl
@[simp] theorem setCtlEpoch_xclk (s : State) (n : Nat) (x : Epochs) : (setCtlEpoch s n x).xclk = s.xclk := rfl
@[simp] theorem setCtlEpoch_fresh (s : State) (n : Nat) (x : Epochs) : (setCtlEpoch s n x).fresh = s.fresh := rfl
@[simp] theorem setCtlEpoch_cores (s : State) (n : Nat) (x : Epochs) : (setCtlEpoch s n x).cores = s.cores := rfl
@[simp] theorem setCtlEpoch_phys (s : State) (n : Nat) (x : Epochs) : (setCtlEpoch s n x).phys = s.phys := rfl
@[simp] theorem setCtlEpoch_parts (s : State) (n : Nat) (x : Epochs) : (setCtlEpoch s n x).parts = s.parts := rfl
@[simp] theorem setCtlEpoch_evqs (s : State) (n : Nat) (x : Epochs) : (setCtlEpoch s n x).evqs = s.evqs := rfl
@[simp] theorem setCtlEpoch_log (s : State) (n : Nat) (x : Epochs) : (setCtlEpoch s n x).log = s.log := rfl
@[simp] theorem setCtlEpoch_wct (s : State) (n : Nat) (x : Epochs) : (setCtlEpoch s n x).wct = s.wct := rfl
@[simp] theorem setCtlEpoch_hbm (s : State) (n : Nat) (x : Epochs) : (setCtlEpoch s n x).hbm = s.hbm := rfl
@[simp] theorem setCtlEpoch_host (s : State) (n : Nat) (x : Epochs) : (setCtlEpoch s n x).host = s.host := rfl
@[simp] theorem setCtlEpoch_arb (s : State) (n : Nat) (x : Epochs) : (setCtlEpoch s n x).arb = s.arb := rfl
@[simp] theorem setCtlEpoch_fab (s : State) (n : Nat) (x : Epochs) : (setCtlEpoch s n x).fab = s.fab := rfl
@[simp] theorem setCtlEpoch_hif (s : State) (n : Nat) (x : Epochs) : (setCtlEpoch s n x).hif = s.hif := rfl
@[simp] theorem setCtlEpoch_fwc (s : State) (n : Nat) (x : Epochs) : (setCtlEpoch s n x).fwc = s.fwc := rfl
@[simp] theorem setCtlEpoch_sec (s : State) (n : Nat) (x : Epochs) : (setCtlEpoch s n x).sec = s.sec := rfl
@[simp] theorem setCtlEpoch_pwr (s : State) (n : Nat) (x : Epochs) : (setCtlEpoch s n x).pwr = s.pwr := rfl
@[simp] theorem setCtlEpoch_pins (s : State) (n : Nat) (x : Epochs) : (setCtlEpoch s n x).pins = s.pins := rfl
@[simp] theorem setPwr_pending (s : State) (x : Pwr) : (setPwr s x).pending = s.pending := rfl
@[simp] theorem setPwr_aon (s : State) (x : Pwr) : (setPwr s x).aon = s.aon := rfl
@[simp] theorem setPwr_aclks (s : State) (x : Pwr) : (setPwr s x).aclks = s.aclks := rfl
@[simp] theorem setPwr_nclks (s : State) (x : Pwr) : (setPwr s x).nclks = s.nclks := rfl
@[simp] theorem setPwr_xclk (s : State) (x : Pwr) : (setPwr s x).xclk = s.xclk := rfl
@[simp] theorem setPwr_fresh (s : State) (x : Pwr) : (setPwr s x).fresh = s.fresh := rfl
@[simp] theorem setPwr_cores (s : State) (x : Pwr) : (setPwr s x).cores = s.cores := rfl
@[simp] theorem setPwr_phys (s : State) (x : Pwr) : (setPwr s x).phys = s.phys := rfl
@[simp] theorem setPwr_hub (s : State) (x : Pwr) : (setPwr s x).hub = s.hub := rfl
@[simp] theorem setPwr_parts (s : State) (x : Pwr) : (setPwr s x).parts = s.parts := rfl
@[simp] theorem setPwr_evqs (s : State) (x : Pwr) : (setPwr s x).evqs = s.evqs := rfl
@[simp] theorem setPwr_log (s : State) (x : Pwr) : (setPwr s x).log = s.log := rfl
@[simp] theorem setPwr_wct (s : State) (x : Pwr) : (setPwr s x).wct = s.wct := rfl
@[simp] theorem setPwr_hbm (s : State) (x : Pwr) : (setPwr s x).hbm = s.hbm := rfl
@[simp] theorem setPwr_host (s : State) (x : Pwr) : (setPwr s x).host = s.host := rfl
@[simp] theorem setPwr_arb (s : State) (x : Pwr) : (setPwr s x).arb = s.arb := rfl
@[simp] theorem setPwr_fab (s : State) (x : Pwr) : (setPwr s x).fab = s.fab := rfl
@[simp] theorem setPwr_hif (s : State) (x : Pwr) : (setPwr s x).hif = s.hif := rfl
@[simp] theorem setPwr_fwc (s : State) (x : Pwr) : (setPwr s x).fwc = s.fwc := rfl
@[simp] theorem setPwr_sec (s : State) (x : Pwr) : (setPwr s x).sec = s.sec := rfl
@[simp] theorem setPwr_pins (s : State) (x : Pwr) : (setPwr s x).pins = s.pins := rfl
@[simp] theorem setHal_pending (s : State) (c : Nat) (h : Hal) : (setHal s c h).pending = s.pending := rfl
theorem activeSlot_setBoot (s : State) (n : Nat) (h : itemCount s.fwc.flash.boot ≠ 0xFFFFFFFF#32) :
    activeSlot (setFlash s { s.fwc.flash with boot := itemWrite s.fwc.flash.boot n }) = n := by
  simp [activeSlot, setFlash, itemBody_itemWrite _ _ _ h]

/-! ### The log and events reach only the log and the event queues -/

@[simp] theorem logRecord_pending (s : State) (src sev code part session data : Nat) :
    (logRecord s src sev code part session data).pending = s.pending := by
  unfold logRecord; split <;> rfl
@[simp] theorem trace_pending (s : State) (src n : Nat) : (trace s src n).pending = s.pending := by
  unfold trace; split <;> simp
@[simp] theorem traceAll_pending (s : State) (l : List (Nat × Nat)) : (traceAll s l).pending = s.pending := by
  unfold traceAll; induction l generalizing s with
  | nil => rfl
  | cons a t ih => rw [List.foldl_cons, ih]; simp
@[simp] theorem securityRecord_pending (s : State) (code part session data : Nat) :
    (securityRecord s code part session data).pending = s.pending := by simp [securityRecord]
@[simp] theorem giveEvent_pending (s : State) (f : Nat) (e : Event) : (giveEvent s f e).pending = s.pending := by
  unfold giveEvent; simp only []; split
  · rfl
  · split
    · rfl
    · split <;> rfl
@[simp] theorem raiseN_pending (s : State) (code sev : Nat) (part : Option Nat) (kind unit detail flags count : Nat) :
    (raiseN s code sev part kind unit detail flags count).pending = s.pending := by
  unfold raiseN; cases part <;> simp
@[simp] theorem logRecord_aon (s : State) (src sev code part session data : Nat) :
    (logRecord s src sev code part session data).aon = s.aon := by
  unfold logRecord; split <;> rfl
@[simp] theorem trace_aon (s : State) (src n : Nat) : (trace s src n).aon = s.aon := by
  unfold trace; split <;> simp
@[simp] theorem traceAll_aon (s : State) (l : List (Nat × Nat)) : (traceAll s l).aon = s.aon := by
  unfold traceAll; induction l generalizing s with
  | nil => rfl
  | cons a t ih => rw [List.foldl_cons, ih]; simp
@[simp] theorem securityRecord_aon (s : State) (code part session data : Nat) :
    (securityRecord s code part session data).aon = s.aon := by simp [securityRecord]
@[simp] theorem giveEvent_aon (s : State) (f : Nat) (e : Event) : (giveEvent s f e).aon = s.aon := by
  unfold giveEvent; simp only []; split
  · rfl
  · split
    · rfl
    · split <;> rfl
@[simp] theorem raiseN_aon (s : State) (code sev : Nat) (part : Option Nat) (kind unit detail flags count : Nat) :
    (raiseN s code sev part kind unit detail flags count).aon = s.aon := by
  unfold raiseN; cases part <;> simp
@[simp] theorem logRecord_aclks (s : State) (src sev code part session data : Nat) :
    (logRecord s src sev code part session data).aclks = s.aclks := by
  unfold logRecord; split <;> rfl
@[simp] theorem trace_aclks (s : State) (src n : Nat) : (trace s src n).aclks = s.aclks := by
  unfold trace; split <;> simp
@[simp] theorem traceAll_aclks (s : State) (l : List (Nat × Nat)) : (traceAll s l).aclks = s.aclks := by
  unfold traceAll; induction l generalizing s with
  | nil => rfl
  | cons a t ih => rw [List.foldl_cons, ih]; simp
@[simp] theorem securityRecord_aclks (s : State) (code part session data : Nat) :
    (securityRecord s code part session data).aclks = s.aclks := by simp [securityRecord]
@[simp] theorem giveEvent_aclks (s : State) (f : Nat) (e : Event) : (giveEvent s f e).aclks = s.aclks := by
  unfold giveEvent; simp only []; split
  · rfl
  · split
    · rfl
    · split <;> rfl
@[simp] theorem raiseN_aclks (s : State) (code sev : Nat) (part : Option Nat) (kind unit detail flags count : Nat) :
    (raiseN s code sev part kind unit detail flags count).aclks = s.aclks := by
  unfold raiseN; cases part <;> simp
@[simp] theorem logRecord_nclks (s : State) (src sev code part session data : Nat) :
    (logRecord s src sev code part session data).nclks = s.nclks := by
  unfold logRecord; split <;> rfl
@[simp] theorem trace_nclks (s : State) (src n : Nat) : (trace s src n).nclks = s.nclks := by
  unfold trace; split <;> simp
@[simp] theorem traceAll_nclks (s : State) (l : List (Nat × Nat)) : (traceAll s l).nclks = s.nclks := by
  unfold traceAll; induction l generalizing s with
  | nil => rfl
  | cons a t ih => rw [List.foldl_cons, ih]; simp
@[simp] theorem securityRecord_nclks (s : State) (code part session data : Nat) :
    (securityRecord s code part session data).nclks = s.nclks := by simp [securityRecord]
@[simp] theorem giveEvent_nclks (s : State) (f : Nat) (e : Event) : (giveEvent s f e).nclks = s.nclks := by
  unfold giveEvent; simp only []; split
  · rfl
  · split
    · rfl
    · split <;> rfl
@[simp] theorem raiseN_nclks (s : State) (code sev : Nat) (part : Option Nat) (kind unit detail flags count : Nat) :
    (raiseN s code sev part kind unit detail flags count).nclks = s.nclks := by
  unfold raiseN; cases part <;> simp
@[simp] theorem logRecord_xclk (s : State) (src sev code part session data : Nat) :
    (logRecord s src sev code part session data).xclk = s.xclk := by
  unfold logRecord; split <;> rfl
@[simp] theorem trace_xclk (s : State) (src n : Nat) : (trace s src n).xclk = s.xclk := by
  unfold trace; split <;> simp
@[simp] theorem traceAll_xclk (s : State) (l : List (Nat × Nat)) : (traceAll s l).xclk = s.xclk := by
  unfold traceAll; induction l generalizing s with
  | nil => rfl
  | cons a t ih => rw [List.foldl_cons, ih]; simp
@[simp] theorem securityRecord_xclk (s : State) (code part session data : Nat) :
    (securityRecord s code part session data).xclk = s.xclk := by simp [securityRecord]
@[simp] theorem giveEvent_xclk (s : State) (f : Nat) (e : Event) : (giveEvent s f e).xclk = s.xclk := by
  unfold giveEvent; simp only []; split
  · rfl
  · split
    · rfl
    · split <;> rfl
@[simp] theorem raiseN_xclk (s : State) (code sev : Nat) (part : Option Nat) (kind unit detail flags count : Nat) :
    (raiseN s code sev part kind unit detail flags count).xclk = s.xclk := by
  unfold raiseN; cases part <;> simp
@[simp] theorem logRecord_fresh (s : State) (src sev code part session data : Nat) :
    (logRecord s src sev code part session data).fresh = s.fresh := by
  unfold logRecord; split <;> rfl
@[simp] theorem trace_fresh (s : State) (src n : Nat) : (trace s src n).fresh = s.fresh := by
  unfold trace; split <;> simp
@[simp] theorem traceAll_fresh (s : State) (l : List (Nat × Nat)) : (traceAll s l).fresh = s.fresh := by
  unfold traceAll; induction l generalizing s with
  | nil => rfl
  | cons a t ih => rw [List.foldl_cons, ih]; simp
@[simp] theorem securityRecord_fresh (s : State) (code part session data : Nat) :
    (securityRecord s code part session data).fresh = s.fresh := by simp [securityRecord]
@[simp] theorem giveEvent_fresh (s : State) (f : Nat) (e : Event) : (giveEvent s f e).fresh = s.fresh := by
  unfold giveEvent; simp only []; split
  · rfl
  · split
    · rfl
    · split <;> rfl
@[simp] theorem raiseN_fresh (s : State) (code sev : Nat) (part : Option Nat) (kind unit detail flags count : Nat) :
    (raiseN s code sev part kind unit detail flags count).fresh = s.fresh := by
  unfold raiseN; cases part <;> simp
@[simp] theorem logRecord_cores (s : State) (src sev code part session data : Nat) :
    (logRecord s src sev code part session data).cores = s.cores := by
  unfold logRecord; split <;> rfl
@[simp] theorem trace_cores (s : State) (src n : Nat) : (trace s src n).cores = s.cores := by
  unfold trace; split <;> simp
@[simp] theorem traceAll_cores (s : State) (l : List (Nat × Nat)) : (traceAll s l).cores = s.cores := by
  unfold traceAll; induction l generalizing s with
  | nil => rfl
  | cons a t ih => rw [List.foldl_cons, ih]; simp
@[simp] theorem securityRecord_cores (s : State) (code part session data : Nat) :
    (securityRecord s code part session data).cores = s.cores := by simp [securityRecord]
@[simp] theorem giveEvent_cores (s : State) (f : Nat) (e : Event) : (giveEvent s f e).cores = s.cores := by
  unfold giveEvent; simp only []; split
  · rfl
  · split
    · rfl
    · split <;> rfl
@[simp] theorem raiseN_cores (s : State) (code sev : Nat) (part : Option Nat) (kind unit detail flags count : Nat) :
    (raiseN s code sev part kind unit detail flags count).cores = s.cores := by
  unfold raiseN; cases part <;> simp
@[simp] theorem logRecord_phys (s : State) (src sev code part session data : Nat) :
    (logRecord s src sev code part session data).phys = s.phys := by
  unfold logRecord; split <;> rfl
@[simp] theorem trace_phys (s : State) (src n : Nat) : (trace s src n).phys = s.phys := by
  unfold trace; split <;> simp
@[simp] theorem traceAll_phys (s : State) (l : List (Nat × Nat)) : (traceAll s l).phys = s.phys := by
  unfold traceAll; induction l generalizing s with
  | nil => rfl
  | cons a t ih => rw [List.foldl_cons, ih]; simp
@[simp] theorem securityRecord_phys (s : State) (code part session data : Nat) :
    (securityRecord s code part session data).phys = s.phys := by simp [securityRecord]
@[simp] theorem giveEvent_phys (s : State) (f : Nat) (e : Event) : (giveEvent s f e).phys = s.phys := by
  unfold giveEvent; simp only []; split
  · rfl
  · split
    · rfl
    · split <;> rfl
@[simp] theorem raiseN_phys (s : State) (code sev : Nat) (part : Option Nat) (kind unit detail flags count : Nat) :
    (raiseN s code sev part kind unit detail flags count).phys = s.phys := by
  unfold raiseN; cases part <;> simp
@[simp] theorem logRecord_hub (s : State) (src sev code part session data : Nat) :
    (logRecord s src sev code part session data).hub = s.hub := by
  unfold logRecord; split <;> rfl
@[simp] theorem trace_hub (s : State) (src n : Nat) : (trace s src n).hub = s.hub := by
  unfold trace; split <;> simp
@[simp] theorem traceAll_hub (s : State) (l : List (Nat × Nat)) : (traceAll s l).hub = s.hub := by
  unfold traceAll; induction l generalizing s with
  | nil => rfl
  | cons a t ih => rw [List.foldl_cons, ih]; simp
@[simp] theorem securityRecord_hub (s : State) (code part session data : Nat) :
    (securityRecord s code part session data).hub = s.hub := by simp [securityRecord]
@[simp] theorem giveEvent_hub (s : State) (f : Nat) (e : Event) : (giveEvent s f e).hub = s.hub := by
  unfold giveEvent; simp only []; split
  · rfl
  · split
    · rfl
    · split <;> rfl
@[simp] theorem raiseN_hub (s : State) (code sev : Nat) (part : Option Nat) (kind unit detail flags count : Nat) :
    (raiseN s code sev part kind unit detail flags count).hub = s.hub := by
  unfold raiseN; cases part <;> simp
@[simp] theorem logRecord_parts (s : State) (src sev code part session data : Nat) :
    (logRecord s src sev code part session data).parts = s.parts := by
  unfold logRecord; split <;> rfl
@[simp] theorem trace_parts (s : State) (src n : Nat) : (trace s src n).parts = s.parts := by
  unfold trace; split <;> simp
@[simp] theorem traceAll_parts (s : State) (l : List (Nat × Nat)) : (traceAll s l).parts = s.parts := by
  unfold traceAll; induction l generalizing s with
  | nil => rfl
  | cons a t ih => rw [List.foldl_cons, ih]; simp
@[simp] theorem securityRecord_parts (s : State) (code part session data : Nat) :
    (securityRecord s code part session data).parts = s.parts := by simp [securityRecord]
@[simp] theorem giveEvent_parts (s : State) (f : Nat) (e : Event) : (giveEvent s f e).parts = s.parts := by
  unfold giveEvent; simp only []; split
  · rfl
  · split
    · rfl
    · split <;> rfl
@[simp] theorem raiseN_parts (s : State) (code sev : Nat) (part : Option Nat) (kind unit detail flags count : Nat) :
    (raiseN s code sev part kind unit detail flags count).parts = s.parts := by
  unfold raiseN; cases part <;> simp
@[simp] theorem logRecord_evqs (s : State) (src sev code part session data : Nat) :
    (logRecord s src sev code part session data).evqs = s.evqs := by
  unfold logRecord; split <;> rfl
@[simp] theorem trace_evqs (s : State) (src n : Nat) : (trace s src n).evqs = s.evqs := by
  unfold trace; split <;> simp
@[simp] theorem traceAll_evqs (s : State) (l : List (Nat × Nat)) : (traceAll s l).evqs = s.evqs := by
  unfold traceAll; induction l generalizing s with
  | nil => rfl
  | cons a t ih => rw [List.foldl_cons, ih]; simp
@[simp] theorem securityRecord_evqs (s : State) (code part session data : Nat) :
    (securityRecord s code part session data).evqs = s.evqs := by simp [securityRecord]
@[simp] theorem giveEvent_log (s : State) (f : Nat) (e : Event) : (giveEvent s f e).log = s.log := by
  unfold giveEvent; simp only []; split
  · rfl
  · split
    · rfl
    · split <;> rfl
@[simp] theorem logRecord_wct (s : State) (src sev code part session data : Nat) :
    (logRecord s src sev code part session data).wct = s.wct := by
  unfold logRecord; split <;> rfl
@[simp] theorem trace_wct (s : State) (src n : Nat) : (trace s src n).wct = s.wct := by
  unfold trace; split <;> simp
@[simp] theorem traceAll_wct (s : State) (l : List (Nat × Nat)) : (traceAll s l).wct = s.wct := by
  unfold traceAll; induction l generalizing s with
  | nil => rfl
  | cons a t ih => rw [List.foldl_cons, ih]; simp
@[simp] theorem securityRecord_wct (s : State) (code part session data : Nat) :
    (securityRecord s code part session data).wct = s.wct := by simp [securityRecord]
@[simp] theorem giveEvent_wct (s : State) (f : Nat) (e : Event) : (giveEvent s f e).wct = s.wct := by
  unfold giveEvent; simp only []; split
  · rfl
  · split
    · rfl
    · split <;> rfl
@[simp] theorem raiseN_wct (s : State) (code sev : Nat) (part : Option Nat) (kind unit detail flags count : Nat) :
    (raiseN s code sev part kind unit detail flags count).wct = s.wct := by
  unfold raiseN; cases part <;> simp
@[simp] theorem logRecord_hbm (s : State) (src sev code part session data : Nat) :
    (logRecord s src sev code part session data).hbm = s.hbm := by
  unfold logRecord; split <;> rfl
@[simp] theorem trace_hbm (s : State) (src n : Nat) : (trace s src n).hbm = s.hbm := by
  unfold trace; split <;> simp
@[simp] theorem traceAll_hbm (s : State) (l : List (Nat × Nat)) : (traceAll s l).hbm = s.hbm := by
  unfold traceAll; induction l generalizing s with
  | nil => rfl
  | cons a t ih => rw [List.foldl_cons, ih]; simp
@[simp] theorem securityRecord_hbm (s : State) (code part session data : Nat) :
    (securityRecord s code part session data).hbm = s.hbm := by simp [securityRecord]
@[simp] theorem giveEvent_hbm (s : State) (f : Nat) (e : Event) : (giveEvent s f e).hbm = s.hbm := by
  unfold giveEvent; simp only []; split
  · rfl
  · split
    · rfl
    · split <;> rfl
@[simp] theorem raiseN_hbm (s : State) (code sev : Nat) (part : Option Nat) (kind unit detail flags count : Nat) :
    (raiseN s code sev part kind unit detail flags count).hbm = s.hbm := by
  unfold raiseN; cases part <;> simp
@[simp] theorem logRecord_host (s : State) (src sev code part session data : Nat) :
    (logRecord s src sev code part session data).host = s.host := by
  unfold logRecord; split <;> rfl
@[simp] theorem trace_host (s : State) (src n : Nat) : (trace s src n).host = s.host := by
  unfold trace; split <;> simp
@[simp] theorem traceAll_host (s : State) (l : List (Nat × Nat)) : (traceAll s l).host = s.host := by
  unfold traceAll; induction l generalizing s with
  | nil => rfl
  | cons a t ih => rw [List.foldl_cons, ih]; simp
@[simp] theorem securityRecord_host (s : State) (code part session data : Nat) :
    (securityRecord s code part session data).host = s.host := by simp [securityRecord]
@[simp] theorem giveEvent_host (s : State) (f : Nat) (e : Event) : (giveEvent s f e).host = s.host := by
  unfold giveEvent; simp only []; split
  · rfl
  · split
    · rfl
    · split <;> rfl
@[simp] theorem raiseN_host (s : State) (code sev : Nat) (part : Option Nat) (kind unit detail flags count : Nat) :
    (raiseN s code sev part kind unit detail flags count).host = s.host := by
  unfold raiseN; cases part <;> simp
@[simp] theorem logRecord_arb (s : State) (src sev code part session data : Nat) :
    (logRecord s src sev code part session data).arb = s.arb := by
  unfold logRecord; split <;> rfl
@[simp] theorem trace_arb (s : State) (src n : Nat) : (trace s src n).arb = s.arb := by
  unfold trace; split <;> simp
@[simp] theorem traceAll_arb (s : State) (l : List (Nat × Nat)) : (traceAll s l).arb = s.arb := by
  unfold traceAll; induction l generalizing s with
  | nil => rfl
  | cons a t ih => rw [List.foldl_cons, ih]; simp
@[simp] theorem securityRecord_arb (s : State) (code part session data : Nat) :
    (securityRecord s code part session data).arb = s.arb := by simp [securityRecord]
@[simp] theorem giveEvent_arb (s : State) (f : Nat) (e : Event) : (giveEvent s f e).arb = s.arb := by
  unfold giveEvent; simp only []; split
  · rfl
  · split
    · rfl
    · split <;> rfl
@[simp] theorem raiseN_arb (s : State) (code sev : Nat) (part : Option Nat) (kind unit detail flags count : Nat) :
    (raiseN s code sev part kind unit detail flags count).arb = s.arb := by
  unfold raiseN; cases part <;> simp
@[simp] theorem logRecord_fab (s : State) (src sev code part session data : Nat) :
    (logRecord s src sev code part session data).fab = s.fab := by
  unfold logRecord; split <;> rfl
@[simp] theorem trace_fab (s : State) (src n : Nat) : (trace s src n).fab = s.fab := by
  unfold trace; split <;> simp
@[simp] theorem traceAll_fab (s : State) (l : List (Nat × Nat)) : (traceAll s l).fab = s.fab := by
  unfold traceAll; induction l generalizing s with
  | nil => rfl
  | cons a t ih => rw [List.foldl_cons, ih]; simp
@[simp] theorem securityRecord_fab (s : State) (code part session data : Nat) :
    (securityRecord s code part session data).fab = s.fab := by simp [securityRecord]
@[simp] theorem giveEvent_fab (s : State) (f : Nat) (e : Event) : (giveEvent s f e).fab = s.fab := by
  unfold giveEvent; simp only []; split
  · rfl
  · split
    · rfl
    · split <;> rfl
@[simp] theorem raiseN_fab (s : State) (code sev : Nat) (part : Option Nat) (kind unit detail flags count : Nat) :
    (raiseN s code sev part kind unit detail flags count).fab = s.fab := by
  unfold raiseN; cases part <;> simp
@[simp] theorem logRecord_hif (s : State) (src sev code part session data : Nat) :
    (logRecord s src sev code part session data).hif = s.hif := by
  unfold logRecord; split <;> rfl
@[simp] theorem trace_hif (s : State) (src n : Nat) : (trace s src n).hif = s.hif := by
  unfold trace; split <;> simp
@[simp] theorem traceAll_hif (s : State) (l : List (Nat × Nat)) : (traceAll s l).hif = s.hif := by
  unfold traceAll; induction l generalizing s with
  | nil => rfl
  | cons a t ih => rw [List.foldl_cons, ih]; simp
@[simp] theorem securityRecord_hif (s : State) (code part session data : Nat) :
    (securityRecord s code part session data).hif = s.hif := by simp [securityRecord]
@[simp] theorem giveEvent_hif (s : State) (f : Nat) (e : Event) : (giveEvent s f e).hif = s.hif := by
  unfold giveEvent; simp only []; split
  · rfl
  · split
    · rfl
    · split <;> rfl
@[simp] theorem raiseN_hif (s : State) (code sev : Nat) (part : Option Nat) (kind unit detail flags count : Nat) :
    (raiseN s code sev part kind unit detail flags count).hif = s.hif := by
  unfold raiseN; cases part <;> simp
@[simp] theorem logRecord_fwc (s : State) (src sev code part session data : Nat) :
    (logRecord s src sev code part session data).fwc = s.fwc := by
  unfold logRecord; split <;> rfl
@[simp] theorem trace_fwc (s : State) (src n : Nat) : (trace s src n).fwc = s.fwc := by
  unfold trace; split <;> simp
@[simp] theorem traceAll_fwc (s : State) (l : List (Nat × Nat)) : (traceAll s l).fwc = s.fwc := by
  unfold traceAll; induction l generalizing s with
  | nil => rfl
  | cons a t ih => rw [List.foldl_cons, ih]; simp
@[simp] theorem securityRecord_fwc (s : State) (code part session data : Nat) :
    (securityRecord s code part session data).fwc = s.fwc := by simp [securityRecord]
@[simp] theorem giveEvent_fwc (s : State) (f : Nat) (e : Event) : (giveEvent s f e).fwc = s.fwc := by
  unfold giveEvent; simp only []; split
  · rfl
  · split
    · rfl
    · split <;> rfl
@[simp] theorem raiseN_fwc (s : State) (code sev : Nat) (part : Option Nat) (kind unit detail flags count : Nat) :
    (raiseN s code sev part kind unit detail flags count).fwc = s.fwc := by
  unfold raiseN; cases part <;> simp
@[simp] theorem logRecord_sec (s : State) (src sev code part session data : Nat) :
    (logRecord s src sev code part session data).sec = s.sec := by
  unfold logRecord; split <;> rfl
@[simp] theorem trace_sec (s : State) (src n : Nat) : (trace s src n).sec = s.sec := by
  unfold trace; split <;> simp
@[simp] theorem traceAll_sec (s : State) (l : List (Nat × Nat)) : (traceAll s l).sec = s.sec := by
  unfold traceAll; induction l generalizing s with
  | nil => rfl
  | cons a t ih => rw [List.foldl_cons, ih]; simp
@[simp] theorem securityRecord_sec (s : State) (code part session data : Nat) :
    (securityRecord s code part session data).sec = s.sec := by simp [securityRecord]
@[simp] theorem giveEvent_sec (s : State) (f : Nat) (e : Event) : (giveEvent s f e).sec = s.sec := by
  unfold giveEvent; simp only []; split
  · rfl
  · split
    · rfl
    · split <;> rfl
@[simp] theorem raiseN_sec (s : State) (code sev : Nat) (part : Option Nat) (kind unit detail flags count : Nat) :
    (raiseN s code sev part kind unit detail flags count).sec = s.sec := by
  unfold raiseN; cases part <;> simp
@[simp] theorem logRecord_pwr (s : State) (src sev code part session data : Nat) :
    (logRecord s src sev code part session data).pwr = s.pwr := by
  unfold logRecord; split <;> rfl
@[simp] theorem trace_pwr (s : State) (src n : Nat) : (trace s src n).pwr = s.pwr := by
  unfold trace; split <;> simp
@[simp] theorem traceAll_pwr (s : State) (l : List (Nat × Nat)) : (traceAll s l).pwr = s.pwr := by
  unfold traceAll; induction l generalizing s with
  | nil => rfl
  | cons a t ih => rw [List.foldl_cons, ih]; simp
@[simp] theorem securityRecord_pwr (s : State) (code part session data : Nat) :
    (securityRecord s code part session data).pwr = s.pwr := by simp [securityRecord]
@[simp] theorem giveEvent_pwr (s : State) (f : Nat) (e : Event) : (giveEvent s f e).pwr = s.pwr := by
  unfold giveEvent; simp only []; split
  · rfl
  · split
    · rfl
    · split <;> rfl
@[simp] theorem raiseN_pwr (s : State) (code sev : Nat) (part : Option Nat) (kind unit detail flags count : Nat) :
    (raiseN s code sev part kind unit detail flags count).pwr = s.pwr := by
  unfold raiseN; cases part <;> simp
@[simp] theorem logRecord_pins (s : State) (src sev code part session data : Nat) :
    (logRecord s src sev code part session data).pins = s.pins := by
  unfold logRecord; split <;> rfl
@[simp] theorem trace_pins (s : State) (src n : Nat) : (trace s src n).pins = s.pins := by
  unfold trace; split <;> simp
@[simp] theorem traceAll_pins (s : State) (l : List (Nat × Nat)) : (traceAll s l).pins = s.pins := by
  unfold traceAll; induction l generalizing s with
  | nil => rfl
  | cons a t ih => rw [List.foldl_cons, ih]; simp
@[simp] theorem securityRecord_pins (s : State) (code part session data : Nat) :
    (securityRecord s code part session data).pins = s.pins := by simp [securityRecord]
@[simp] theorem giveEvent_pins (s : State) (f : Nat) (e : Event) : (giveEvent s f e).pins = s.pins := by
  unfold giveEvent; simp only []; split
  · rfl
  · split
    · rfl
    · split <;> rfl
@[simp] theorem raiseN_pins (s : State) (code sev : Nat) (part : Option Nat) (kind unit detail flags count : Nat) :
    (raiseN s code sev part kind unit detail flags count).pins = s.pins := by
  unfold raiseN; cases part <;> simp

end Sys2Proof.Machine
end

