-- ==== Sys2Proof/Laws/Keying.lean ====
section
/-! SUPPORT. Laws/Keying.lean: numbers in bytes, and that the keying channel gives a message back as it was sent. -/

namespace Sys2Proof.Machine

open Sys2Proof

@[simp] theorem length_leBytes (n w : Nat) : (leBytes n w).length = n := by
  induction n generalizing w with
  | zero => rfl
  | succ n ih => simp [leBytes, ih]

/-- A number written in `n` bytes is read back modulo their range. -/
@[simp] theorem leNum_leBytes (n w : Nat) : leNum (leBytes n w) = w % 256 ^ n := by
  induction n generalizing w with
  | zero => simp [leBytes, leNum, Nat.mod_one]
  | succ n ih =>
    have h : (BitVec.ofNat 8 w).toNat = w % 256 := BitVec.toNat_ofNat _ _
    rw [leBytes, leNum, ih, h, Nat.pow_succ', Nat.mod_mul]

theorem crc32c_lt (b : List Byte) : crc32c b < 2 ^ 32 := BitVec.isLt _

/-- The message in front of the keying bytes is the one sent (R574). -/
theorem frontMsg_keyMsgBytes (k : Nat) (body rest : List Byte) (hk : k < 256) (hb : body.length < 65536) :
    frontMsg (keyMsgBytes k body ++ rest) = some ({ kind := k, body := body, crcOk := true }, rest) := by
  have hc := crc32c_lt (leBytes 2 body.length ++ leBytes 1 k ++ [0] ++ body)
  have h0 : fieldAt (keyMsgBytes k body ++ rest) 0 2 = body.length := by
    simp [keyMsgBytes, fieldAt, List.drop_append]; omega
  have h2 : fieldAt (keyMsgBytes k body ++ rest) 2 1 = k := by
    simp [keyMsgBytes, fieldAt]; omega
  have ht : (keyMsgBytes k body ++ rest).take (body.length + 4) = leBytes 2 body.length ++ leBytes 1 k ++ [0] ++ body := by
    simp only [keyMsgBytes, List.append_assoc]
    rw [← List.append_assoc, ← List.append_assoc, ← List.append_assoc]
    apply List.take_left'
    simp; omega
  have hd : (keyMsgBytes k body ++ rest).drop (body.length + 4) = leBytes 4 (crc32c (leBytes 2 body.length ++ leBytes 1 k ++ [0] ++ body)) ++ rest := by
    simp only [keyMsgBytes, List.append_assoc]
    rw [← List.append_assoc, ← List.append_assoc, ← List.append_assoc]
    apply List.drop_left'
    simp; omega
  have h4 : fieldAt (keyMsgBytes k body ++ rest) (body.length + 4) 4 = crc32c (leBytes 2 body.length ++ leBytes 1 k ++ [0] ++ body) := by
    unfold fieldAt; rw [hd, List.take_left' (length_leBytes 4 _), leNum_leBytes]; exact Nat.mod_eq_of_lt (by omega)
  have hl : (keyMsgBytes k body ++ rest).length = body.length + 8 + rest.length := by simp [keyMsgBytes]; omega
  have hbody : ((keyMsgBytes k body ++ rest).drop 4).take body.length = body := by
    simp [keyMsgBytes, leBytes]
  have hrest : (keyMsgBytes k body ++ rest).drop (body.length + 8) = rest := by
    rw [show body.length + 8 = body.length + 4 + 4 from rfl, ← List.drop_drop, hd]
    exact List.drop_left' (length_leBytes 4 _)
  simp only [frontMsg, h0, h2, ht, h4, hl, hbody, hrest]
  simp

end Sys2Proof.Machine
end

