-- ==== Sys2Proof/Tests/Slice0.lean ====
section
/-! SUPPORT. Tests/Slice0.lean: an ill-formed command for each check of WellFormed, and for each statement states and operands that meet the
hypotheses of its clauses, with what the command leaves in them. -/

namespace Sys2Proof.Tests

set_option Elab.async false

open Sys2Proof Sys2Proof.Machine

/-- The command answers a next state, of which `p` holds. -/
def after (c : Instr) (s : State) (p : State → Bool) : Bool := match exec c s with | .next t => p t | _ => false

/-- The command is refused for a unit that the module does not have. -/
def noUnit (c : Instr) : Bool := !c.wf && match exec c {} with | .refused .noSuchUnit => true | _ => false

/-! ### Ill-formed commands: one for each check -/

theorem test_wf_core : noUnit (.ecall 256) ∧ noUnit (.narrowAccess 256 none) ∧ noUnit (.creditRequest 256 0) := by decide +kernel
theorem test_wf_context : noUnit (.ctxStart 256 0) ∧ noUnit (.ctxStart 0 8) ∧ noUnit (.matmul 0 8 [] []) := by decide +kernel
theorem test_wf_bank : noUnit (.abufAddRetire 0 16 none none) := by decide +kernel
theorem test_wf_target : noUnit (.slotFill 0 32 1 []) ∧ noUnit (.ringReleaseApply 0 17) ∧ noUnit (.ringCloseComplete 0 16) := by decide +kernel
theorem test_wf_fold : noUnit (.foldArm 0 16 0) ∧ noUnit (.foldTimeout 256 0) := by decide +kernel
theorem test_wf_set : noUnit (.quotaWindow 5 0 0) ∧ noUnit (.quotaWindow 4 100000 0) ∧ noUnit (.arbiterDecision 4 100000 0 []) ∧ noUnit (.arbCommit 0 5) ∧ noUnit (.arbCommit 17 0) := by decide +kernel
theorem test_wf_queue : noUnit (.queueReset 272 0 0) ∧ noUnit (.queueReset 65536 0 0) ∧ noUnit (.pacerToken 259) := by decide +kernel
theorem test_wf_hbm : (Instr.hbmAccess 0xBFFFFFFFFF none 2 []).wf = false ∧
    (match exec (.hbmAccess 0xBFFFFFFFFF none 2 []) {} with | .fault (.noSuchAddress a) => a == 0xBFFFFFFFFF | _ => false) = true := by decide +kernel
theorem test_wf_channel : noUnit (.hbmRefresh 8 0 0 0) ∧ noUnit (.hbmRetrain 0 32) := by decide +kernel
theorem test_wf_region : noUnit (.scrubStart 768) ∧ noUnit (.bandmapWrite 96 true) := by decide +kernel
theorem test_wf_port : noUnit (.portTrained 16) ∧ noUnit (.frameSend 0 4) ∧ noUnit (.laneFailing 0 8 0 false) := by decide +kernel
theorem test_wf_tree : noUnit (.detachWaitExpiry 64) ∧ noUnit (.epochEnd 16) := by decide +kernel
theorem test_wf_switch : noUnit (.stayOpen true 2) ∧ noUnit (.holdInAssert 2) := by decide +kernel
theorem test_wf_function : noUnit (.keySetGo 17) ∧ noUnit (.roleCommit 17 0) ∧ noUnit (.flrVf 0) ∧ noUnit (.flrVf 17) := by decide +kernel
theorem test_wf_ring : noUnit (.doorbellPoll 0 4 0 true) ∧ noUnit (.ringDisable 1 64) ∧ noUnit (.moderationTimeout 0 4) := by decide +kernel
theorem test_wf_job : noUnit (.jobEnd 16 0) := by decide +kernel
theorem test_wf_target_of_session : noUnit (.lockoutExpiry 17) := by decide +kernel
theorem test_wf_firmware : noUnit (.fwWatchdog 0) ∧ noUnit (.fwWatchdog 0x20) := by decide +kernel
theorem test_wf_die : noUnit (.sparLost 2 1) ∧ noUnit (.coreRecommission 0 0 17 true) ∧ noUnit (.controlCoreRecommission 16) := by decide +kernel
theorem test_wf_stack : noUnit (.stackRecommission 8 true [] []) ∧ noUnit (.stackRecommission 0 true [32] []) ∧ noUnit (.stackRecommission 0 true [] [32]) ∧ noUnit (.bootStage2 .passes [256] []) ∧ noUnit (.bootStage2 .passes [] [256]) := by decide +kernel
theorem test_wf_sensors : noUnit (.thermalSample [] [] [] [] []) := by decide +kernel
theorem test_wf_access : noUnit (.readClear { fn := 17, off := 0, size := 4 }) := by decide +kernel
/-- A frame on a port that the module does not have, whatever it carries. -/
def noPort : Rx :=
  { port := 17, crcOk := true, tagOk := true, stomp := false
    frame := { type := 0, flags := { td := false, last := false, mcast := false, resent := false }, cls := 0, hops := 0, srcPart := 0, dstPart := 0
               srcModule := 0, dstModule := 0, addr := 0, readLen := 0, lseq := 0, epoch := 0, xtag := 0, td := [], payload := [] } }
theorem test_wf_frame : noUnit (.write noPort) ∧ noUnit (.frameForward noPort) ∧ noUnit (.join noPort) ∧ noUnit (.treeData noPort) ∧
    noUnit (.epochBegin noPort) ∧ noUnit (.detach noPort) := by decide +kernel
/-- A frame with a field out of its place. -/
theorem test_wf_fields : noUnit (.write { noPort with port := 0, frame := { noPort.frame with hops := 64 } }) ∧
    noUnit (.wack { noPort with port := 0, frame := { noPort.frame with payload := List.replicate 513 0 } }) ∧
    noUnit (.join { noPort with port := 0, frame := { noPort.frame with td := [0] } }) := by decide +kernel

/-! ### Contexts and scalar instructions (04) -/

/-- A state of core 0 alone. -/
def on (k : Core) : State := { cores := [(0, k)] }
/-- Core 0 with context 0 as `x`. -/
def ctx (x : Ctx) : State := on { ctxs := [(0, x)] }
/-- A core whose context 0 runs the instruction words `ws` from byte 0, with a window of the whole scratchpad, over the registers `x`. -/
def running (ws : List Nat) (x : Tab W64 := []) : Core :=
  { imem := memWriteN 0 [] 0 (ws.flatMap (leBytes 4)), ctxs := [(0, { st := .running, x := x, bound := 0x8000 })] }

/-- The state with every HBM stack trained. -/
def trained (s : State) : State := { s with hbm := { s.hbm with stk := (List.range 8).map fun k => (k, { trained := true }) } }
/-- The state once start-up is over. -/
def booted (s : State) : State := { s with fwc := { s.fwc with st := 3, stage := 5 } }

theorem test_ctx_start : coreReady (booted (ctx {})) 0 ∧
    after (.ctxStart 0 0) (booted (ctx { entry := 3, bound := 0x8000, x := [(1, 7)] }))
      (fun t => (ctxAt t 0 0).st == .running && (ctxAt t 0 0).pc == 6 && readX (ctxAt t 0 0) 1 == 0) = true := by decide +kernel
theorem test_ctx_start_bound :
    0x200000 < (ctxAt (ctx { base := 1, bound := 0x8000 }) 0 0).base.toNat * 64 + (ctxAt (ctx { base := 1, bound := 0x8000 }) 0 0).bound.toNat * 64 ∧
    after (.ctxStart 0 0) (booted (ctx { base := 1, bound := 0x8000 })) (fun t => (ctxAt t 0 0).st == .idle && (ctxAt t 0 0).cause == 10) = true := by
  decide +kernel
theorem test_ctx_start_early : coreReady (ctx {}) 0 = false ∧
    after (.ctxStart 0 0) (ctx { bound := 0x8000 }) (fun t => (ctxAt t 0 0).st == .idle) = true := by decide +kernel
theorem test_ctx_halt : after (.ctxHalt 0 0) (ctx { st := .running, pc := 8 })
      (fun t => (ctxAt t 0 0).st == .halted && (ctxAt t 0 0).faultPc == 8) = true ∧
    after (.ctxHalt 0 0) (ctx { st := .waiting, wait := some (.narrow 4) }) (fun t => (ctxAt t 0 0).haltPending) = true := by decide +kernel
theorem test_ctx_resume : after (.ctxResume 0 0) (ctx { st := .halted, pc := 8 })
    (fun t => (ctxAt t 0 0).st == .running && (ctxAt t 0 0).pc == 8) = true := by decide +kernel
theorem test_ctx_kill : after (.ctxKill 0 0) (ctx { st := .running, queue := [{ seq := 1, push := 0, desc := 0 }] })
    (fun t => (ctxAt t 0 0).killPending && (ctxAt t 0 0).queue == [] && (ctxAt t 0 0).st == .halted) = true := by decide +kernel
theorem test_context_idle : outstanding (getCore (ctx { st := .halted, killPending := true, x := [(1, 7)] }) 0) 0 = 0 ∧
    after (.contextIdle 0 0 []) (ctx { st := .halted, killPending := true, x := [(1, 7)] })
      (fun t => (ctxAt t 0 0).st == .idle && !(ctxAt t 0 0).killPending) = true := by decide +kernel

theorem test_addi_beyond : Takes (on (running [0x00500093])) 0 0 0x00500093 4 ∧ kindOf 0x00500093 = .pure ∧
    after (.scalarInstruction 0) (on (running [0x00500093]))
      (fun t => readX (ctxAt t 0 0) 1 == 5 && (ctxAt t 0 0).pc == 4 && (ctxAt t 0 0).instret == 1) = true := by decide +kernel
theorem test_add_wraps : Takes (on (running [0x002081B3] [(1, 0xFFFFFFFFFFFFFFFF), (2, 3)])) 0 0 0x002081B3 4 ∧
    after (.scalarInstruction 0) (on (running [0x002081B3] [(1, 0xFFFFFFFFFFFFFFFF), (2, 3)]))
      (fun t => readX (ctxAt t 0 0) 3 == 2) = true := by decide +kernel
theorem test_lui_signed : Takes (on (running [0x923450B7])) 0 0 0x923450B7 4 ∧
    after (.scalarInstruction 0) (on (running [0x923450B7])) (fun t => readX (ctxAt t 0 0) 1 == 0xFFFFFFFF92345000) = true := by decide +kernel
theorem test_jal_links : Takes (on (running [0x008000EF])) 0 0 0x008000EF 4 ∧
    after (.scalarInstruction 0) (on (running [0x008000EF])) (fun t => readX (ctxAt t 0 0) 1 == 4 && (ctxAt t 0 0).pc == 8) = true := by
  decide +kernel
theorem test_ecall : Takes (on (running [0x73])) 0 0 0x73 4 ∧ kindOf 0x73 = .ecall ∧
    after (.ecall 0) (on (running [0x73])) (fun t => (ctxAt t 0 0).st == .halted && (ctxAt t 0 0).cause == 8 && (ctxAt t 0 0).pc == 4) = true := by
  decide +kernel
theorem test_ebreak : Takes (on (running [0x00100073])) 0 0 0x00100073 4 ∧ kindOf 0x00100073 = .ebreak ∧
    after (.ebreak 0) (on (running [0x00100073])) (fun t => (ctxAt t 0 0).cause == 9 && (ctxAt t 0 0).faultPc == 0) = true := by decide +kernel
theorem test_illegal : Takes (on (running [0xFFFFFFFF])) 0 0 0xFFFFFFFF 4 ∧ kindOf 0xFFFFFFFF = .illegal ∧
    after (.scalarInstruction 0) (on (running [0xFFFFFFFF])) (fun t => (ctxAt t 0 0).st == .faulted && (ctxAt t 0 0).cause == 1) = true := by
  decide +kernel
theorem test_fetch_fault : nextCtx (getCore (ctx { st := .running, pc := 0xFFFFE }) 0) = some 0 ∧
    fetchAt (getCore (ctx { st := .running, pc := 0xFFFFE }) 0) 0xFFFFE = .outside ∧
    after (.scalarInstruction 0) (ctx { st := .running, pc := 0xFFFFE })
      (fun t => (ctxAt t 0 0).st == .faulted && (ctxAt t 0 0).cause == 4) = true := by decide +kernel

theorem test_store_enters : Takes (on (running [0x0020A023] [(1, 0x1FFFFC)])) 0 0 0x0020A023 4 ∧
    memFault (ctxAt (on (running [0x0020A023] [(1, 0x1FFFFC)])) 0 0) 0x1FFFFC 4 = none ∧
    after (.scalarStore 0) (on (running [0x0020A023] [(1, 0x1FFFFC), (2, 7)]))
      (fun t => (getCore t 0).spad.queue.map (fun e => (e.addr, e.size, e.data)) == [(0x1FFFFC, 4, 7)] && (ctxAt t 0 0).pc == 4) = true := by
  decide +kernel
theorem test_load_waits : Takes (on (running [0x0000A183])) 0 0 0x0000A183 4 ∧
    after (.scalarLoad 0) (on (running [0x0000A183])) (fun t => (ctxAt t 0 0).st == .waiting && (ctxAt t 0 0).wait == some (.narrow 4)) = true := by
  decide +kernel
theorem test_atomic_waits : Takes (on (running [0x0020A1AF])) 0 0 0x0020A1AF 4 ∧ kindOf 0x0020A1AF = .atomic ∧
    after (.scalarAtomic 0) (on (running [0x0020A1AF]))
      (fun t => (getCore t 0).spad.queue.map (·.kind) == [.amo 3 0] && (ctxAt t 0 0).st == .waiting) = true := by decide +kernel
theorem test_store_misaligned : Takes (on (running [0x0020A023] [(1, 2)])) 0 0 0x0020A023 4 ∧
    (memEa (ctxAt (on (running [0x0020A023] [(1, 2)])) 0 0) 0x0020A023 .store).toNat % memSize 0x0020A023 ≠ 0 ∧
    after (.scalarStore 0) (on (running [0x0020A023] [(1, 2)]))
      (fun t => (ctxAt t 0 0).st == .faulted && (ctxAt t 0 0).cause == 2 && (getCore t 0).spad.queue == []) = true := by decide +kernel
theorem test_load_beyond_window : Takes (on (running [0x0000A183] [(1, 0x200000)])) 0 0 0x0000A183 4 ∧
    winBound (ctxAt (on (running [0x0000A183] [(1, 0x200000)])) 0 0) < 0x200000 + memSize 0x0000A183 ∧
    after (.scalarLoad 0) (on (running [0x0000A183] [(1, 0x200000)]))
      (fun t => (ctxAt t 0 0).st == .faulted && (ctxAt t 0 0).cause == 3) = true := by decide +kernel
theorem test_fence : Takes (on (running [0x0000000F])) 0 0 0x0000000F 4 ∧
    after (.fence 0) (on (running [0x0000000F])) (fun t => (ctxAt t 0 0).pc == 4) = true ∧
    after (.fence 0) (on { running [0x0000000F] with spad := { queue := [{ ctx := 0, kind := .store, addr := 0, size := 4 }] } })
      (fun t => (ctxAt t 0 0).pc == 0 && (ctxAt t 0 0).wait == some .fence) = true := by decide +kernel

/-! ### The narrow queue, KPUSH and the tokens -/

/-- Core 0 with `e` in front of its narrow queue, over the bytes 1, 2, 3, … of line 0, context 0 as `x`. -/
def narrow (e : Narrow) (x : Ctx) : State :=
  on { ctxs := [(0, x)], spad := { spadWrite {} 0 [1, 2, 3, 4, 5, 6, 7, 0x88] with queue := [e] } }
/-- A context that waits for its narrow access. -/
def waitsNarrow : Ctx := { st := .waiting, wait := some (.narrow 4) }

theorem test_narrow_store : after (.narrowAccess 0 none) (narrow { ctx := 0, kind := .store, addr := 2, size := 2, data := 0xBBAA } { st := .running })
    (fun t => spadBytes (getCore t 0).spad 0 5 == [1, 2, 0xAA, 0xBB, 5] && (getCore t 0).spad.queue == []) = true := by decide +kernel
theorem test_narrow_load : after (.narrowAccess 0 none) (narrow { ctx := 0, kind := .load 3 false true, addr := 7, size := 1 } waitsNarrow)
    (fun t => readX (ctxAt t 0 0) 3 == 0xFFFFFFFFFFFFFF88 && (ctxAt t 0 0).st == .running && (ctxAt t 0 0).instret == 1) = true := by decide +kernel
theorem test_narrow_sc : after (.narrowAccess 0 none)
      (narrow { ctx := 0, kind := .sc 3, addr := 4, size := 4, data := 9 } { waitsNarrow with resv := some (4, 4) })
      (fun t => readX (ctxAt t 0 0) 3 == 0 && spadBytes (getCore t 0).spad 4 4 == [9, 0, 0, 0]) = true ∧
    after (.narrowAccess 0 none) (narrow { ctx := 0, kind := .sc 3, addr := 4, size := 4, data := 9 } waitsNarrow)
      (fun t => readX (ctxAt t 0 0) 3 == 1 && spadBytes (getCore t 0).spad 4 4 == [5, 6, 7, 0x88]) = true := by decide +kernel
theorem test_narrow_amo : after (.narrowAccess 0 none) (narrow { ctx := 0, kind := .amo 3 0, addr := 4, size := 4, data := 1 } waitsNarrow)
    (fun t => readX (ctxAt t 0 0) 3 == 0xFFFFFFFF88070605 && spadBytes (getCore t 0).spad 4 4 == [6, 6, 7, 0x88]) = true := by decide +kernel
theorem test_gather : after (.gather 0 []) { narrow { ctx := 0, kind := .store, addr := 2, size := 2, data := 0xBBAA } { st := .running } with aclks := [(0, 32)] }
    (fun t => (getCore t 0).spad.queue == [] && (getCore t 0).spad.gathers == 1) = true := by decide +kernel
theorem test_spad_writeback : after (.spadEccWriteback 0) (on { spad := { toWriteBack := [8, 16] } })
    (fun t => (getCore t 0).spad.toWriteBack == [16]) = true := by decide +kernel

/-- KPUSH x5, x1 with the descriptor's address in x1. -/
def kpushAt (a : W64) : Core := running [0x0000828B] [(1, a)]
theorem test_kpush : Takes (on (kpushAt 0x80)) 0 0 0x0000828B 4 ∧ kindOf 0x0000828B = .kpush ∧
    kpushFault (kpushAt 0x80) (ctxAt (on (kpushAt 0x80)) 0 0) 0x80 = none ∧
    after (.kpush 0 []) (on (kpushAt 0x80))
      (fun t => (ctxAt t 0 0).queue.map (·.seq) == [1] && readX (ctxAt t 0 0) 5 == 1 && (ctxAt t 0 0).nextSeq == 2) = true := by decide +kernel
theorem test_kpush_seq_skips_zero :
    after (.kpush 0 []) (on { kpushAt 0x80 with ctxs := [(0, { st := .running, x := [(1, 0x80)], bound := 0x8000, nextSeq := 0xFFFFFFFF })] })
      (fun t => readX (ctxAt t 0 0) 5 == 0xFFFFFFFF && (ctxAt t 0 0).nextSeq == 1) = true := by decide +kernel
theorem test_kpush_full : after (.kpush 0 []) (on { kpushAt 0x80 with
      ctxs := [(0, { st := .running, x := [(1, 0x80)], bound := 0x8000, queue := List.replicate 8 { seq := 1, push := 0, desc := 0 } })] })
    (fun t => (ctxAt t 0 0).wait == some .kpush && (ctxAt t 0 0).pc == 0) = true := by decide +kernel
theorem test_kpush_misaligned : Takes (on (kpushAt 0x40)) 0 0 0x0000828B 4 ∧
    after (.kpush 0 []) (on (kpushAt 0x40)) (fun t => (ctxAt t 0 0).st == .faulted && (ctxAt t 0 0).cause == 2) = true := by decide +kernel

/-- Core 0 whose context 0 has the tokens `ts`, with SEQ 1 in x1, and runs `w`. -/
def tokens (w : Nat) (ts : List Token) (x1 : W64 := 1) : State :=
  on { running [w] with ctxs := [(0, { st := .running, x := [(1, x1)], bound := 0x8000, window := ts, drainSum := 3, drainBad := true })] }
theorem test_kwait : Takes (tokens 0x0000928B [{ seq := 1, done := true, status := 0x10, summary := 3 }]) 0 0 0x0000928B 4 ∧
    after (.kwait 0) (tokens 0x0000928B [{ seq := 1, done := true, status := 0x10, summary := 3 }])
      (fun t => readX (ctxAt t 0 0) 5 == 0x30010) = true ∧
    after (.kwait 0) (tokens 0x0000928B [{ seq := 1 }]) (fun t => (ctxAt t 0 0).wait == some (.kwait 5 1)) = true ∧
    after (.kwait 0) (tokens 0x0000928B [] 0) (fun t => readX (ctxAt t 0 0) 5 == 0xFFFFFFFFFFFFFFFF) = true := by decide +kernel
theorem test_ktest : Takes (tokens 0x0000A28B [{ seq := 1 }]) 0 0 0x0000A28B 4 ∧
    after (.ktest 0) (tokens 0x0000A28B [{ seq := 1, done := true, status := 0x10, summary := 3 }])
      (fun t => readX (ctxAt t 0 0) 5 == 0x30010) = true ∧
    after (.ktest 0) (tokens 0x0000A28B [{ seq := 1 }]) (fun t => readX (ctxAt t 0 0) 5 == 0xFFFFFFFFFFFFFFFE) = true ∧
    after (.ktest 0) (tokens 0x0000A28B []) (fun t => readX (ctxAt t 0 0) 5 == 0xFFFFFFFFFFFFFFFF) = true := by decide +kernel
theorem test_kdrain : Takes (tokens 0x0000328B []) 0 0 0x0000328B 4 ∧ kindOf 0x0000328B = .kdrain ∧
    after (.kdrain 0) (tokens 0x0000328B [])
      (fun t => readX (ctxAt t 0 0) 5 == 0x103 && (ctxAt t 0 0).drainSum == 0) = true ∧
    after (.kdrain 0) (on { running [0x0000328B] with ctxs := [(0, { st := .running, queue := [{ seq := 1, push := 0, desc := 0 }] })] })
      (fun t => (ctxAt t 0 0).wait == some (.kdrain 5)) = true := by decide +kernel

/-- KRECV x5, x1. -/
def krecvAt (a : W64) (mb : List Mail) : State := on { running [0x0000C28B] [(1, a)] with mesh := { mailbox := mb } }
theorem test_krecv : Takes (krecvAt 0x40 [[1, 2]]) 0 0 0x0000C28B 4 ∧ kindOf 0x0000C28B = .krecv ∧
    after (.krecv 0) (krecvAt 0x40 [[1, 2]])
      (fun t => spadBytes (getCore t 0).spad 0x40 2 == [1, 2] && (getCore t 0).mesh.mailbox == [] && readX (ctxAt t 0 0) 5 == 0) = true ∧
    after (.krecv 0) (krecvAt 0x40 []) (fun t => (getCore t 0).krecvOrder == [0] && (ctxAt t 0 0).wait == some (.krecv 5 0x40)) = true ∧
    after (.krecv 0) (krecvAt 0x20 [[1]]) (fun t => (ctxAt t 0 0).cause == 2 && (getCore t 0).mesh.mailbox == [[1]]) = true := by decide +kernel

/-! ### Descriptors -/

/-- The state that a command leaves. -/
def next (c : Instr) (s : State) : State := match exec c s with | .next t => t | _ => s
/-- A slot of an operation descriptor (R136) without a header. -/
def slot (ty loc addr len : Nat) : Nat := addr + loc * 2 ^ 62 + len * 2 ^ 64 + ty * 2 ^ 112
/-- An operation descriptor of class 3 (R134) with the token record at 0x1000. -/
def desc (op : Nat) (a b d args : Nat) (w0 : Nat := 0) : BitVec 1024 :=
  BitVec.ofNat 1024 (op + 3 * 2 ^ 8 + w0 + 0x1000 * 2 ^ 64 + a * 2 ^ 256 + b * 2 ^ 384 + d * 2 ^ 512 + args * 2 ^ 768)
/-- A loop nest without levels, and one with a REDUCE level of bound 1 (R177, R178). -/
def nest0 : BitVec 1792 := BitVec.ofNat 1792 0x100
def nestRed : BitVec 1792 := BitVec.ofNat 1792 (0x101 + (3 * 2 ^ 29 + 2 ^ 32 + 2 ^ 96) * 2 ^ 256)
/-- Core 0 with the descriptor `d` at the head of context 0, which has passed the first stages of issue or not, over bytes 3 and 4 at 0 and
64. -/
def headed (d : BitVec 1024) (passed : Bool) (nests : List (BitVec 1792)) : State :=
  on { ctxs := [(0, { st := .running, bound := 0x8000, queue := [{ seq := 1, push := 0, desc := d, nests := nests, passed := passed }]
                      window := [{ seq := 1 }] })]
       spad := spadWrite (spadWrite {} 0 [3, 0, 0, 0]) 64 [4, 0, 0, 0] }
/-- FILL of 16 bytes at 0x100 with the pattern 0x0706050403020100; MATMUL of one INT8 pair to INT32 at 0x100, opening and closing. -/
def fillDesc : BitVec 1024 := desc 5 0 0 (slot 0 1 0x100 16) 0x0706050403020100
def mulDesc : BitVec 1024 := desc 1 (slot 1 1 0 1) (slot 1 1 64 1) (slot 0xE 1 0x100 4) 0 (2 ^ 12 + 2 ^ 13 + 0xE * 2 ^ 32)

/-- The head of context 0 is free to go to its unit. -/
def mayGo (d : BitVec 1024) : Bool := (dispatchable (headed d true [nest0]) 0 0 fun _ => true).isSome
/-- The command takes it there. -/
def goes (i : Instr) (d : BitVec 1024) : Bool :=
  after i (headed d true [nest0]) fun t => (getCore t 0).runs.map (fun r => (r.seq, r.desc)) == [(1, d)] && (ctxAt t 0 0).queue == []

theorem test_issue_passes : staticStage (headed fillDesc false [nest0]) 0 0 { seq := 1, push := 0, desc := fillDesc, nests := [nest0] } = none ∧
    (stage2Blocked (headed fillDesc false [nest0]) 0 0 { seq := 1, push := 0, desc := fillDesc, nests := [nest0] } ||
      entriesBlocked (headed fillDesc false [nest0]) 0 0 { seq := 1, push := 0, desc := fillDesc, nests := [nest0] }) = false ∧
    contentStage (getCore (headed fillDesc false [nest0]) 0) 0 { seq := 1, push := 0, desc := fillDesc, nests := [nest0] } = none ∧
    after (.descriptorIssue 0 0 []) (headed fillDesc false [nest0])
      (fun t => (ctxAt t 0 0).queue.map (·.passed) == [true] && (getCore t 0).sb == [{ lo := 0x100, hi := 0x140, readers := 0, writer := true }]) =
        true := by decide +kernel
theorem test_issue_refused : (staticStage (headed 0 false []) 0 0 { seq := 1, push := 0, desc := 0 }).map faultCause = some none ∧
    after (.descriptorIssue 0 0 []) (headed 0 false []) (fun t => (ctxAt t 0 0).queue == []) = true := by decide +kernel
theorem test_issue_waits : (stage2Blocked (on { getCore (headed fillDesc false [nest0]) 0 with
      sb := [{ lo := 0x100, hi := 0x140, readers := 1, writer := false }] }) 0 0
      { seq := 1, push := 0, desc := fillDesc, nests := [nest0] }) = true ∧
    after (.descriptorIssue 0 0 [])
      (on { getCore (headed fillDesc false [nest0]) 0 with sb := [{ lo := 0x100, hi := 0x140, readers := 1, writer := false }] })
      (fun t => (ctxAt t 0 0).queue.map (·.passed) == [false]) = true := by decide +kernel

theorem test_matmul : mayGo mulDesc ∧ goes (.matmul 0 0 [] []) mulDesc := by decide +kernel
theorem test_matvec : mayGo (desc 2 0 0 0 0) ∧ goes (.matvec 0 0 []) (desc 2 0 0 0 0) := by decide +kernel
theorem test_merge : mayGo (desc 3 0 0 0 0) ∧ goes (.merge 0 0 [] none) (desc 3 0 0 0 0) := by decide +kernel
theorem test_intersect : goes (.intersect 0 0 [] none) (desc 4 0 0 0 0) := by decide +kernel
theorem test_copy : goes (.copy 0 0 [] none) (desc 6 (slot 1 1 0 4) 0 (slot 1 1 0x100 4) 0) := by decide +kernel
theorem test_transpose_copy : goes (.transposeCopy 0 0 []) (desc 7 0 0 0 0) := by decide +kernel
theorem test_compaction_store : goes (.compactionStore 0 0 []) (desc 8 0 0 0 0) := by decide +kernel
theorem test_load : goes (.load 0 0 []) (desc 9 0 0 0 0) := by decide +kernel
theorem test_predict : goes (.predict 0 0 []) (desc 10 0 0 0 0) := by decide +kernel
theorem test_top_k_select : goes (.topKSelect 0 0 [] none) (desc 11 (slot 7 1 0 0) 0 0 0) := by decide +kernel
theorem test_send_mailbox : goes (.sendMailbox 0 0 []) (desc 12 (slot 1 1 0 4) 0 0 1) := by decide +kernel
theorem test_send_slot_ring : goes (.sendSlotRing 0 0 []) (desc 12 (slot 1 1 0 4) 0 0 0x10001) := by decide +kernel
theorem test_send_tree : goes (.sendTree 0 0 []) (desc 12 (slot 1 1 0 4) 0 0 0x20000) := by decide +kernel

theorem test_fill : execsOf (runOf (headed fillDesc true [nest0]) 0 (getCore (headed fillDesc true [nest0]) 0) 0
      { seq := 1, push := 0, desc := fillDesc, nests := [nest0], passed := true }) = [(0, [])] ∧
    after (.fill 0 0 [] none) (headed fillDesc true [nest0])
      (fun t => spadBytes (getCore t 0).spad 0xFE 19 == [0, 0, 0, 1, 2, 3, 4, 5, 6, 7, 0, 1, 2, 3, 4, 5, 6, 7, 0]) = true := by decide +kernel
theorem test_fill_cut : after (.fill 0 0 [] (some 0)) (headed fillDesc true [nest0])
      (fun t => spadByte (getCore t 0).spad 0x101 == 0 && (getCore t 0).runs.map (fun r => r.rest.isEmpty) == [false]) = true := by decide +kernel
theorem test_tile_close :
    ((findRun (getCore (next (.matmul 0 0 [] []) (headed mulDesc true [nestRed])) 0) 0 1).map fun r =>
      mayCloseTile (getCore (next (.matmul 0 0 [] []) (headed mulDesc true [nestRed])) 0) r) = some true ∧
    after (.tileClose 0 0 1 [] []) (next (.matmul 0 0 [] []) (headed mulDesc true [nestRed]))
      (fun t => spadBytes (getCore t 0).spad 0x100 4 == [12, 0, 0, 0] && (getGroup (getCore t 0) true 0).st == .free) = true := by decide +kernel
theorem test_descriptor_complete :
    after (.descriptorComplete 0 0 1 []) (next (.fill 0 0 [] none) (headed fillDesc true [nest0]))
      (fun t => (getCore t 0).runs == [] && (ctxAt t 0 0).window.map (·.done) == [true] && spadBytes (getCore t 0).spad 0x1000 3 == [0, 0, 5]) =
        true := by decide +kernel
theorem test_abuf_add : after (.abufAddRetire 0 15 none none)
    (on { acc := { groups := [(1, { st := .opened, ty := .int32, acc := [(15, 0x7FFFFFFF)] })]
                   conflict := [(15, [{ group := 1, entry := 15, value := .fin false 1 0, ty := .int32 }])] } })
    (fun t => Tab.get 0 (getGroup (getCore t 0) true 1).acc 15 == 0x7FFFFFFF && (getGroup (getCore t 0) true 1).sat &&
      conflictQ (getCore t 0) 15 == []) = true := by decide +kernel
theorem test_integer_sums : (accAdd .int32 0x7FFFFFFE (.fin false 1 0)).1 = 0x7FFFFFFF ∧ (accAdd .int32 0x7FFFFFFE (.fin false 1 0)).2.sat = false ∧
    (accAdd .int32 0x7FFFFFFF (.fin false 1 0)).2.sat = true ∧ (accAdd .int32 0x80000000 (.fin true 1 0)).1 = 0x80000000 := by decide +kernel

/-! ### Claims and rings of a core -/

/-- Context 0 of core 0 waits for the claim `rs1`, `rs2`; the core's cluster belongs to partition 2, counter 5 to partition `p`. -/
def claiming (rs1 rs2 : W64) (p : BitVec 4) (c : Ctr) : State :=
  trained { on { ctxs := [(0, { st := .waiting, wait := some (.kclaim 5) })], claims := [{ ctx := 0, rs1 := rs1, rs2 := rs2 }] } with
    parts := [(2, { st := .setUp, clusters := 1 })], wct := { ctrs := [(5, { c with assigned := true, part := p })] } }
/-- The ledger at 64 of two segments: entry 0 of generation 1, entry 1 committed in it. -/
def ledgered (s : State) : State := hbmWrite (hbmWrite s 72 [2]) 128 [0, 1, 3, 1]
theorem test_claim : partOfCore (claiming 5 4 2 { st := .running, value := 8, limit := 10, gen := 3 }) 0 = some 2 ∧
    claimMalformed { ctx := 0, rs1 := 5, rs2 := 4 } = false ∧
    after (.kclaimClaim 0 0 []) (claiming 5 4 2 { st := .running, value := 8, limit := 10, gen := 3 })
      (fun t => (getCtr t 5).value == 10 && readX (ctxAt t 0 0) 5 == 0x300000008 && (ctxAt t 0 0).st == .running) = true := by decide +kernel
theorem test_claim_foreign : partOfCore (claiming 5 4 3 { st := .running }) 0 ≠ some 3 ∧
    after (.kclaimClaim 0 0 []) (claiming 5 4 3 { st := .running })
      (fun t => (ctxAt t 0 0).st == .faulted && (ctxAt t 0 0).cause == 7) = true := by decide +kernel
theorem test_commit_foreign : after (.kclaimCommit 0 0 []) (claiming 0x10105 0 3 { st := .running })
      (fun t => (ctxAt t 0 0).st == .faulted && (ctxAt t 0 0).cause == 7) = true := by decide +kernel
theorem test_commit : ledgerSegments (ledgered (claiming 0x10105 0 2 { st := .running, ledger := 1 })) 64 = 2 ∧
    after (.kclaimCommit 0 0 []) (ledgered (claiming 0x10105 0 2 { st := .running, ledger := 1 }))
      (fun t => ledgerEntry t 64 0 == 0x103 && readX (ctxAt t 0 0) 5 == 0x100000000) = true ∧
    after (.kclaimCommit 0 0 []) (ledgered (claiming 0x20105 0 2 { st := .running, ledger := 1 }))
      (fun t => ledgerEntry t 64 0 == 0x100 && readX (ctxAt t 0 0) 5 == 0x100000001 && t.wct.dupCommit == 1) = true := by decide +kernel
theorem test_commit_again : after (.kclaimCommit 0 0 []) (ledgered (claiming 0x10105 1 2 { st := .running, ledger := 1 }))
      (fun t => readX (ctxAt t 0 0) 5 == 0x100000002) = true ∧
    after (.kclaimCommit 0 0 []) (ledgered (claiming 0x10105 2 2 { st := .running, ledger := 1 }))
      (fun t => t.fresh == 1 && (getCore t 0).claims == []) = true := by decide +kernel

/-- CSRRW x5, kring, x1 with the command in x1. -/
def kring (cmd : W64) (rings : Tab Ring := []) : State := on { running [0x800092F3] [(1, cmd)] with mesh := { rings := rings } }
theorem test_kring_status : Takes (kring 0) 0 0 0x800092F3 4 ∧ kindOf 0x800092F3 = .kring ∧ fF3 0x800092F3 = 1 ∧
    after (.kringStatus 0) (kring 0) (fun t => (ctxAt t 0 0).pc == 4 && readX (ctxAt t 0 0) 5 == BitVec.ofNat 64 (ringStatus (getCore (kring 0) 0) 0 false)) = true := by
  decide +kernel
theorem test_kring_open : (ringOpen (getCore (kring 0x0000000001000201) 0) 0 0x0000000001000201).isSome = true ∧
    after (.kringOpen 0) (kring 0x0000000001000201)
      (fun t => (getRing (getCore t 0) 0).opened && (getRing (getCore t 0) 0).base == 64 && (getRing (getCore t 0) 0).slots == 2) = true := by
  decide +kernel
theorem test_kring_close : after (.kringClose 0) (kring 0x7A [(15, { opened := true, slots := 2, size := 64 })])
    (fun t => (getRing (getCore t 0) 15).closing) = true := by decide +kernel
theorem test_kring_release : after (.kringRelease 0) (kring 0x03 [(0, { opened := true, slots := 2, size := 64, st := [(0, .filled 1)] })])
    (fun t => (getRing (getCore t 0) 0).pendingRel == [(0, 0)]) = true := by decide +kernel

/-! ### Bursts, cancels, halyards (12) -/

/-- Core 0 with a LOAD of context 0 under way that has the bursts `bs`. -/
def bursting (bs : List Burst) (more : Core → Core := id) : State :=
  on (more { runs := [{ ctx := 0, seq := 1, desc := desc 9 0 0 0 0, eng := .dma, bursts := bs }], spad := spadWrite {} 0 [1, 2, 3, 4] })
/-- A burst of 4 bytes of device memory at 0x40 to byte 2 of the scratchpad, and one that is never done. -/
def readBurst : Burst := { idx := 0, src := some (.device 0x40), dst := .spad 0 2, len := 4 }
def otherBurst : Burst := { idx := 1, src := some (.device 0x80), dst := .spad 0 64, len := 4 }
theorem test_burst_issue : mayIssue (getCore (bursting [readBurst]) 0) { ctx := 0, seq := 1, desc := desc 9 0 0 0 0, eng := .dma, bursts := [readBurst] } ∧
    after (.burstIssue 0 0 1) (bursting [readBurst])
      (fun t => (getCore t 0).runs.flatMap (fun r => r.bursts.map (·.issued)) == [true]) = true := by decide +kernel
theorem test_burst_done : after (.burstDone 0 0 1 0 []) (trained <| hbmWrite (bursting [{ readBurst with issued := true }, otherBurst]) 0x40 [9, 8, 7, 6])
    (fun t => spadBytes (getCore t 0).spad 0 7 == [1, 2, 9, 8, 7, 6, 0]) = true := by decide +kernel
theorem test_burst_done_write :
    after (.burstDone 0 0 1 0 []) (trained <| bursting [{ idx := 0, src := none, data := [5, 6], dst := .device 0x41, len := 2, issued := true }, otherBurst])
      (fun t => hbmRead t 0x40 4 == [0, 5, 6, 0]) = true := by decide +kernel
/-- A read burst of a stopped descriptor. -/
def lateOf (n : Nat) : Late := { ctx := n, seq := 1, queue := 0, small := false, cls := 3, burst := { readBurst with idx := 3, issued := true } }
theorem test_burst_paused : burstPaused (bursting [readBurst]) { readBurst with issued := true } ∧
    after (.burstDone 0 0 1 0 []) (bursting [{ readBurst with issued := true }, otherBurst]) (fun t => t == bursting [{ readBurst with issued := true }, otherBurst]) =
      true := by decide +kernel
theorem test_burst_discard : burstPaused (trained {}) (lateOf 0).burst = false ∧
    after (.burstDataDiscard 0 0 1 3 []) (trained (bursting [] fun k => { k with dma := { late := [lateOf 0, lateOf 1] } }))
      (fun t => (getCore t 0).dma.late == [lateOf 1] && (getCore t 0).dma.discarded == 1) = true := by decide +kernel
theorem test_late_timeout : respLate { on { dma := { late := [lateOf 0] } } with aon := 5001 } 0 (lateOf 0).burst ∧
    after (.respTimeout 0 0 1 3) { on { dma := { late := [lateOf 0] } } with aon := 5001 } (fun t => (getCore t 0).dma.late == []) = true := by
  decide +kernel
theorem test_resp_timeout : readBurst.since + respTime (getCore (bursting []) 0) < 5001 ∧
    after (.respTimeout 0 0 1 0) { bursting [{ readBurst with issued := true }, otherBurst] with aon := 5001 }
      (fun t => (getCore t 0).runs.map (·.status) == [0x30]) = true := by decide +kernel

theorem test_cancel_accept : after (.cancelAccept 0 1 7) (headed fillDesc false [nest0])
    (fun t => (ctxAt t 0 0).queue == [] && (getCore t 0).dma.cancel.map (fun c => (c.mask, c.tag)) == some (1, 7)) = true := by decide +kernel
theorem test_cancel_busy : after (.cancelAccept 0 0x80 7) (on { dma := { cancel := some { mask := 1, tag := 2 } } })
    (fun t => (getCore t 0).dma.cancelBusy == 1 && (getCore t 0).dma.cancel == some { mask := 1, tag := 2 }) = true := by decide +kernel
theorem test_cancel_fence : cancelQuiet {} { mask := 1, tag := 2 } ∧ after (.cancelFence 0) (on { dma := { cancel := some { mask := 1, tag := 2 } } })
    (fun t => (getCore t 0).dma.fenceDone && (getCore t 0).dma.fenceTag == 2 && (getCore t 0).dma.cancel == none) = true := by decide +kernel

/-- Cores 0 and 1 as head and tail of a chain with slots of 1 KiB at byte 0, TIMEOUT 1, tile 1 complete at the head. -/
def chain (h g : Hal) : State :=
  { cores := [(0, { ctxs := [(0, { bound := 0x8000 })], spad := spadWrite {} 0 [7, 8], dma := { hal := h } }),
              (1, { ctxs := [(0, { bound := 0x8000 })], dma := { hal := g } })] }
def halHead : Hal := { cfg := 0x0001000000000809, st := .running, slots := [(0, { tile := some 1 })], since := some 0 }
def halTail : Hal := { cfg := 0x0001000000000819, st := .running }
theorem test_halyard_enable : halConfigOk (getCore (chain {} {}) 0) { cfg := 0x0001000000000809 &&& halMask } ∧
    after (.halyardEnable 0 0x0001000000000809) (chain {} {}) (fun t => (halOf t 0).st == .running) = true := by decide +kernel
theorem test_relay_start : forwardTo (chain halHead halTail) 0 = some 1 ∧
    after (.relayForwardStart 0) (chain halHead halTail) (fun t => (halOf t 0).inFlight) = true := by decide +kernel
theorem test_relay_complete : nextMember 0 halHead = some 1 ∧ after (.relayForwardComplete 0 []) (chain { halHead with inFlight := true } halTail)
    (fun t => spadBytes (getCore t 1).spad 0 2 == [7, 8] && (halOf t 0).nextFwd == 2 && (halOf t 0).forwarded == 1) = true := by decide +kernel
theorem test_relay_timeout : relayLate { chain halHead halTail with aon := 51 } 0 ∧
    after (.relayTimeout 0) { chain halHead halTail with aon := 51 } (fun t => (halOf t 0).st == .broken) = true := by decide +kernel
theorem test_relay_notice : after (.relayBreakNotice 1) (chain { halHead with st := .broken } halTail) (fun t => (halOf t 1).st == .broken) = true := by
  decide +kernel

/-! ### Messages, credits, slots and folds (13, 09) -/

/-- A message of the firmware (SRC 0x1FF) to a core. -/
def mail : Message := { src := 0x1FF, srcCtx := 0, len := 1, cls := 1, part := 0xFF, payload := [9] }
theorem test_message : arrives {} 0 mail ∧ samePart {} 0 mail ∧
    after (.messageArrival 0 mail) {} (fun t => (getCore t 0).mesh.mailbox == [mailOf mail]) = true := by decide +kernel
theorem test_message_wakes : after (.messageArrival 0 mail) (on { krecvOrder := [0]
                                                                  ctxs := [(0, { st := .waiting, wait := some (.krecv 5 0x40), bound := 0x8000 })] })
    (fun t => (ctxAt t 0 0).st == .running && spadBytes (getCore t 0).spad 0x40 9 == (mailOf mail).take 9 && (getCore t 0).krecvOrder == []) =
      true := by decide +kernel
theorem test_message_full : after (.messageArrival 0 mail) (on { mesh := { mailbox := List.replicate 64 [] } })
    (fun t => (getCore t 0).mesh.mboxNack == 1 && (getCore t 0).mesh.mailbox.length == 64) = true := by decide +kernel
/-- Core 1 of partition 2 has sent a message that names partition 3. -/
def foreign : Message := { src := 1, srcCtx := 0, len := 1, cls := 1, part := 3, payload := [9] }
def foreignSent : State :=
  { cores := [(1, { mesh := { sends := [{ ctx := 0, seq := 1, exec := 0, dst := 0, kind := 0, msg := mailOf foreign, st := .sent }] } })] }
theorem test_message_foreign : arrives foreignSent 0 foreign ∧ samePart foreignSent 0 foreign = false ∧
    after (.messageArrival 0 foreign) foreignSent
      (fun t => (getCore t 0).mesh.xpartDrop == 1 && (getCore t 0).mesh.mailbox == []) = true := by decide +kernel

/-- Core 0 sends with execution `e`, of a send of 64 bytes by context 0; core 1's ring 3 of two slots of 64 bytes is open or not. -/
def sending (e : SendEx) (g : Ring) (held : List Held := []) : State :=
  { cores := [(0, { runs := [{ ctx := 0, seq := 1, desc := desc 12 (slot 1 1 0 64) 0 0 0x10001, nests := [nest0], eng := .dma }], mesh := { sends := [e] } }),
              (1, { mesh := { rings := [(3, g)], held := held } })] }
def ring2 : Ring := { opened := true, head := 1, base := 0x100, size := 64, slots := 2, any := true }
def asking (st : SendSt) : SendEx := { ctx := 0, seq := 1, exec := 0, dst := 1, kind := 1, target := 3, slotSeq := 1, cls := 1, st := st }
theorem test_message_resend : sendStopped (sending { asking .refused with kind := 0 } {}) 0 { asking .refused with kind := 0 } = false ∧
    after (.messageResend 0 0) { sending { asking .refused with kind := 0 } {} with nclks := [(0, 64)] }
      (fun t => (getCore t 0).mesh.sends.map (·.st) == [.sent]) = true := by decide +kernel
theorem test_credit_granted : creditAnswer (getCore (sending (asking .ready) ring2) 1) 0 3 1 (creditLen (sending (asking .ready) ring2) 0 (asking .ready)) = .grant ∧
    after (.creditRequest 0 0) (sending (asking .ready) ring2)
      (fun t => slotOf_ (getCore t 1) 3 1 == .granted 1 0 && (getCore t 0).mesh.sends.map (·.st) == [.answered 0]) = true := by decide +kernel
theorem test_credit_held : creditAnswer (getCore (sending (asking .ready) {}) 1) 0 3 1 64 = .hold ∧
    after (.creditRequest 0 0) (sending (asking .ready) {}) (fun t => (getCore t 1).mesh.held.map (·.slotSeq) == [1]) = true := by decide +kernel
theorem test_credit_resent : after (.creditRequestResend 0 0)
      { sending (asking .refused) {} (List.replicate 32 { src := 9, idx := 0, target := 0, slotSeq := 0, len := 0, part := 0 }) with nclks := [(0, 64)] }
      (fun t => (getCore t 1).mesh.creditNack == 1 && (getCore t 0).mesh.sends.map (·.st) == [.refused]) = true ∧
    after (.creditRequestResend 0 0) { sending (asking .refused) ring2 with aon := 2, nclks := [(0, 64)] } (fun t => slotOf_ (getCore t 1) 3 1 == .granted 1 2) = true := by
  decide +kernel
theorem test_credit_answer : after (.creditAnswer 0 0) (sending (asking (.answered 0)) ring2)
      (fun t => (getCore t 0).mesh.sends.map (·.st) == [.granted]) = true ∧
    after (.creditAnswer 0 0) (sending (asking (.answered 1)) ring2) (fun t => (getCore t 0).mesh.sends.map (·.st) == [.done]) = true := by
  decide +kernel
theorem test_credit_wait : creditTime (getCore (sending (asking .sent) {}) 0) < 50001 ∧
    after (.creditWaitTimeout 0 0) { sending (asking .sent) {} with aon := 50001 }
      (fun t => (getCore t 0).runs.map (·.status) == [0x31] && (getCore t 0).mesh.sends.map (·.st) == [.done]) = true := by decide +kernel

theorem test_slot_fill : filledBy (sending (asking .granted) { ring2 with st := [(0, .granted 1 0)] }) 1 3 1 = some (0, 0) ∧
    after (.slotFill 1 3 1 []) (sending (asking .granted) { ring2 with st := [(0, .granted 1 0)] })
      (fun t => slotOf_ (getCore t 1) 3 1 == .filled 1) = true := by decide +kernel
theorem test_slot_expiry : respTime (getCore (sending (asking .granted) { ring2 with st := [(0, .granted 1 0)] }) 1) < 5001 ∧
    after (.slotGrantExpiry 1 3 1) { sending (asking .granted) { ring2 with st := [(0, .granted 1 0)] } with aon := 5001 }
      (fun t => slotOf_ (getCore t 1) 3 1 == .empty) = true := by decide +kernel
/-- Core 0, whose head copies from the slot of an open ring that nothing has filled. -/
def awaitsSlot : State :=
  { on { ctxs := [(0, { st := .running, bound := 0x8000, queue := [{ seq := 1, push := 0, desc := desc 6 (slot 1 1 0x100 4) 0 (slot 1 1 0x400 4) 0
                                                                     slotSince := some 0 }] })]
         mesh := { rings := [(3, ring2)] } } with aon := 50001 }
theorem test_slot_timeout : after (.slotTimeout 0 0) awaitsSlot
      (fun t => (ctxAt t 0 0).queue == [] && spadBytes (getCore t 0).spad 0x1000 1 == [0x31]) = true ∧
    after (.slotTimeout 0 0) (setCore awaitsSlot 0 { getCore awaitsSlot 0 with mesh := { rings := [(3, { ring2 with st := [(0, .filled 1)] })] } })
      (fun t => (ctxAt t 0 0).queue.length == 1) = true := by decide +kernel
theorem test_ring_release : after (.ringReleaseApply 0 0) (on { mesh := { rings := [(0, { ring2 with st := [(0, .filled 1)], pendingRel := [(0, 0)] })] } })
    (fun t => (getRing (getCore t 0) 0).head == 2 && (getRing (getCore t 0) 0).st == [(0, .empty)]) = true := by decide +kernel
theorem test_ring_close : ringMayClose {} { ring2 with closing := true } ∧
    after (.ringCloseComplete 0 15) (on { mesh := { rings := [(15, { ring2 with closing := true })] } })
      (fun t => !(getRing (getCore t 0) 15).opened) = true := by decide +kernel

/-- ACC_FOLD of INT32, one row, two slots, partials 1 to 1, group 0. -/
def foldCfg : W64 := 0x0001000100040810
/-- Core 0 with fold channel 15 as `f` and group 0 as `g`, over a partial whose entry 1 is 5. -/
def folding (f : Fold) (g : Group) : State :=
  on { acc := { folds := [(15, { f with cfg := foldCfg, next := 1 })], groups := [(0, g)], foldArea := memWriteN 0 [] 0x20004 [5] } }
theorem test_fold_arm : foldRefused {} 15 { cfg := (foldCfg ||| 1) &&& foldMask } = false ∧
    after (.foldArm 0 15 (foldCfg ||| 1)) {} (fun t => (getFold (getCore t 0) 15).st == .armed && (getFold (getCore t 0) 15).next == 1) = true ∧
    foldRefused {} 15 { cfg := (0x0001000200040811#64) &&& foldMask } = true ∧
    after (.foldArm 0 15 0x0001000200040811) {} (fun t => (getFold (getCore t 0) 15).st == .refused) = true := by decide +kernel
theorem test_fold_take : oldestWaiting (getCore (folding { st := .waiting } {}) 0) 0 = some 15 ∧
    after (.foldTakeGroup 0 15) (folding { st := .waiting } {})
      (fun t => (getFold (getCore t 0) 15).st == .armed && (getGroup (getCore t 0) true 0).st == .folding) = true := by decide +kernel
/-- The slot of the only partial is complete, and its adds are in the queues, or all but that of entry 1 have retired. -/
def filled : State := folding { st := .armed, slots := [(0, .filled 1)] } { st := .folding, ty := .int32, acc := [(1, 2)] }
def folded : State :=
  let k := getCore (folding { st := .armed, busy := true, slots := [(0, .filled 1)] } { st := .folding, ty := .int32, acc := [(1, 2)] }) 0
  on { k with acc := { k.acc with conflict := [(1, [{ group := 0, entry := 1, value := .fin false 5 0, ty := .int32 }])] } }
theorem test_fold_fragment : after (.foldFragment 0 15 []) filled
    (fun t => (getFold (getCore t 0) 15).busy && (getFold (getCore t 0) 15).st == .armed &&
      ((getCore t 0).acc.conflict.flatMap (·.2)).any fun a => a.entry == 1 && a.value == .fin false 5 0) = true := by decide +kernel
theorem test_fold_end : conflictQ (getCore folded 0) 1 ≠ [] ∧ addsPending (retireAdd (getCore folded 0) 1 none none) 0 = false ∧
    after (.abufAddRetire 0 1 none none) folded
    (fun t => Tab.get 0 (getGroup (getCore t 0) true 0).acc 1 == 7 && (getFold (getCore t 0) 15).st == .complete &&
      (getGroup (getCore t 0) true 0).st == .opened) = true := by decide +kernel
theorem test_fold_timeout : slotTime (getCore (folding { st := .armed } { st := .folding }) 0) < 50001 ∧
    after (.foldTimeout 0 15) { folding { st := .armed } { st := .folding } with aon := 50001 }
      (fun t => (getFold (getCore t 0) 15).st == .timeout && getGroup (getCore t 0) true 0 == {}) = true := by decide +kernel

/-! ### Arbiters and queues of the clock crossings (13) -/

theorem test_arbiter : effAge (getPoint {} 0 0).par 100 { cls := 3, input := 1, beats := 2, stamp := 90 } ≤
      effAge (getPoint {} 0 0).par 100 { cls := 3, input := 0, beats := 4, stamp := 10 } ∧
    after (.arbiterDecision 0 0 100 [{ cls := 3, input := 1, beats := 2, stamp := 90 }, { cls := 3, input := 0, beats := 4, stamp := 10 }]) {}
      (fun t => (getPoint t 0 0).owner == some (3, 0) && (getPoint t 0 0).beats == 4) = true := by decide +kernel
theorem test_quota_window : (getPoint {} 4 0).window + arbWindow (getPoint {} 4 0).par ≤ 65536 ∧
    after (.quotaWindow 4 0 65536) (setPoint {} 4 0 { getPoint {} 4 0 with c0Grants := 3 }) (fun t => (getPoint t 4 0).c0Grants == 0) = true := by
  decide +kernel
theorem test_arb_commit : after (.arbCommit 0 4) (setArbSet {} 4 { getArbSet {} 4 with shadow := { boost := [], limit := [], window := 7, quota := 1 } })
      (fun t => (getArbSet t 4).live.window == 7 && (getArbSet t 4).commits == 1) = true ∧
    after (.arbCommit 16 4) {} (fun t => (getArbSet t 4).commits == 0) = true := by decide +kernel
theorem test_queue_reset : queueDie 0x8000 = some none ∧ after (.queueReset 0x8000 3 5) {} (fun t => t.hub.cdcLost == 5 && t.hub.cdcLast == 0x80) = true ∧
    queueDie 271 = some (some 1) ∧ after (.queueReset 271 3 2) {} (fun t => (Tab.get (0#16, 0#8, 0#8) t.hub.mshCdc 1).1 == 3) = true := by
  decide +kernel
theorem test_pacer : after (.pacerToken 255) { cores := [(255, { mesh := { c0Token := false } })], nclks := [(1, 4100)] }
      (fun t => (getCore t 255).mesh.c0Token && (getCore t 255).mesh.c0Last == 4096) = true ∧
    after (.pacerToken 255) { cores := [(255, { mesh := { c0Token := false } })], nclks := [(1, 2047)] } (fun t => !(getCore t 255).mesh.c0Token) = true ∧
    after (.pacerToken 258) { nclks := [(1, 2048)], hub := { pacer := [(2, false)] } } (fun t => Tab.get false t.hub.pacer 2) = true ∧
    after (.pacerToken 256) { nclks := [(0, 2048)], hub := { pacer := [(0, false)] } } (fun t => Tab.get false t.hub.pacer 0) = true ∧
    after (.pacerToken 256) { nclks := [(0, 2047)], hub := { pacer := [(0, false)] } } (fun t => !Tab.get true t.hub.pacer 0) = true := by decide +kernel

/-! ### HBM (14) -/

theorem test_hbm_write_top : rangeWaits (trained {}) 0xBFFFFFFFFE 2 = false ∧ rangeFailed (trained {}) 0xBFFFFFFFFE 2 = false ∧
    after (.hbmAccess 0xBFFFFFFFFE (some [1, 2]) 0 []) (trained {}) (fun t => hbmRead t 0xBFFFFFFFFD 3 == [0, 1, 2]) = true := by decide +kernel
theorem test_hbm_read : after (.hbmAccess 0xBFFFFFFFFE none 2 []) (trained {}) (fun t => t == trained {}) = true := by decide +kernel
theorem test_hbm_waits : rangeWaits {} 0x40 2 ∧ after (.hbmAccess 0x40 (some [1, 2]) 0 []) {}
    (fun t => t.hbm.bytes == [] && t.hbm.waiting == [.access 0x40 (some [1, 2]) 0 []]) = true := by decide +kernel
/-- Channel 0 of stack 0 has failed. -/
def failedChan : State := setChan (trained {}) 0 { failed := true }
theorem test_hbm_failed : rangeWaits failedChan 0 2 = false ∧ rangeFailed failedChan 0 2 ∧
    after (.hbmAccess 0 (some [1, 2]) 0 []) failedChan (fun t => t == failedChan) = true := by decide +kernel
theorem test_hbm_corrected : after (.hbmAccess 0x107 none 1 [(0x100, .corrected)]) (trained {})
    (fun t => (getEcc t (hbmMap {} 0x100).1).ce == 1 && t.hbm.bytes == []) = true := by decide +kernel
theorem test_hbm_beyond : (match exec (.hbmAccess 0xBFFFFFFFFF (some [1, 2]) 0 []) {} with | .fault (.noSuchAddress a) => a == 0xBFFFFFFFFF | _ => false) =
    true := by decide +kernel
theorem test_hbm_refresh : (getStack {} 7).selfRefresh = false ∧ after (.hbmRefresh 7 31 3 5) {}
    (fun t => (getEcc t 7).odecc == 5 && (getChan t 255).refreshes == 1 && (getChan t 255).lastBank == 3) = true := by decide +kernel
theorem test_hbm_retrain : stackRetrains {} 7 = false ∧ (getChan {} 255).last + trainInterval {} * 50000 ≤ 5000000 ∧
    after (.hbmRetrain 7 31) (trained { aon := 5000000 }) (fun t => (getChan t 255).retraining && (getChan t 255).last == 5000000) = true := by decide +kernel
theorem test_hbm_retrain_end : after (.hbmRetrainEnd 7 31) (setChan { aon := 9 } 255 { retraining := true })
    (fun t => !(getChan t 255).retraining && t.hbm.retrains == 1) = true := by decide +kernel
theorem test_bandmap : after (.bandmapWrite 95 true) {} (fun t => t.hbm.bandmap == 0x800000000000000000000000) = true ∧
    after (.bandmapWrite 95 true) (setRegion {} 767 { st := .assigned }) (fun t => t.hbm.bandmap == 0 && t.hbm.bandmapBusy == 1) = true := by
  decide +kernel
theorem test_scrub : after (.scrubStart 767) (booted {}) (fun t => (getRegion t 767).st == .scrubbing) = true ∧
    after (.scrubStart 767) {} (fun t => (getRegion t 767).st == .quarantined) = true ∧ after (.scrubStart 767) (booted {}) (fun t => (getRegion t 767).st == .scrubbing) = true ∧
    after (.scrubComplete 767) (hbmWrite (hbmWrite (setRegion (trained {}) 767 { st := .scrubbing }) 0xBFFFFFFFFF [1]) 0xBFBFFFFFFF [2])
      (fun t => (getRegion t 767).st == .free && hbmRead t 0xBFFFFFFFFF 1 == [0] && hbmRead t 0xBFBFFFFFFF 1 == [2]) = true := by decide +kernel

/-! ### Ports and frames (15) -/

/-- Module 7, whose port 3 is `x`, with the routes to modules 9 and 10 by ring port 1. -/
def ported (x : Port) : State :=
  { fab := { role := { live := 7 }, ports := [(3, x)], route := [(9, 0xA000), (10, 0xA000)] } }
/-- A frame of type `ty` from partition 1 of module 9 to partition 2 of module 7. -/
def frame (ty : Byte) (payload : List Byte) (dst : Nat := 7) : Frame :=
  { type := ty, flags := noFlags, cls := 1, hops := 3, srcPart := 1, dstPart := 2, srcModule := 9, dstModule := dst, addr := 0x40, readLen := 1
    lseq := 0, epoch := 0, xtag := 5, td := [], payload := payload }
def rx (f : Frame) : Rx := { port := 3, frame := f, crcOk := true, tagOk := true, stomp := false }
/-- An open port; one that may send frames of class 1. -/
def up : Port := { st := .up }
def sendable : Port := { st := .up, granted := [8, 2, 8, 8], queues := [(1, [frame 1 [1]])] }

theorem test_frame_send : frameCredits { stampEpoch (ported sendable) (frame 1 [1]) with lseq := 0 } ≤ creditsLeft sendable 1 ∧
    after (.frameSend 3 1) (ported sendable)
      (fun t => (getPort t 3).txSeq == 1 && (getPort t 3).kept.length == 1 && (getPort t 3).spent == [0, 2, 0, 0]) = true := by decide +kernel
theorem test_frame_held : ringHeld { ported sendable with pins := { holdIn := [(1, true)] } } 3 ∧
    after (.frameSend 3 1) { ported sendable with pins := { holdIn := [(1, true)] } } (fun t => (getPort t 3).txSeq == 0) = true := by decide +kernel
theorem test_lctl_send : after (.lctlSend 3) { ported { up with nakDue := true } with aon := 9 }
    (fun t => !(getPort t 3).nakDue && (getPort t 3).lctlSeq == 1 && (getPort t 3).lastLctl == 9) = true := by decide +kernel
/-- An LCTL body that acknowledges the frames before `ack`. -/
def lctlBody (ack : Nat) (nak : Bool) : Lctl :=
  { ack := ack, nak := nak, lane := 0xF, cred := [1, 0xFFFF, 0, 0], switchAt := 0, switchKind := 0, keyBytes := [] }
theorem test_lctl : after (.lctl 3 (lctlBody 1 false) true) (ported { up with kept := [frame 1 [], { frame 1 [] with lseq := 1 }], granted := [0, 65536, 0, 0] })
    (fun t => (getPort t 3).kept.map (·.lseq) == [1] && (getPort t 3).granted == [1, 131071, 0, 0]) = true := by decide +kernel
theorem test_lctl_nak : after (.lctl 3 (lctlBody 1 true) true) (ported { up with kept := [frame 1 [], { frame 1 [] with lseq := 1 }] })
    (fun t => (getPort t 3).retries == 1 && (getPort t 3).resend.map (·.lseq) == [1]) = true := by decide +kernel
/-- A frame that is sent again goes first, as it is. -/
theorem test_frame_resent : after (.frameSend 3 1) (ported { sendable with resend := [{ frame 1 [2] with lseq := 0 }], txSeq := 1 })
    (fun t => (getPort t 3).txSeq == 1 && (getPort t 3).resend == [] && (getPort t 3).kept == [] && (Tab.get [] (getPort t 3).queues 1).length == 1) = true := by decide +kernel
theorem test_retune_end : after (.retuneEnd 3 true) (ported { up with retuning := true }) (fun t => !(getPort t 3).retuning) = true := by decide +kernel
theorem test_frames_lost : after (.framesLost 3) { ported { st := .down, kept := [frame 1 []] } with aon := 2500000 }
    (fun t => (getPort t 3).framesLost == 1 && (getPort t 3).kept == []) = true := by decide +kernel

theorem test_bad_crc : after (.write { rx (frame 1 [1]) with crcOk := false }) (ported up)
    (fun t => (getPort t 3).nakDue && (getPort t 3).rxSeq == 0 && t.hbm == {}) = true := by decide +kernel
theorem test_fec : after (.write { rx (frame 1 [1]) with fec := 2 }) (ported up)
    (fun t => (getPort t 3).nakDue && (getPort t 3).fecUe == 2 && t.hbm == {}) = true := by decide +kernel
theorem test_stomped : after (.write { rx (frame 1 [1]) with stomp := true }) (ported up)
    (fun t => (getPort t 3).stomped == 1 && (getPort t 3).rxSeq == 1 && t.hbm == {}) = true := by decide +kernel
theorem test_bad_tag : after (.read { rx (frame 3 []) with tagOk := false }) (ported up) (fun t => (getPort t 3).nakDue) = true := by decide +kernel

/-- Module 7 whose partition 2 holds region 0, with partition 1 of module 9 as its peer. -/
def peered : State := trained <| setRegion { ported up with parts := [(2, { st := .setUp, regions := [0], peers := [(9, 1)] })] } 0 { st := .assigned, part := 2 }
theorem test_write : Delivered 1 (rx (frame 1 [1, 2])) peered ∧ Served peered (frame 1 [1, 2]) 0x40 2 ∧ frameRefused (linkTaken (rx (frame 1 [1, 2])) peered) (frame 1 [1, 2]) 0x40 2 = none ∧
    RingRoute peered 9 1 ∧ after (.write (rx (frame 1 [1, 2]))) peered
      (fun t => hbmRead t 0x3F 4 == [0, 1, 2, 0] && (Tab.get [] (getPort t 1).queues 1).map (fun f => (f.type, f.xtag)) == [(2, 5)]) = true := by
  decide +kernel
theorem test_read : Delivered 3 (rx (frame 3 [])) peered ∧ after (.read (rx (frame 3 []))) (hbmWrite peered 0x40 [3, 4, 5])
    (fun t => (Tab.get [] (getPort t 1).queues 1).map (fun f => (f.type, f.payload)) == [(4, [3, 4])]) = true := by decide +kernel
/-- A C0 READ of 129 bytes needs two tokens of the receive path into spar die 0. -/
def slow : Frame := { frame 3 [] with cls := 0, readLen := 128 }
theorem test_read_paced : rxNeed slow [(0x40, 129)] = 2 ∧ after (.read (rx slow)) peered (fun t =>
    (t.hbm.waiting.length == 1 && Tab.get [] (getPort t 1).queues 0 == []) && match exec (.pacerToken 257) { t with nclks := [(0, 2048)] } with
      | .next u => u.hbm.waiting == [] && (Tab.get [] (getPort u 1).queues 0).map (·.payload.length) == [129]
      | _ => false) = true := by decide +kernel
theorem test_write_no_peer : (getPart { peered with parts := [] } 2).peers.contains (9, 1) = false ∧
    after (.write (rx (frame 1 [1]))) { peered with parts := [] }
      (fun t => t.fab.xpartDrop == 1 && (Tab.get [] (getPort t 1).queues 1).map (fun f => (f.type, f.payload)) == [(5, [2])]) = true := by decide +kernel
theorem test_forward : RingRoute peered 10 1 ∧ after (.frameForward (rx (frame 1 [1] 10))) peered
    (fun t => (Tab.get [] (getPort t 1).queues 1).map (·.hops) == [2] && t.hbm.bytes == []) = true := by decide +kernel
/-- A frame of 320 bytes to module 10. -/
def long : Frame := frame 1 (List.replicate 256 1) 10
theorem test_forward_stomped : 256 < frameLen long ∧ RingRoute peered 10 1 ∧ after (.frameForward { rx long with crcOk := false }) peered
    (fun t => (Tab.get [] (getPort t 1).queues 1).map (·.stomp) == [true] && (getPort t 3).nakDue) = true ∧
    after (.frameForward { rx (frame 1 [1] 10) with crcOk := false }) peered (fun t => Tab.get [] (getPort t 1).queues 1 == []) = true := by
  decide +kernel
/-- Bytes 16 to 31 of the header: LSEQ 3 with bit 47, PLEN 1, EPOCH 0, XTAG 5. -/
theorem test_frame_header : (frameHeader (frame 1 [1]) 3).take 8 = [1, 0, 0x43, 0x21, 9, 0, 7, 0] ∧
    (frameHeader (frame 1 [1]) (2 ^ 47 + 3)).drop 16 = [3, 0, 0, 0, 0, 0x80, 1, 0, 0, 0, 0, 0, 5, 0, 0, 0] := by decide +kernel
theorem test_lctl_bytes : lctlBytes { up with rxSeq := 5, nakDue := true, sayLaneSwitch := some 9, keyBytes := [1, 2] } =
    [5, 0, 0, 0, 0, 0, 1, 15] ++ List.replicate 8 0 ++ [9, 0, 0, 0, 0, 0, 1, 2] ++ [1, 2, 0, 0, 0, 0, 0, 0] := by decide +kernel

/-- A read burst from module 9 that waits for the response with XTAG 5. -/
def awaiting : State :=
  { ported up with
    cores := [(0, { runs := [{ ctx := 0, seq := 1, desc := desc 9 0 0 0 0, eng := .dma
                               bursts := [{ idx := 0, src := some (.remote 9 0x40), dst := .spad 0 0, len := 2, issued := true }] }] })]
    fab := { (ported up).fab with txns := [{ xtag := 5, module := 9, srcPart := 2, client := .burst 0 0 1 0 }] } }
/-- The answer and the data of the burst. -/
def answered (t : State) : List (Option Nat × List Byte) := (getCore t 0).runs.flatMap fun r => r.bursts.map fun b => (b.answer, b.data)
theorem test_wack : Delivered 2 (rx (frame 2 [])) awaiting ∧ takeTxn 5 9 awaiting.fab.txns = some (⟨5, 9, 2, .burst 0 0 1 0, 0⟩, []) ∧
    after (.wack (rx (frame 2 []))) awaiting (fun t => t.fab.txns == [] && (answered t).map (·.1) == [some 0]) = true := by decide +kernel
theorem test_rdata : Delivered 4 (rx (frame 4 [8, 9])) awaiting ∧
    after (.rdata (rx (frame 4 [8, 9]))) awaiting (fun t => answered t == [(some 0, [8, 9])]) = true := by decide +kernel
theorem test_nresp : Delivered 5 (rx (frame 5 [2])) awaiting ∧
    after (.nresp (rx (frame 5 [2]))) awaiting (fun t => (answered t).map (·.1) == [some 0x22] && t.fab.txns == []) = true := by decide +kernel
theorem test_duplicate_response : takeTxn 5 9 (ported up).fab.txns = none ∧
    after (.wack (rx (frame 2 []))) (ported up) (fun t => t.fab.dupResp == 1) = true := by decide +kernel

/-! ### Keying, lanes and keys -/

theorem test_port_trained : 4 ≤ (workingLanes { st := .training, light := true, bad := [0, 1, 2, 3] }).length ∧
    after (.portTrained 3) (ported { st := .training, light := true, bad := [0, 1, 2, 3] })
      (fun t => (getPort t 3).st == .keying && (getPort t 3).division == [0x40, 0x40, 0x40, 0x40]) = true ∧
    after (.portTrained 3) (ported { st := .training, light := true, bad := [0, 1, 2, 3, 4] }) (fun t => (getPort t 3).st == .down) = true := by
  decide +kernel
/-- A keying message of kind `k` whose body has `n` zero bytes. -/
def keyMsg0 (k n : Nat) : KeyMsg := { kind := k, body := List.replicate n 0, crcOk := true }
theorem keyMsg0_length (k n : Nat) : (keyMsg0 k n).body.length = n := List.length_replicate
theorem getPort_ported (x : Port) : getPort (ported x) 3 = x := rfl
/-- A port in KEYING to which the bytes of the message `keyMsg0 k n` have come. -/
def keyingWith (k n : Nat) (x : Keying) : Port := { st := .keying, keying := x, keyIn := keyMsgBytes k (List.replicate n 0) ++ [] }
theorem keyingWith_front (k n : Nat) (x : Keying) (hk : k < 256) (hn : n < 65536) :
    frontMsg (getPort (ported (keyingWith k n x)) 3).keyIn = some (keyMsg0 k n, []) := by
  rw [getPort_ported]; exact frontMsg_keyMsgBytes k _ [] hk (by rw [List.length_replicate]; exact hn)
theorem test_w_hello : frontMsg (getPort (ported (keyingWith 1 10391 {})) 3).keyIn = some (keyMsg0 1 10391, []) ∧ LogRoom (ported (keyingWith 1 10391 {})) ∧
    (getPort (ported (keyingWith 1 10391 {})) 3).st = .keying ∧ (keyMsg0 1 10391).body.length = 10391 :=
  ⟨keyingWith_front 1 10391 {} (by decide) (by decide), by decide, rfl, keyMsg0_length _ _⟩
theorem test_w_encap : frontMsg (getPort (ported (keyingWith 2 1568 { peerHello := [1] })) 3).keyIn = some (keyMsg0 2 1568, []) ∧
    (getPort (ported (keyingWith 2 1568 { peerHello := [1] })) 3).keying.peerHello.isEmpty = false ∧ (keyMsg0 2 1568).body.length = 1568 :=
  ⟨keyingWith_front 2 1568 _ (by decide) (by decide), rfl, keyMsg0_length _ _⟩
theorem test_w_sign : frontMsg (getPort (ported (keyingWith 3 4627 { signed := true })) 3).keyIn = some (keyMsg0 3 4627, []) ∧
    (getPort (ported (keyingWith 3 4627 { signed := true })) 3).keying.signed = true ∧ (keyMsg0 3 4627).body.length = 4627 :=
  ⟨keyingWith_front 3 4627 _ (by decide) (by decide), rfl, keyMsg0_length _ _⟩
/-- A message whose CRC-32C fails ends the handshake. -/
theorem test_keying_bad_crc : frontMsg [0, 0, 1, 0, 1, 1, 1, 1] = some ({ kind := 1, body := [], crcOk := false }, []) ∧
    after (.keyingHello 3 { kind := 1, body := [], crcOk := false }) (ported { st := .keying, keyIn := [0, 0, 1, 0, 1, 1, 1, 1] })
      (fun t => (getPort t 3).keying.failed == some 0 && (getPort t 3).st == .keying) = true := by decide +kernel
theorem test_keying_bytes : after (.lctl 3 { lctlBody 0 false with keyBytes := [1, 2, 3] } true) (ported { st := .keying, keyIn := [9] })
    (fun t => (getPort t 3).keyIn == [9, 1, 2, 3]) = true := by decide +kernel
theorem test_w_keying_retry : (0 : Nat) + secAon ≤ 50000000 ∧
    (getCred { ported { st := .keying, keying := { failed := some 0 } } with
      fwc := { flash := { creds := { copy0 := some (0, [(18, { data := [1] }), (19, { data := [2] })]) } } } } 19).data ≠ [] := by decide +kernel

theorem test_rekey : after (.rekey 3) (ported { up with txSeq := 2 ^ 46 + 1 }) (fun t => (getPort t 3).txSwitch == some (2 ^ 46 + 1025)) = true ∧
    after (.rekey 3) (ported { up with txSeq := 2 ^ 46 }) (fun t => !(getPort t 3).rekeyed) = true := by decide +kernel
theorem test_key_switch : after (.keySwitch 3 true) (ported { up with txSwitch := some 4, txSeq := 4 }) (fun t => (getPort t 3).txSwitch == none) = true ∧
    after (.keySwitch 3 false) (ported { up with rxSwitch := some 4, rxSeq := 4 }) (fun t => (getPort t 3).rxSwitch == none) = true := by
  decide +kernel
theorem test_lane_failing : spareThresh up < 0x1001 ∧
    after (.laneFailing 3 7 0x1001 false) (ported up) (fun t => (getPort t 3).swapping == some 7 && (getPort t 3).bad == [7]) = true ∧
    after (.laneFailing 3 7 0 true) (ported { up with bad := [3], spare := 3 })
      (fun t => (getPort t 3).st == .training && (getPort t 3).bad == [3, 7]) = true := by decide +kernel
theorem test_lane_switch : after (.laneSwitch 3 false) (ported { up with swapping := some 7, swapAt := some 0 })
      (fun t => (getPort t 3).spare == 7 && (getPort t 3).swapping == none) = true ∧
    after (.laneSwitch 3 true) (ported { up with txSwapping := some 6, txSwapAt := some 0 })
      (fun t => (getPort t 3).txSpare == 6 && (getPort t 3).txSwapping == none) = true := by decide +kernel
theorem test_lane_asked : after (.lctl 3 { lctlBody 0 false with lane := 5 } true) (ported up)
    (fun t => (getPort t 3).txSwapping == some 5 && (getPort t 3).sayLaneSwitch.isSome) = true := by decide +kernel
theorem test_light_closed : after (.lightChange 3 true) { ported {} with fwc := { st := 2, stage := 4 } } (fun t => (getPort t 3).st == .down) = true := by
  decide +kernel
theorem test_light : after (.lightChange 3 true) (setStay { ported {} with fwc := { st := 2, stage := 4 } } 1 { st := .opened }) (fun t => (getPort t 3).st == .training) = true ∧
    after (.lightChange 3 false) (ported up) (fun t => (getPort t 3).st == .training && !(getPort t 3).light) = true := by decide +kernel

/-! ### Stay switches and ring hold -/

/-- Stay switch 1 as `st`, on a READY module whose management port has an open session. -/
def stayed (st : StaySt) : State := setSess (setStay { fwc := { st := 2 } } 1 { st := st }) 17 { id := 1, opened := true }
theorem test_stay_open : mayOpen (stayed .closed) ∧ after (.stayOpen true 1) (stayed .closed) (fun t => (getStay t 1).st == .moving true 0) = true ∧
    mayOpen {} = false ∧ after (.stayOpen true 1) {} (fun t => t.hub.ignoredWr == 1 && (getStay t 1).st == .closed) = true := by decide +kernel
theorem test_stay_close : after (.stayClose true 1) (stayed .opened) (fun t => (getStay t 1).st == .moving false 0) = true ∧
    after (.stayClose true 1) (stayed (.moving true 0)) (fun t => (getStay t 1).held == some false) = true ∧
    after (.stayClose true 1) (setSess (stayed .opened) 17 {}) (fun t => (getStay t 1).st == .opened && t.hub.ignoredWr == 1) = true := by decide +kernel
theorem test_stay_ring_down : ringDown { stayed .opened with aon := 2500000 } 1 ∧
    after (.stayRingDown 1) { stayed .opened with aon := 2500000 } (fun t => (getStay t 1).st == .moving false 2500000) = true := by decide +kernel
theorem test_stay_moved : after (.stayMoveComplete 1) (stayed (.moving true 0)) (fun t => (getStay t 1).st == .opened) = true ∧
    after (.stayMoveComplete 1) (setPort (stayed (.moving false 0)) 3 { up with light := true })
      (fun t => (getStay t 1).st == .closed && (getPort t 3).st == .down && !(getPort t 3).light) = true := by decide +kernel
theorem test_hold_in : after (.holdInAssert 1) { aon := 5 } (fun t => Tab.get false t.pins.holdIn 1 && Tab.get 0 t.pins.holdInSince 1 == 5) = true ∧
    after (.holdInDeassert 1) { pins := { holdIn := [(1, true)], holdStuck := [(1, true)] } }
      (fun t => !Tab.get false t.pins.holdIn 1 && !Tab.get false t.pins.holdStuck 1) = true := by decide +kernel
theorem test_hold_stuck : after (.holdStuck 1) { aon := 5001, pins := { holdIn := [(1, true)] } }
      (fun t => Tab.get false t.pins.holdStuck 1 && t.fab.holdStuck == 1) = true ∧
    after (.holdStuck 1) { aon := 5000, pins := { holdIn := [(1, true)] } } (fun t => !Tab.get false t.pins.holdStuck 1) = true := by decide +kernel

/-! ### Trees, epochs and groups (15) -/

/-- A control frame `code` of type `ty`. -/
def ctl (ty : Byte) (code : Nat) (body : List Byte) : Frame := frame ty (Config.ctlCode code :: body)
/-- `peered` with tree 5 of partition 2 in entry 0: role, state and more. -/
def treed (role : Nat) (t : Tree) : State :=
  { peered with fab := { peered.fab with
      trees := [(0, { t with raw := BitVec.ofNat 256 (5 + role * 2 ^ 16 + 2 * 2 ^ 24 + 0x100 * 2 ^ 64 + 16 * 2 ^ 128) })] } }
theorem test_w_attach : DeliveredCtl 7 ccAttach (rx (ctl 7 ccAttach [0, 5, 0])) (treed 1 {}) ∧
    treeOf (treed 1 {}) (fieldAt (ctl 7 ccAttach [0, 5, 0]).payload 2 2) (fun r => r == 1) = some 0 :=
  ⟨⟨by decide +kernel, rfl⟩, by decide +kernel⟩
theorem test_w_mack : DeliveredCtl 7 ccMack (rx (ctl 7 ccMack [0, 5, 0])) (treed 1 { attached := [⟨9, 1, 1, 0⟩] }) ∧
    (getTree (treed 1 { attached := [⟨9, 1, 1, 0⟩] }) 0).waiting = [] := ⟨⟨by decide +kernel, rfl⟩, by decide +kernel⟩
theorem test_w_repair_req : DeliveredCtl 7 ccRepairReq (rx { ctl 7 ccRepairReq [0, 5, 0] with epoch := 4 }) (treed 1 { tseq := 4 }) ∧
    max 1 (getTree (treed 1 { tseq := 4 }) 0).tseq ≤ 4 ∧ ∀ x ∈ (getTree (treed 1 { tseq := 4 }) 0).sent, x.tseq < 4 :=
  ⟨⟨by decide +kernel, rfl⟩, by decide +kernel⟩
theorem test_w_repair_gone : DeliveredCtl 7 ccRepairReq (rx { ctl 7 ccRepairReq [0, 5, 0] with epoch := 3 }) (treed 1 { tseq := 4 }) ∧
    3 < max 1 (getTree (treed 1 { tseq := 4 }) 0).tseq ∧ RingRoute (treed 1 { tseq := 4 }) 9 1 := ⟨⟨by decide +kernel, rfl⟩, by decide +kernel⟩
/-- A root that has been held since 0 by one receiver. -/
def heldRoot : Tree := { tseq := 66, waiting := [⟨66, 0, false, false, [], [1]⟩], attached := [⟨9, 1, 1, 0⟩], heldSince := some 0 }
theorem test_detach_wait : (0 : Nat) + treeWait (getTree (treed 1 heldRoot) 0) * usAon ≤ 1000 ∧ 0 + treeSlack (getTree (treed 1 heldRoot) 0) < 66 ∧
    after (.detachWaitExpiry 0) { treed 1 heldRoot with aon := 1000 }
      (fun t => (getTree t 0).attached == [] && (getTree t 0).tseq == 67 && t.fab.detached == 1) = true := by decide +kernel
/-- The next frame of tree 5, one byte for offset 0x40 of the delivery buffer. -/
def treeFrame : Frame := { frame 6 [0xAB] 5 with flags := { noFlags with mcast := true }, epoch := 3 }
/-- A receiver that has taken nothing starts at the first live frame that reaches it. -/
theorem test_tree_first : after (.treeData (rx { treeFrame with epoch := 8 })) (treed 2 { st := 1, tseq := 0 })
    (fun t => (getTree t 0).tseq == 8 && hbmRead t 0xFF 3 == [0, 0xAB, 0]) = true := by decide +kernel
theorem test_tree_data : treeOf (treed 2 { st := 1, tseq := 2 }) 5 (fun r => r == 2 || r == 3) = some 0 ∧
    regionsOk (treed 2 { st := 1, tseq := 2 }) (some 2) 0x100 16 = true ∧ spaceOf (0x100 + 0x40 % max 1 16) 0 = .hbm ∧
    after (.treeData (rx treeFrame)) (treed 2 { st := 1, tseq := 2 })
      (fun t => (getTree t 0).tseq == 3 && hbmRead t 0xFF 3 == [0, 0xAB, 0]) = true := by decide +kernel
theorem test_w_detach : DeliveredCtl 7 ccDetach (rx (ctl 7 ccDetach [0, 5, 0])) (treed 2 { st := 1 }) ∧
    treeOf (treed 2 { st := 1 }) 5 (fun r => r == 2) = some 0 := ⟨⟨by decide +kernel, rfl⟩, by decide +kernel⟩
theorem test_w_rejoin : DeliveredCtl 7 ccRejoin (rx { ctl 7 ccRejoin [0, 5, 0] with epoch := 3 }) (treed 2 { st := 2, tseq := 2 }) ∧
    DeliveredCtl 7 ccRejoin (rx { ctl 7 ccRejoin [0, 5, 0] with epoch := 4 }) (treed 2 { st := 3, tseq := 2 }) ∧
    treeOf (treed 2 { st := 2, tseq := 2 }) 5 (fun r => r == 2) = some 0 := ⟨⟨by decide +kernel, rfl⟩, ⟨by decide +kernel, rfl⟩, by decide +kernel⟩
theorem test_w_repair_nak : DeliveredCtl 7 ccRepairNak (rx (ctl 7 ccRepairNak [0, 5, 0])) (treed 2 { st := 3 }) ∧
    treeOf (treed 2 { st := 3 }) 5 (fun r => r == 2) = some 0 := ⟨⟨by decide +kernel, rfl⟩, by decide +kernel⟩

/-- `peered` as the worker of masthead 9, or as a masthead, in group 0x55, with the group state `g`. -/
def worker (g : Group_) : State := { peered with fab := { peered.fab with role := { live := 0x0000000955000007 }, group := g } }
def mast (g : Group_) : State := { peered with fab := { peered.fab with role := { live := 0x0000000055010007 }, group := g } }
theorem test_w_epoch_begin : DeliveredCtl 8 ccBegin (rx (ctl 8 ccBegin [3, 0, 0, 0])) (worker {}) ∧ masthead (worker {}) = 9 ∧
    fieldAt (ctl 8 ccBegin [3, 0, 0, 0]).payload 1 4 = 3 ∧ epochOf (worker {}) 2 = .none := ⟨⟨by decide +kernel, rfl⟩, by decide +kernel⟩
theorem test_w_epoch_begin_aborted : DeliveredCtl 8 ccBegin (rx (ctl 8 ccBegin [3, 0, 0, 0])) (setEpoch (worker {}) 2 (.aborted 3)) ∧
    epochOf (setEpoch (worker {}) 2 (.aborted 3)) 2 = .aborted 3 := ⟨⟨by decide +kernel, rfl⟩, by decide +kernel⟩
theorem test_w_epoch_abort : DeliveredCtl 8 ccAbort (rx (ctl 8 ccAbort [3, 0, 0, 0])) (setEpoch (worker {}) 2 (.opened 3 [9])) ∧
    epochOf (setEpoch (worker {}) 2 (.opened 3 [9])) 2 = .opened 3 [9] := ⟨⟨by decide +kernel, rfl⟩, by decide +kernel⟩
theorem test_epoch_end : RingRoute (setEpoch (worker {}) 15 (.opened 3 [9])) 9 1 ∧
    after (.epochEnd 15) (setEpoch (worker {}) 15 (.opened 3 [9]))
      (fun t => epochOf t 15 == .none && ((Tab.get [] (getPort t 1).queues 1).map fun f => f.payload.drop 1) == [[3, 0, 0, 0]]) = true := by
  decide +kernel

/-- The state with an open session of the PF. -/
def sessed (s : State) : State := setSess s 0 { id := 1, opened := true }
theorem test_role_commit : commitOk (sessed {}) 0x0000000055010007 ∧ LogRoom (sessed {}) ∧
    after (.roleCommit 0 0x0000000055010007) {} (fun t => t.fab.role.live == 0 && t.hub.ignoredWr == 1) = true ∧
    after (.roleCommit 0 0x0000000055010007) (sessed {}) (fun t => t.fab.role.live == 0x0000000055010007 && t.fab.group.gstate == 0) = true ∧
    commitOk (sessed (worker { gstate := 2 })) 8 = false ∧
    after (.roleCommit 0 8) (sessed (worker { gstate := 2 })) (fun t => t.hub.ignoredWr == 1 && t.fab.role.live == 0x0000000955000007) = true := by decide +kernel
/-- A mast with module 9 as member 1, heard at 0. -/
def withMember (g : Group_ := {}) : State := mast { g with members := [(1, { module := 9, cores := 256 })] }
theorem test_w_join : DeliveredCtl 9 ccJoin (rx (ctl 9 ccJoin [0x55, 0, 1])) (mast {}) ∧ isMasthead (mast {}) = true ∧
    fieldAt (ctl 9 ccJoin [0x55, 0, 1]).payload 1 1 = roleGroup (mast {}) ∧ memberIdx (mast {}) 9 = none ∧ freeIndex (mast {}) = some 1 :=
  ⟨⟨by decide +kernel, rfl⟩, by decide +kernel⟩
theorem test_w_join_other : DeliveredCtl 9 ccJoin (rx (ctl 9 ccJoin [0x54, 0, 1])) (mast {}) ∧
    fieldAt (ctl 9 ccJoin [0x54, 0, 1]).payload 1 1 ≠ roleGroup (mast {}) := ⟨⟨by decide +kernel, rfl⟩, by decide +kernel⟩
theorem test_w_accept : DeliveredCtl 9 ccAccept (rx (ctl 9 ccAccept [1])) (worker { gstate := 1 }) ∧ isMasthead (worker { gstate := 1 }) = false ∧
    DeliveredCtl 9 ccRefuse (rx (ctl 9 ccRefuse [])) (worker { gstate := 1 }) ∧ masthead (worker { gstate := 1 }) = 9 :=
  ⟨⟨by decide +kernel, rfl⟩, by decide +kernel, ⟨by decide +kernel, rfl⟩, by decide +kernel⟩
theorem test_heartbeat_send : RingRoute (worker { gstate := 2 }) 9 1 ∧ after .heartbeatSend { worker { gstate := 2 } with aon := 500000 }
    (fun t => t.fab.group.beat == 500000 && (Tab.get [] (getPort t 1).queues 1).length == 1) = true := by decide +kernel
theorem test_w_heartbeat : DeliveredCtl 9 ccHeartbeat (rx (ctl 9 ccHeartbeat [])) (worker { gstate := 2 }) ∧
    DeliveredCtl 9 ccHeartbeat (rx (ctl 9 ccHeartbeat [])) withMember ∧ memberIdx withMember 9 = some 1 ∧
    Tab.find withMember.fab.group.members 1 = some { module := 9, cores := 256 } :=
  ⟨⟨by decide +kernel, rfl⟩, ⟨by decide +kernel, rfl⟩, by decide +kernel⟩
theorem test_member_silence : after (.memberSilence 1) { withMember with aon := 1500000 }
      (fun t => t.fab.group.members.map (fun x => x.2.st) == [.suspect] && t.fab.group.said == [.suspect 1]) = true ∧
    after (.memberSilence 1) { withMember with aon := 1499999 } (fun t => t.fab.group.members.map (fun x => x.2.st) == [.member]) = true := by
  decide +kernel
theorem test_masthead_silence : after .mastheadSilence { worker { gstate := 2 } with aon := 2500000 } (fun t => t.fab.group.gstate == 3) = true ∧
    after .mastheadSilence { worker { gstate := 1 } with aon := 2500000 } (fun t => t.fab.group.gstate == 3) = true := by
  decide +kernel
theorem test_remove : memberIdx withMember 9 = some 1 ∧ RingRoute withMember 9 1 ∧ after (.remove 9) withMember
    (fun t => t.fab.group.members.map (fun x => x.2.st) == [.removed] && (Tab.get [] (getPort t 1).queues 1).length == 1) = true := by decide +kernel

/-- A LAUNCH with PLACE of partition 2 from the masthead, and a started worker. -/
def launchCtl : Frame := ctl 9 ccLaunch (1 :: (List.replicate 63 0 ++ [2]))
def startedWorker : State := { worker { gstate := 2 } with fwc := { st := 3 } }
theorem test_w_launch_frame : DeliveredCtl 9 ccLaunch (rx launchCtl) startedWorker ∧ fieldAt launchCtl.payload 65 1 = 2 ∧ barePole startedWorker = false ∧
    knownLaunch startedWorker 2 0 = false ∧ argsOk { idx := 0, bytes := (launchCtl.payload.drop 1).take 64 } = true ∧
    launchMode ((launchCtl.payload.drop 1).take 64) = 0 := ⟨⟨by decide +kernel, rfl⟩, by decide +kernel⟩
theorem test_w_launch_again : DeliveredCtl 9 ccLaunch (rx (ctl 9 ccLaunch (List.replicate 64 0 ++ [2]))) (worker { gstate := 2, launches := [(2, 0, 0x10)] }) ∧
    launchId (List.replicate 64 0) = 0 := ⟨⟨by decide +kernel, rfl⟩, by decide +kernel⟩
/-- A mast whose LAUNCH 5, command 0 of ring 0 of function 1, awaits the answers of `ms`. -/
def launchOut (ms : List Nat) : State :=
  { withMember { out := [{ id := 5, fn := 1, ring := 0, idx := 0, since := 0, waiting := ms }] } with
    hif := { fns := [(1, { rings := [(0, { cmds := [{ idx := 0, bytes := [1], st := .placed }] })] })] } }
theorem test_w_launch_ack : DeliveredCtl 9 ccLaunchAck (rx (ctl 9 ccLaunchAck [5, 0, 0, 0, 0, 0, 0, 0, 0, 0])) (launchOut [9]) ∧
    DeliveredCtl 9 ccLaunchAck (rx (ctl 9 ccLaunchAck [5, 0, 0, 0, 0, 0, 0, 0, 0, 0])) (launchOut [9, 10]) ∧
    fieldAt (ctl 9 ccLaunchAck [5, 0, 0, 0, 0, 0, 0, 0, 0, 0]).payload 1 8 = 5 ∧
    (getHRing (launchOut [9]) 1 0).cmds.find? (fun c => c.idx == 0) = some { idx := 0, bytes := [1], st := .placed } :=
  ⟨⟨by decide +kernel, rfl⟩, ⟨by decide +kernel, rfl⟩, by decide +kernel⟩
theorem test_launch_report_timeout : after (.launchReportTimeout 5) { launchOut [9] with aon := 5000000 }
    (fun t => t.fab.group.out == [] && t.fab.group.said == [.silent 5 9] && (getHRing t 1 0).cmds == [] && (getHRing t 1 0).done.length == 1) = true := by decide +kernel
theorem test_w_schedule : DeliveredCtl 9 ccSchedule (rx (ctl 9 ccSchedule [1, 2])) (worker { gstate := 2 }) ∧
    DeliveredCtl 9 ccTelemetry (rx (ctl 9 ccTelemetry [1, 2])) withMember :=
  ⟨⟨by decide +kernel, rfl⟩, ⟨by decide +kernel, rfl⟩⟩
theorem test_telemetry_send : RingRoute (worker { gstate := 2 }) 9 1 ∧ after .telemetrySend { worker { gstate := 2 } with aon := 5000000 }
    (fun t => t.fab.group.telem == 5000000 && ((Tab.get [] (getPort t 1).queues 1).map fun f => f.payload.length) == [25]) = true := by decide +kernel
theorem test_domain_summary : after (.domainSummary 12 [0x56, 1]) { fab := { role := { live := 0x40007 } } }
    (fun t => t.fab.group.domain == [(0x56, (12, [0x56, 1], 0))]) = true ∧
    after (.domainSummary 12 [0x56, 2]) { aon := 49999999, fab := { role := { live := 0x40007 }, group := { domain := [(0x56, (12, [0x56, 1], 0))] } } }
      (fun t => t.fab.group.domain == [(0x56, (12, [0x56, 1], 0))]) = true := by decide +kernel
theorem test_w_epoch_refused : DeliveredCtl 8 ccBegin (rx { ctl 8 ccBegin [3, 0, 0, 0] with epoch := 9 }) (worker {}) ∧
    epochOk (worker {}) { ctl 8 ccBegin [3, 0, 0, 0] with epoch := 9 } = false := ⟨⟨by decide +kernel, rfl⟩, by decide +kernel⟩
theorem test_w_grouped : Grouped ccHeartbeat (rx (ctl 9 ccHeartbeat [])) (worker { gstate := 2 }) ∧ Grouped ccLaunch (rx launchCtl) startedWorker ∧
    frameHeld startedWorker launchCtl = false :=
  ⟨⟨⟨by decide +kernel, rfl⟩, by decide +kernel⟩, ⟨⟨by decide +kernel, rfl⟩, by decide +kernel⟩, by decide +kernel⟩

/-! ### The host interface (16) -/

/-- VF 1 with ring 63 as `r`, of partition 0 with cluster 0, region 0 and counter 0; the module is started, and the VF's session open. -/
def host (r : HRing) : State :=
  trained (setRegion
    { fwc := { st := 3, stage := 5 }, parts := [(0, { st := .setUp, clusters := 1, regions := [0], counters := [0] })]
      hif := { vfEnable := true, numVfs := 1, fns := [(1, { rings := [(63, r)] })] }, sec := { sess := [(1, { opened := true, id := 7 })] }
      wct := { ctrs := [(0, { assigned := true })] } } 0 { st := .assigned })
/-- A command of 64 bytes, waiting alone on ring 63. -/
def cmd (bytes : Nat) : HCmd := { idx := 0, bytes := leBytes 64 bytes }
def ring1 (bytes : Nat) : HRing := { st := .running, cmds := [cmd bytes] }
/-- The statuses of the records that wait for the CQ. -/
def reported (t : State) : List Nat := (getHRing t 1 63).done.map (·.status)

theorem test_poll : fnPolled (host {}) 1 ∧ ringEntries { st := .running } = 16 ∧ after (.doorbellPoll 1 63 760 true)
    (devWrite (host { st := .running }) (busAddr 0x3F0) [16]) (fun t => (getHRing t 1 63).tail == 16 && (getHRing t 1 63).interval == 1) = true := by
  decide +kernel
theorem test_poll_bad : after (.doorbellPoll 1 63 100 true) (devWrite (host { st := .running }) (busAddr 0x3F0) [17])
      (fun t => (getHRing t 1 63).st == .error && (getHRing t 1 63).cause == 1) = true ∧
    after (.doorbellPoll 1 63 100 false) (host { st := .running })
      (fun t => (getHRing t 1 63).st == .error && (getHRing t 1 63).cause == 2) = true := by decide +kernel
/-- A DRAINING ring is polled too, and a reserved byte of its record is an error. -/
theorem test_poll_reserved : after (.doorbellPoll 1 63 100 true) (devWrite (host { ring1 6 with st := .draining }) (busAddr 0x3F8) [1])
    (fun t => (getHRing t 1 63).st == .error && (getHRing t 1 63).cause == 1) = true := by decide +kernel
theorem test_fetch : toFetch { st := .running, tail := 1 } = 1 ∧ cqRoom { st := .running, tail := 1 } ∧
    after (.commandFetch 1 63 100 true) (devWrite (host { st := .running, tail := 1 }) (busAddr 0) [6])
      (fun t => (getHRing t 1 63).fetched == 1 && (getHRing t 1 63).cmds.map (fun c => (c.idx, c.bytes.take 1)) == [(0, [6])]) = true ∧
    after (.commandFetch 1 63 100 true) (devWrite (host { st := .running, tail := 1 }) (busAddr 0) [11]) (fun t => reported t == [0x40]) = true := by
  decide +kernel
theorem test_completion_record : after (.completionRecordWrite 1 63)
    (host { st := .running, cq := 0x1000, done := [{ cmdId := 5, status := 0x10, op := 2, irq := false }] })
    (fun t => (getHRing t 1 63).written == 1 && devRead t (busAddr 0x1000) 12 == [5, 0, 0, 0, 0, 0, 0, 0, 0x10, 0, 2, 63]) = true := by decide +kernel
theorem test_moderation : after (.moderationTimeout 1 63) (host { st := .running, unsig := 1 }) (fun t => (getHRing t 1 63).unsig == 0) = true := by
  decide +kernel
theorem test_ring_enable : enableCause (host {}) 1 (0x1 &&& ringMask) = 4 ∧
    after (.ringEnable 1 63 0x1) (host {}) (fun t => (getHRing t 1 63).st == .off && (getHRing t 1 63).cause == 4) = true ∧
    after (.ringEnable 1 63 0x3) (host {}) (fun t => (getHRing t 1 63).st == .running) = true ∧
    after (.ringEnable 1 63 0x3) (host { cfg := 1, st := .running }) (fun t => t.hub.ignoredWr == 1) = true := by decide +kernel
theorem test_ring_disable : after (.ringDisable 1 63) (host { cfg := 1, st := .running }) (fun t => (getHRing t 1 63).st == .off) = true ∧
    after (.ringDisable 1 63) (host { ring1 6 with cfg := 1 })
      (fun t => (getHRing t 1 63).st == .draining && (getHRing t 1 63).cmds.length == 1) = true := by decide +kernel
theorem test_evq_poll : after (.evqHeadPoll 1) (devWrite (setEvq (host {}) 1 { enable := true }) (busAddr 0xFF0) [3]) (fun t => (getEvq t 1).head == 3) =
      true ∧ after (.evqHeadPoll 1) (devWrite (host {}) (busAddr 0xFF0) [3]) (fun t => (getEvq t 1).head == 0) = true := by decide +kernel
theorem test_event_record : evqFull { enable := true, pending := [{ code := 0x610, sev := 1 }] } = false ∧
    after (.eventRecordWrite 1) (setEvq (host {}) 1 { enable := true, pending := [{ code := 0x610, sev := 1 }] })
      (fun t => (getEvq t 1).pending == [] && (getEvq t 1).written == 1) = true := by decide +kernel
theorem test_evq_moderation : after (.moderationTimeout 1 64) (setEvq (host {}) 1 { enable := true, unsig := 1 }) (fun t => (getEvq t 1).unsig == 0) =
    true := by decide +kernel

/-- COPY of 4 bytes from 0x100 to 0x200, of a tensor of 64 and 4 bytes, FILL of 5 bytes at 0x100 with 0x0807060504030201, COMPACT to format 2,
QUERY_LEDGER of the ledger at 0x100. -/
def copyCmd : Nat := 2 + 0x100 * 2 ^ 64 + 0x200 * 2 ^ 128 + 4 * 2 ^ 192
def tensorCmd : Nat := 2 + 0x100 * 2 ^ 64 + 0x200 * 2 ^ 128 + 68 * 2 ^ 192 + 2 ^ 256
def fillCmd : Nat := 3 + 0x100 * 2 ^ 64 + 5 * 2 ^ 128 + 0x0807060504030201 * 2 ^ 192
def compactCmd : Nat := 4 + 0x100 * 2 ^ 64 + 0x200 * 2 ^ 128 + 1024 * 2 ^ 192 + 2 * 2 ^ 288
def queryCmd : Nat := 7 + 0x100 * 2 ^ 64 + 0x200 * 2 ^ 128 + 66 * 2 ^ 192
/-- A valid DENSE INT8 tensor of 4 elements at 0x100. -/
def tensor (s : State) : State :=
  hbmWrite s 0x100 (leBytes 64 (0x4E4B + 2 ^ 24 + 2 ^ 32 + 4 * 2 ^ 64 + 64 * 2 ^ 256 + 4 * 2 ^ 400 + 68 * 2 ^ 448 + 2 ^ 496 + 0xA5 * 2 ^ 504) ++ [1, 0, 3, 4])
theorem test_copy_command : Ready 1 63 0 2 (cmd copyCmd) (host (ring1 copyCmd)) ∧ rangesBad (host (ring1 copyCmd)) 1 [(0x100, 4), (0x200, 4)] = none ∧
    after (.copyCommand 1 63 0 [(0x100, .uncorrectable)]) (hbmWrite (host (ring1 copyCmd)) 0x100 [1, 2, 3, 4])
      (fun t => hbmRead t 0x1FF 6 == [0, 1, 2, 3, 4, 0] && reported t == [0x30]) = true := by decide +kernel
theorem test_copy_tensor : hdrValid (hdrOf (fieldAt (devRead (tensor {}) 0x100 64) 0 64)) 0x100 ∧
    (hdrOf (fieldAt (devRead (tensor {}) 0x100 64) 0 64)).total ≤ 68 ∧ Ready 1 63 0 2 (cmd tensorCmd) (tensor (host (ring1 tensorCmd))) ∧
    after (.copyCommand 1 63 0 []) (tensor (host (ring1 tensorCmd)))
      (fun t => hbmRead t 0x23F 5 == [0xA5, 1, 0, 3, 4] && reported t == [0]) = true := by decide +kernel
theorem test_fill_command : Ready 1 63 0 3 (cmd fillCmd) (host (ring1 fillCmd)) ∧
    after (.fillCommand 1 63 0 []) (host (ring1 fillCmd)) (fun t => hbmRead t 0xFF 7 == [0, 1, 2, 3, 4, 5, 0] && reported t == [0]) = true := by
  decide +kernel
/-- The host's state before any stack is trained. -/
def untrained (s : State) : State := { s with hbm := { s.hbm with stk := [] } }
theorem test_fill_waits : rangesHeld (untrained (host (ring1 fillCmd))) 1 [(0x100, 5)] ∧
    after (.fillCommand 1 63 0 []) (untrained (host (ring1 fillCmd))) (fun t => t == untrained (host (ring1 fillCmd))) = true := by decide +kernel
theorem test_fill_refused : (rangesBad (host (ring1 (fillCmd + 2 ^ 94))) 1 [(0x40000100, 5)]).isSome ∧
    after (.fillCommand 1 63 0 []) (host (ring1 (fillCmd + 2 ^ 94))) (fun t => t.hbm.bytes == [] && (reported t).length == 1) = true := by decide +kernel
theorem test_compact_command : compactRefusal (compactDesc (cmd compactCmd)) = none ∧ Ready 1 63 0 4 (cmd compactCmd) (tensor (host (ring1 compactCmd))) ∧
    (compactImage (compactDesc (cmd compactCmd)) (hdrOf (fieldAt (devRead (tensor {}) 0x100 64) 0 64)) (devReader (tensor {})) 0x100).total ≤ 1024 ∧
    after (.compact 1 63 0 []) (tensor (host (ring1 compactCmd)))
      (fun t => hbmRead t 0x202 1 == [2] && hbmRead t 0x23F 1 == [0xA5] && reported t == [0]) = true := by decide +kernel
theorem test_query_ledger : Ready 1 63 0 7 (cmd queryCmd) (hbmWrite (host (ring1 queryCmd)) 0x108 [1]) ∧
    ledgerSegments (hbmWrite (host (ring1 queryCmd)) 0x108 [1]) 0x100 = 1 ∧
    after (.queryLedger 1 63 0 []) (hbmWrite (hbmWrite (host (ring1 queryCmd)) 0x108 [1]) 0x140 [3, 1, 9])
      (fun t => hbmRead t 0x208 1 == [1] && hbmRead t 0x240 3 == [3, 1, 0] && reported t == [0]) = true := by decide +kernel

theorem test_fence_command : Ready 1 63 0 5 (cmd 5) (host (ring1 5)) ∧ fencePending (host (ring1 5)) 1 63 (cmd 5) = false ∧
    after (.fenceCommand 1 63 0) (host (ring1 5)) (fun t => reported t == [0] && (getHRing t 1 63).cmds == []) = true := by decide +kernel
/-- A FENCE behind a record of the same ring that is not written yet. -/
def fenced : State := host { st := .running, cmds := [{ cmd 5 with serial := 1 }], done := [{ cmdId := 9, status := 0, op := 2, irq := false }] }
theorem test_fence_waits : fencePending fenced 1 63 { cmd 5 with serial := 1 } ∧ Ready 1 63 0 5 { cmd 5 with serial := 1 } fenced ∧
    after (.fenceCommand 1 63 0) fenced (fun t => (getHRing t 1 63).cmds.map (·.st) == [.started] && (reported t).length == 1) = true := by decide +kernel
/-- A job of launch 9 of partition 0. -/
def job (cs : List (Nat × Nat)) : Job := { launch := 9, part := 0, origin := .command 1 63 4, ctxs := cs }
def withJob (s : State) (j : Job) : State := { s with hif := { s.hif with jobs := [j] } }
theorem test_cancel_command : Ready 1 63 0 6 (cmd (6 + 9 * 2 ^ 64)) (host (ring1 (6 + 9 * 2 ^ 64))) ∧
    after (.cancel 1 63 0) (host (ring1 (6 + 9 * 2 ^ 64))) (fun t => reported t == [0]) = true ∧
    after (.cancel 1 63 0) (withJob (host (ring1 (6 + 9 * 2 ^ 64))) (job [(0, 0)]))
      (fun t => t.hif.nextTag == 2 && t.hif.jobs.all (fun j => j.cancel.isSome)) = true := by decide +kernel
/-- The PF's ring 3 with a command, on a started module. -/
def pf (bytes : Nat) : State := trained { fwc := { st := 3, stage := 5 }, hif := { fns := [(0, { rings := [(3, ring1 bytes)] })] } }
theorem test_scrub_command : Ready 0 3 0 8 (cmd (8 + 767 * 2 ^ 64 + 2 ^ 80)) (setRegion (pf (8 + 767 * 2 ^ 64 + 2 ^ 80)) 767 { st := .free }) ∧
    after (.scrub 0 3 0) (setRegion (pf (8 + 767 * 2 ^ 64 + 2 ^ 80)) 767 { st := .free })
      (fun t => (getRegion t 767).st == .scrubbing && (getHRing t 0 3).cmds.map (·.st) == [.scrubbing [767] 0]) = true := by decide +kernel
/-- SELFTEST of KIND 0 with its record in host memory. -/
def selftestCmd : Nat := 9 + busAddr 0x100 * 2 ^ 128 + 1024 * 2 ^ 192
theorem test_selftest : Ready 0 3 0 9 (cmd selftestCmd) (pf selftestCmd) ∧ 32 + 16 * (testUnits (pf selftestCmd) 0).length ≤ 1024 ∧
    after (.selftest 0 3 0 []) (pf selftestCmd) (fun t => t.hif.selftest.map (·.units) == some (testUnits (pf selftestCmd) 0)) = true ∧
    after (.selftest 0 3 0 []) (next (.selftest 0 3 0 []) (pf selftestCmd))
      (fun t => t.hif.selftest == none && ((getHRing t 0 3).done.map (·.status)) == [0]) = true := by decide +kernel

/-- LAUNCH of id 9: PLACE of the image at 0x100, POST to core 0, RECOVER with table 0x400, ledger 0x600 and retry table 0x800. -/
def placeCmd : Nat := 1 + 9 * 2 ^ 64 + 0x100 * 2 ^ 192
def postCmd : Nat := 1 + 9 * 2 ^ 64 + 2 ^ 128 + 0xFFFFFFFFFFFF0000 * 2 ^ 192
def recoverCmd : Nat := 1 + 9 * 2 ^ 64 + 2 * 2 ^ 128 + 2 ^ 160 + 2 ^ 168 + 0x100 * 2 ^ 192 + 0x400 * 2 ^ 256 + 0x600 * 2 ^ 320 + 0x800 * 2 ^ 384
/-- A job image at 0x100 of one context, 3 of core 0, without code: entry 8, base 64, bound 128. -/
def image (s : State) : State :=
  hbmWrite (hbmWrite s 0x100 (leBytes 64 (0x4A494B4E + 2 ^ 32 + 2 ^ 64 + 0xA5 * 2 ^ 504))) 0x140 (leBytes 16 (3 * 2 ^ 16 + 3 * 2 ^ 24 + 8 * 2 ^ 32 + 64 * 2 ^ 64 + 128 * 2 ^ 96))
theorem test_duplicate_launch : Ready 1 63 0 1 (cmd placeCmd) (host (ring1 placeCmd)) ∧ launchMode (cmd placeCmd).bytes = 0 ∧
    knownLaunch (keepLaunch (host (ring1 placeCmd)) 0 9) 0 9 = true ∧
    after (.launchPlace 1 63 0 []) (keepLaunch (image (host (ring1 placeCmd))) 0 9) (fun t => reported t == [0x46] && t.hif.jobs == []) = true := by
  decide +kernel
theorem test_launch_place : (imgList (image (host (ring1 placeCmd))) 0x100).map (fun e => (e.core, e.ctx)) = [(0, 3)] ∧
    imgBad (image (host (ring1 placeCmd))) 1 0 0x100 = none ∧ imgBusy (image (host (ring1 placeCmd))) 0x100 = false ∧
    after (.launchPlace 1 63 0 []) (image (host (ring1 placeCmd)))
      (fun t => t.hif.jobs.map (·.ctxs) == [[(0, 3)]] && (ctxAt t 0 3).st == .running && (ctxAt t 0 3).pc == 8 && knownLaunch t 0 9) = true := by
  decide +kernel
theorem test_launch_place_bad : imgBad (host (ring1 placeCmd)) 1 0 0x100 = some 6 ∧
    after (.launchPlace 1 63 0 []) (host (ring1 placeCmd)) (fun t => reported t == [6] && t.hif.jobs == []) = true := by decide +kernel
theorem test_launch_post : Ready 1 63 0 1 (cmd postCmd) (host (ring1 postCmd)) ∧ postBad (host (ring1 postCmd)) 0 (cmd postCmd).bytes = none ∧
    postCores (cmd postCmd).bytes = [0] ∧ ringClass (ring1 postCmd) ≠ 0 ∧
    after (.launchPost 1 63 0) (host (ring1 postCmd))
      (fun t => t.hub.sends.map (fun e => (e.dst, e.st)) == [(0, .sent)] && (getHRing t 1 63).cmds.map (·.st) == [.posting [0]]) = true := by
  decide +kernel
theorem test_launch_post_bad : (postBad (host (ring1 (postCmd + 4 * 2 ^ 192))) 0 (cmd (postCmd + 4 * 2 ^ 192)).bytes).isSome ∧
    after (.launchPost 1 63 0) (host (ring1 (postCmd + 4 * 2 ^ 192))) (fun t => (reported t).length == 1 && t.hub.sends == []) = true := by decide +kernel
/-- A segment table without entries at 0x400, and a ledger of counter 0 without segments at 0x600. -/
def recoverable (s : State) : State := hbmWrite (image s) 0x400 (leBytes 64 (0x53544B4E + 2 ^ 32 + 2 ^ 128 + 0xA5 * 2 ^ 504))
theorem test_launch_recover : Ready 1 63 0 1 (cmd recoverCmd) (recoverable (host (ring1 recoverCmd))) ∧
    recoverBad (recoverable (host (ring1 recoverCmd))) 1 0 (cmd recoverCmd).bytes = none ∧
    ownersIdle (recoverFreeze (keepLaunch (markCmd (recoverable (host (ring1 recoverCmd))) 1 63 0 .started) 0 9) [] (cmd recoverCmd).bytes).2 []
      (cmd recoverCmd).bytes = true ∧
    after (.launchRecover 1 63 0 []) (recoverable (host (ring1 recoverCmd)))
      (fun t => t.hif.jobs.length == 1 && (ctxAt t 0 3).st == .running && (getCtr t 0).st == .running) = true := by decide +kernel
theorem test_launch_recover_bad : recoverBad (host (ring1 recoverCmd)) 1 0 (cmd recoverCmd).bytes = some 0x44 ∧
    after (.launchRecover 1 63 0 []) (host (ring1 recoverCmd)) (fun t => reported t == [0x44] && t.hif.jobs == []) = true := by decide +kernel
/-- The job of command 0 of ring 63, whose context 3 of core 0 has ended with ECALL. -/
def ended (st : CtxSt) : State :=
  { withJob (host { st := .running, cmds := [{ cmd placeCmd with st := .placed }] }) { job [(0, 3)] with origin := .command 1 63 0 } with
    cores := [(0, { ctxs := [(3, { st := st, cause := 8 })] })] }
theorem test_job_end : ctxOver (ended .halted) (0, 3) ∧ jobFaults (ended .halted) { job [(0, 3)] with origin := .command 1 63 0 } = 0 ∧
    after (.jobEnd 0 9) (ended .halted) (fun t => reported t == [0] && t.hif.jobs == []) = true ∧
    after (.jobEnd 0 9) (ended .faulted) (fun t => reported t == [0x47] && t.hif.jobs == []) = true := by decide +kernel
theorem test_w_data_ready : DataReady 1 63 0 3 (cmd fillCmd) [(0x100, 5)] (host (ring1 fillCmd)) ∧
    DataReady 1 63 0 2 (cmd copyCmd) [(0x100, 4), (0x200, 4)] (host (ring1 copyCmd)) := by decide +kernel
def c0Ring : HRing := { ring1 fillCmd with cfg := 1 }
/-- A FILL on a C0 ring takes the token of the ring engine, or waits for it. -/
theorem test_fill_paced : engineNeed (host (ring1 fillCmd)) 1 63 [(0x100, 5)] = 0 ∧
    engineNeed (host c0Ring) 1 63 [(0x100, 5)] = 1 ∧
    after (.fillCommand 1 63 0 []) (host c0Ring) (fun t => reported t == [0] && !Tab.get true t.hub.pacer 0) = true ∧
    after (.fillCommand 1 63 0 []) { host c0Ring with hub := { pacer := [(0, false)] } }
      (fun t => reported t == [] && t.hbm.bytes == []) = true := by decide +kernel

/-! ### Smitum: the firmware's messages (18, 19, 20, 22) -/

/-- A request of type `ty` with the payload `p`. -/
def message (ty : Nat) (p : List Byte) : List Byte :=
  leBytes 4 0x4D544D53 ++ leBytes 4 1 ++ leBytes 2 ty ++ leBytes 6 0 ++ leBytes 4 p.length ++ List.replicate 44 0 ++ p
/-- The PF's mailbox holds the request alone; the PF has session 7, and the firmware serves. -/
def asks (ty : Nat) (p : List Byte) (st : BitVec 3 := 3) : State :=
  { fwc := { st := st, stage := 5, busy := true, requests := [{ ch := .pfMailbox, msg := message ty p }] }
    sec := { sess := [(0, { opened := true, id := 7 })] } }
def pfBox : Via := .waiting .pfMailbox
def req (ty : Nat) (p : List Byte) : Req := { via := pfBox, key := 0, msg := message ty p, session := 7 }
/-- Nothing refuses the request. -/
def asked_ (ty : Nat) (p : List Byte) (s : State) : Prop := Asks pfBox ty (req ty p) s
/-- `Asks` as a check. -/
def asksB (via : Via) (ty : Nat) (r : Req) (s : State) : Bool :=
  serving s && (!procWaits s 0 && (r.via == via && (msgType r.msg == ty && (refusal s r == none &&
    match via with
    | .waiting ch => s.fwc.requests == [{ ch := ch, msg := r.msg }] && (!answerHeld s ch && (r.key == chanKey ch && r.session == openId s (chanKey ch)))
    | .mgmtPlain m => !mgmtBusy s && (r.msg == m && (r.key == 17 && r.session == 0))
    | .mgmtSealed x q b m => !mgmtBusy s && (envelopeOk s x q b m && (r.msg == m && (r.key == 17 && r.session == x)))))))
theorem asks_iff (via : Via) (ty : Nat) (r : Req) (s : State) : Asks via ty r s ↔ asksB via ty r s = true := by
  cases via <;> simp [Asks, asksB]
/-- STATUS of the response in the PF's buffer. -/
def status (t : State) : Nat := leNum (memReadN 0 t.fwc.rsp 20 2)

theorem test_mbox_go : serving { fwc := { st := 3, stage := 5, req := memWriteN 0 [] 0 (message 0x30 []) }, sec := (asks 0 []).sec } ∧
    refusal { fwc := { st := 3, stage := 5 }, sec := (asks 0 []).sec } { via := pfBox, key := 0, msg := message 0x30 [], session := 7 } = none ∧
    (memReadN 0 (memWriteN 0 [] 0 (message 0x30 [])) 0 4096).take 64 = message 0x30 [] ∧
    after (.mboxGo 5) { fwc := { st := 3, stage := 5, req := memWriteN 0 [] 0 (message 0x30 []) }, sec := (asks 0 []).sec }
      (fun t => t.fwc.busy && t.fwc.mboxVector == 5 && t.fwc.requests.map (·.msg) == [message 0x30 []]) = true := by decide +kernel
theorem test_mbox_busy : after (.mboxGo 6) (asks 1 []) (fun t => t.fwc.ignored == 1 && t.fwc.mboxVector == 6 && t.fwc.requests.length == 1) = true := by
  decide +kernel
/-- MAILBOX with the request at 0x100 and 4096 bytes of response at 0x1000 of host memory. -/
def mailboxCmd : Nat := 10 + busAddr 0x100 * 2 ^ 64 + 64 * 2 ^ 128 + 4096 * 2 ^ 160 + busAddr 0x1000 * 2 ^ 192
def ringAsks : State :=
  { devWrite (host { st := .running, cmds := [{ cmd mailboxCmd with st := .started }] }) (busAddr 0x100) (message 1 []) with
    fwc := { st := 3, stage := 5, requests := [{ ch := .ring 1 63, msg := message 1 [] }] } }
theorem test_mailbox : Ready 1 63 0 10 (cmd mailboxCmd) (devWrite (host (ring1 mailboxCmd)) (busAddr 0x100) (message 1 [])) ∧
    chanBusy (host (ring1 mailboxCmd)) (.ring 1 63) = false ∧ rangesBad (host (ring1 mailboxCmd)) 1 (mailboxRanges (cmd mailboxCmd)) = none ∧
    rangesHeld (host (ring1 mailboxCmd)) 1 (mailboxRanges (cmd mailboxCmd)) = false ∧
    refusal (host (ring1 mailboxCmd)) { via := .waiting (.ring 1 63), key := 1, msg := message 1 [], session := 7 } = none ∧
    after (.mailbox 1 63 0) (devWrite (host (ring1 mailboxCmd)) (busAddr 0x100) (message 1 []))
      (fun t => t.fwc.requests == [{ ch := .ring 1 63, msg := message 1 [] }] && (getHRing t 1 63).cmds.map (·.st) == [.started]) = true := by
  decide +kernel
theorem test_hello : asked_ 1 [] (asks 1 []) ∧ after (.hello pfBox) (asks 1 [])
    (fun t => status t == 0 && !t.fwc.busy && t.fwc.done && memReadN 0 t.fwc.rsp 8 2 == [1, 0]) = true := by simp only [asked_, asks_iff]; decide +kernel
theorem test_hello_of_ring : after (.hello (.waiting (.ring 1 63))) ringAsks
    (fun t => reported t == [0] && devRead t (busAddr 0x1000) 4 == [0x53, 0x4D, 0x54, 0x4D] && t.fwc.requests == []) = true := by decide +kernel
theorem test_hello_mgmt : Asks (.mgmtPlain (message 1 [])) 1 { via := .mgmtPlain (message 1 []), key := 17, msg := message 1 [], session := 0 }
      { fwc := { st := 3, stage := 5 } } ∧
    after (.hello (.mgmtPlain (message 1 []))) { fwc := { st := 3, stage := 5 } } (fun t => t.sec.mgmtOut.length == 1) = true := by
  simp only [asks_iff]; decide +kernel
/-- The envelope of a message of type `ty` in session 8 of the management port, with SEQ 4. -/
def mgmtReq (ty : Nat) (p : List Byte) : Via := .mgmtSealed 8 4 (sealWith (mgmtKey [] "MGMT-RQ") 8 4 (message ty p)) (message ty p)
def mgmtAsked (ty : Nat) (p : List Byte) : Req := { via := mgmtReq ty p, key := 17, msg := message ty p, session := 8 }
/-- Session 8 is open on the management port; its last SEQ was 3. -/
def mgmtState (pw : Pwr) : State := { fwc := { st := 3, stage := 5 }, sec := { sess := [(17, { opened := true, id := 8, seq := some 3 })] }, pwr := pw }
theorem asks_sealed (ty : Nat) (p : List Byte) (pw : Pwr)
    (h : (msgType (message ty p) == ty && refusal (mgmtState pw) (mgmtAsked ty p) == none) = true) : Asks (mgmtReq ty p) ty (mgmtAsked ty p) (mgmtState pw) := by
  rw [Bool.and_eq_true, beq_iff_eq, beq_iff_eq] at h
  refine ⟨rfl, rfl, rfl, h.1, h.2, rfl, ?_, rfl, rfl, rfl⟩
  simp [mgmtState, envelopeOk, getSess, Tab.get]
theorem test_sealed : Asks (mgmtReq 1 []) 1 (mgmtAsked 1 []) (mgmtState {}) := asks_sealed 1 [] {} (by decide +kernel)

theorem test_start : asked_ 2 [] (asks 2 [] 2) ∧ after (.start pfBox) (asks 2 [] 2) (fun t => t.fwc.st == 3 && status t == 0) = true ∧
    asked_ 2 [] (asks 2 [] 1) ∧ after (.start pfBox) (asks 2 [] 1) (fun t => t.fwc.st == 1 && status t == 0x43) = true := by
  simp only [asked_, asks_iff]; decide +kernel
theorem test_log_read : asked_ 0x10 (leBytes 28 (5 * 2 ^ 64)) (asks 0x10 (leBytes 28 (5 * 2 ^ 64))) ∧
    after (.logRead pfBox false) { asks 0x10 (leBytes 28 (5 * 2 ^ 64)) with
        log := { ring := [(0, { seq := 0, time := 0, source := 0, sev := 1, code := 0x400 })], next := 1 } }
      (fun t => status t == 0 && memReadN 0 t.fwc.rsp 72 4 == [1, 0, 0, 0]) = true := by simp only [asked_, asks_iff]; decide +kernel
theorem test_trace_set : asked_ 0x11 (leBytes 8 0x81) (asks 0x11 (leBytes 8 0x81)) ∧
    after (.traceSet pfBox) (asks 0x11 (leBytes 8 0x81)) (fun t => t.log.traceEn == 0x81 && status t == 0) = true := by
  simp only [asked_, asks_iff]; decide +kernel
/-- An enabled trace point leaves a record, and one that is not enabled none (R547): point 17 is CAP_CHANGE. -/
theorem test_trace_point : after (.powerSetCap pfBox) { asks 0x31 (leBytes 2 9) with log := { traceEn := 0x20000 } }
      (fun t => (logQueue t 1).map (fun r => (r.sev, r.code)) == [(0, 0x111)] && t.log.next == 1) = true ∧
    after (.powerSetCap pfBox) (asks 0x31 (leBytes 2 9)) (fun t => (logQueue t 1).isEmpty && t.log.next == 0) = true := by decide +kernel
/-- FW_STAGE with BEGIN of 256 bytes of the payload at offset 0. -/
def stagePayload : List Byte := leBytes 32 (256 * 2 ^ 96 + 2 ^ 128) ++ List.replicate 256 7
theorem test_fw_stage : asked_ 0x20 stagePayload (asks 0x20 stagePayload) ∧ (req 0x20 stagePayload).at 12 4 = 256 ∧
    after (.fwStage pfBox false) (asks 0x20 stagePayload)
      (fun t => status t == 0 && t.fwc.owner == some 7 && t.fwc.staged == 256 && memReadN 0xFF (slotMem t 1) 255 2 == [7, 0xFF]) = true := by
  simp only [asked_, asks_iff]; decide +kernel
theorem test_stage_fails : after (.fwStage pfBox true) (asks 0x20 stagePayload)
      (fun t => status t == 0x55 && t.fwc.owner == some 7 && t.fwc.staged == 0 && activeSlot t == 0) = true := by decide +kernel
/-- A staging of session `id`. -/
def staging (s : State) (id : Nat) : State := { s with fwc := { s.fwc with owner := some id, staging := true, update := 1 } }
theorem test_w_fw_commit : asked_ 0x21 [] (staging (asks 0x21 []) 7) ∧ LogRoom (staging (asks 0x21 []) 7) := by simp only [asked_, asks_iff]; decide +kernel
theorem test_fw_abort : asked_ 0x23 [] (staging (asks 0x23 []) 7) ∧
    after (.fwAbort pfBox) (staging (asks 0x23 []) 7) (fun t => status t == 0 && t.fwc.owner == none && t.fwc.update == 2) = true ∧
    after (.fwAbort pfBox) (staging (asks 0x23 []) 6) (fun t => status t == 0x43 && t.fwc.owner == some 6) = true := by simp only [asked_, asks_iff]; decide +kernel
theorem test_w_fw_status : asked_ 0x24 [] (asks 0x24 []) := by simp only [asked_, asks_iff]; decide +kernel
theorem test_log_record : after (.logRecordWrite 3)
    { fwc := { stage := 2 }, log := { queues := [(3, [{ seq := 16385, time := 0, source := 3, sev := 1, code := 0x100 }])], next := 16386 } }
    (fun t => logQueue t 3 == [] && (Tab.find t.log.ring 1).map (·.seq) == some 16385) = true := by decide +kernel
theorem test_svn_raise : asked_ 0x25 [] { asks 0x25 [] with fwc := { (asks 0x25 []).fwc with running := { svn := 4 }, minSvn := 3 } } ∧
    after (.svnRaise pfBox) { asks 0x25 [] with fwc := { (asks 0x25 []).fwc with running := { svn := 4 }, minSvn := 3 } }
      (fun t => t.fwc.minSvn == 4 && status t == 0) = true ∧
    after (.svnRaise pfBox) { asks 0x25 [] with fwc := { (asks 0x25 []).fwc with running := { svn := 4 }, minSvn := 9 } }
      (fun t => t.fwc.minSvn == 9) = true ∧
    after (.svnRaise pfBox) (staging (asks 0x25 []) 7) (fun t => status t == 0x43 && t.fwc.minSvn == 0) = true := by simp only [asked_, asks_iff]; decide +kernel

/-- A committed image in the other slot, not yet running. -/
def committed (s : State) (u : BitVec 4) : State := { s with fwc := { s.fwc with update := u, flash := { boot := { copy1 := some (1, 1) } } } }
theorem test_fw_activate : asked_ 0x22 (leBytes 4 86400) (committed (asks 0x22 (leBytes 4 86400)) 2) ∧
    after (.fwActivate pfBox) (committed (asks 0x22 (leBytes 4 86400)) 2)
      (fun t => t.fwc.update == 3 && t.fwc.deadline == 4320000000000 && t.fwc.act.isSome) = true := by simp only [asked_, asks_iff]; decide +kernel
/-- A module in calm 600 s after reset. -/
def quiet (u : BitVec 4) (n : Nat) : State :=
  committed { aon := 30000000000, fwc := { st := 3, stage := 5, swaps := n, deadline := 60000000000 },
              sec := { sess := [(17, { opened := true, id := 8 })] } } u
theorem test_w_activation_start : calm (quiet 3 0) ∧ LogRoom (quiet 3 0) ∧ (quiet 3 0).aon < (quiet 3 0).fwc.deadline := by decide +kernel
theorem test_activation_expired : after .activationExpired { quiet 3 0 with aon := 60000000000 } (fun t => t.fwc.update == 2) = true := by decide +kernel
theorem test_component_swap : after .componentSwap (quiet 4 0) (fun t => t.fwc.swaps == 1 && t.fwc.update == 4) = true ∧
    after .componentSwap (quiet 4 15) (fun t => t.fwc.swaps == 16) = true ∧
    after .componentSwap (quiet 4 18) (fun t => t.fwc.update == 0 && t.fwc.running.slot == 1) = true ∧
    calm { quiet 4 18 with aon := 0 } = false ∧ after .componentSwap { quiet 4 18 with aon := 0 } (fun t => t.fwc.update == 5) = true := by decide +kernel
theorem test_pmc_swap : calm (quiet 5 18) ∧ after .pmcSwap (quiet 5 18) (fun t => t.fwc.update == 0 && t.fwc.running.slot == 1) = true := by
  decide +kernel
theorem test_pldm_update : pldmServed (quiet 0 0) ∧ after (.pldmUpdateComponent 0 true [1, 2] false) (quiet 0 0)
    (fun t => t.fwc.update == 1 && t.fwc.staged == 2 && t.sec.mgmtOut.length == 1) = true := by decide +kernel
theorem test_w_pldm_verify : pldmServed (staging (quiet 1 0) (openId (quiet 1 0) 17)) ∧ LogRoom (staging (quiet 1 0) 0) := by decide +kernel
theorem test_pldm_activate : pldmServed (quiet 2 0) ∧ after .pldmActivateFirmware (quiet 2 0)
    (fun t => t.fwc.update == 3 && t.fwc.deadline == 60000000000) = true := by decide +kernel

/-- A flash whose credential store is as given. -/
def creds (l : Tab Cred) : Flash := { creds := { copy0 := some (0, l) } }
/-- SESSION_BEGIN of kind 1 for VF 1; its partition and password exist. -/
def beginPayload : List Byte := leBytes 4 0x101 ++ List.replicate 3168 0
def beginState : State :=
  { asks 0x40 beginPayload with parts := [(0, { st := .setUp })], fwc := { (asks 0x40 beginPayload).fwc with flash := creds [(1, { kind := 1, log2Iter := 10 })] } }
theorem test_w_session_begin : asked_ 0x40 beginPayload beginState ∧ targetKey ((req 0x40 beginPayload).at 0 1) = some 1 ∧
    beginRefusal beginState 1 ((req 0x40 beginPayload).at 1 1) = none ∧ (req 0x40 beginPayload).at 2 2 = 0 := by simp only [asked_, asks_iff]; decide +kernel
theorem test_session_begin_refused : beginRefusal (asks 0x40 beginPayload) 1 1 = some 0x41 ∧
    after (.sessionBegin pfBox) (asks 0x40 beginPayload) (fun t => status t == 0x41 && t.sec.handshakes.isEmpty) = true := by decide +kernel
/-- A pending handshake of VF 1, whose credential has changed its kind since. -/
def hand : Handshake := { handle := 1, target := 1, kind := 1, start := 0, transcript := [], secret := [] }
def handed (s : State) : State :=
  { s with sec := { s.sec with handshakes := [hand] }, fwc := { s.fwc with flash := creds [(1, { kind := 2 })] } }
/-- SESSION_PROVE of handle 1 with one byte: fragment 0, last or not. -/
def provePayload (last : Nat) : List Byte := leBytes 8 (1 + last * 2 ^ 40 + 2 ^ 48) ++ [9]
theorem test_session_prove_part : asked_ 0x41 (provePayload 0) (handed (asks 0x41 (provePayload 0))) ∧
    after (.sessionProve pfBox) (handed (asks 0x41 (provePayload 0)))
      (fun t => status t == 0 && t.sec.handshakes.map (fun h => (h.proof, h.frags)) == [([9], 1)]) = true := by simp only [asked_, asks_iff]; decide +kernel
theorem test_session_prove_last : asked_ 0x41 (provePayload 1) (handed (asks 0x41 (provePayload 1))) ∧ LogRoom (handed (asks 0x41 (provePayload 1))) ∧
    (credOf (handed (asks 0x41 (provePayload 1))) 1).flags.getLsbD 0 = false ∧
    after (.sessionProve pfBox) (handed (asks 0x41 (provePayload 1)))
      (fun t => status t == 0x41 && t.sec.handshakes.isEmpty && (getSess t 1).fails == 1) = true := by simp only [asked_, asks_iff]; decide +kernel
theorem test_session_end : asked_ 0x42 [] (asks 0x42 []) ∧
    after (.sessionEnd pfBox) (asks 0x42 []) (fun t => !(getSess t 0).opened) = true := by simp only [asked_, asks_iff]; decide +kernel
theorem test_handshake_expiry : after (.handshakeExpiry 1) { handed {} with aon := 500000000 } (fun t => t.sec.handshakes.isEmpty) = true := by
  decide +kernel
theorem test_lockout_expiry : targetKey 0x20 = some 17 ∧ isLocked { aon := 5, sec := { sess := [(17, { locked := some 5 })] } } 17 = false ∧
    after (.lockoutExpiry 0x20) { aon := 5, sec := { sess := [(17, { locked := some 5 })] } } (fun t => (getSess t 17).locked == none) = true := by
  decide +kernel
theorem test_mgmt_idle : after .mgmtSessionIdle { aon := 90000000000, sec := { sess := [(17, { opened := true })] } }
    (fun t => !(getSess t 17).opened) = true := by decide +kernel
/-- CRED_SET of a password of slot 16. -/
def credPayload (slot : Nat) : List Byte := leBytes 8 (slot + 2 ^ 8 + 10 * 2 ^ 24) ++ List.replicate 96 5
theorem test_cred_set : asked_ 0x43 (credPayload 16) (asks 0x43 (credPayload 16)) ∧
    after (.credSet pfBox false) (asks 0x43 (credPayload 16)) (fun t => status t == 0 && (Tab.find (credTable t) 16).map (·.log2Iter) == some 10) = true ∧
    asked_ 0x43 (credPayload 17) (asks 0x43 (credPayload 17)) ∧
    after (.credSet pfBox false) (asks 0x43 (credPayload 17)) (fun t => status t == 0x41 && (credTable t).isEmpty) = true := by simp only [asked_, asks_iff]; decide +kernel

theorem test_cred_fails : after (.credSet pfBox true) (asks 0x43 (credPayload 16))
    (fun t => status t == 0x55 && (credTable t).isEmpty && t.log.next == 1) = true := by decide +kernel
/-- A write goes to the copy that is not in use, with COUNT one larger (R532). -/
theorem test_two_copies : itemWrite { copy0 := some (4, 7), copy1 := some (5, 8) } 9 = ({ copy0 := some (6, 9), copy1 := some (5, 8) } : TwoCopy Nat) ∧
    itemBody { copy0 := some (4, 7), copy1 := some (5, 8) } 0 = 8 ∧ itemBody { copy0 := some (4, 7), copy1 := none } 0 = 7 := by decide +kernel

/-- PART_SETUP of partition 15 with cluster 15, region 767 and counter 255. -/
def setupPayload : List Byte := leBytes 48 (15 + 0x8000 * 2 ^ 16 + 2 ^ 48 + 0xFFFFFFFFFFFFFFFF * 2 ^ 64 + 2 ^ 383) ++ leBytes 2 767
def setupState : State := setRegion (asks 0x44 setupPayload) 767 { st := .free }
theorem test_part_setup : asked_ 0x44 setupPayload setupState ∧ setupFieldsOk (req 0x44 setupPayload) (setupArgs (req 0x44 setupPayload)) ∧
    setupBusy setupState (setupArgs (req 0x44 setupPayload)) = false ∧
    after (.partSetup pfBox) setupState (fun t => status t == 0 && (getPart t 15).clusters == 0x8000 && (getRegion t 767).st == .assigned &&
      (getRegion t 767).part == 15 && (getCtr t 255).assigned) = true := by simp only [asked_, asks_iff]; decide +kernel
theorem test_part_setup_refused : setupBusy (asks 0x44 setupPayload) (setupArgs (req 0x44 setupPayload)) = true ∧
    after (.partSetup pfBox) (asks 0x44 setupPayload) (fun t => status t == 0x43 && t.parts == []) = true ∧
    after (.partSetup pfBox) { setupState with sec := { setupState.sec with debug := true } } (fun t => status t == 0x41 && t.parts == []) = true := by
  decide +kernel
theorem test_part_teardown : asked_ 0x45 [15] { asks 0x45 [15] with parts := [(15, { st := .setUp, counters := [255] })] } ∧
    after (.partTeardown pfBox) { asks 0x45 [15] with parts := [(15, { st := .setUp, counters := [255] })], wct := { ctrs := [(255, { assigned := true })] } }
      (fun t => status t == 0 && getPart t 15 == {} && !(getCtr t 255).assigned) = true := by simp only [asked_, asks_iff]; decide +kernel
/-- A context of cluster 15 still runs: the teardown waits and the partition's peers are gone. -/
def lively : State := setCore { asks 0x45 [15] with parts := [(15, { st := .setUp, clusters := 0x8000, peers := [(7, 15)] })] } 255
  (putCtx {} 0 { st := .running })
theorem test_teardown_waits : asked_ 0x45 [15] lively ∧ teardownClear (teardownStart (asked pfBox lively) 15) 15 = false ∧
    after (.partTeardown pfBox) lively (fun t => (getPart t 15).st == .teardown 2 && (getPart t 15).peers == []) = true := by
  simp only [asked_, asks_iff]; decide +kernel
theorem test_part_peers : asked_ 0x46 (leBytes 8 (15 + 2 ^ 16 + 0xF7FFF * 2 ^ 32)) { asks 0x46 (leBytes 8 (15 + 2 ^ 16 + 0xF7FFF * 2 ^ 32)) with
      parts := [(15, { st := .setUp })] } ∧
    after (.partPeers pfBox) { asks 0x46 (leBytes 8 (15 + 2 ^ 16 + 0xF7FFF * 2 ^ 32)) with parts := [(15, { st := .setUp })] }
      (fun t => (getPart t 15).peers == [(0x7FFF, 15)]) = true := by simp only [asked_, asks_iff]; decide +kernel
theorem test_debug_set : asked_ 0x47 [0] (asks 0x47 [0]) ∧ after (.debugSet pfBox) (asks 0x47 [0]) (fun t => !t.sec.debug && status t == 0) = true ∧
    asked_ 0x47 [1] (asks 0x47 [1]) ∧ (∀ n, n < 16 → partLive (getPart (asks 0x47 [1]) n) = false) := by simp only [asked_, asks_iff]; decide +kernel
theorem test_key_set : ideSecret (handed {}) 1 = some hand.secret ∧ ideSecret (asks 1 []) 0 = some [] ∧
    after (.keySetGo 1) (handed {}) (fun t => (Tab.find t.sec.ide 1).isSome) = true ∧
    after (.keySetGo 0) (asks 1 []) (fun t => (Tab.find t.sec.ide 0).isSome) = true ∧
    after (.keySetStop 16) { sec := { ide := [(16, [([1], [2])])] } } (fun t => t.sec.ide == []) = true := by decide +kernel

theorem test_power_get : asked_ 0x30 [] (asks 0x30 []) ∧ after (.powerGet pfBox) (asks 0x30 []) (fun t => status t == 0) = true := by
  simp only [asked_, asks_iff]; decide +kernel
theorem test_power_set_cap : asked_ 0x31 (leBytes 2 5000) (asks 0x31 (leBytes 2 5000)) ∧
    after (.powerSetCap pfBox) (asks 0x31 (leBytes 2 5000)) (fun t => t.pwr.capHost == 4095) = true := by simp only [asked_, asks_iff]; decide +kernel
/-- The same over the management port. -/
theorem test_power_set_cap_mgmt : Asks (mgmtReq 0x31 (leBytes 2 300)) 0x31 (mgmtAsked 0x31 (leBytes 2 300)) (mgmtState {}) :=
  asks_sealed 0x31 _ {} (by decide +kernel)
theorem test_power_set_limit : asked_ 0x32 [3] (asks 0x32 [3]) ∧ after (.powerSetLimit pfBox) (asks 0x32 [3]) (fun t => t.pwr.reefLimit == 3) = true := by
  simp only [asked_, asks_iff]; decide +kernel
theorem test_power_state : asked_ 0x33 [1] (asks 0x33 [1]) ∧ after (.powerState pfBox) (asks 0x33 [1]) (fun t => t.pwr.entering && t.pwr.target == 4) = true ∧
    asked_ 0x33 [2] (asks 0x33 [2]) ∧ after (.powerState pfBox) (asks 0x33 [2]) (fun t => status t == 0x41) = true := by
  simp only [asked_, asks_iff]; decide +kernel
theorem test_power_standby : Asks (mgmtReq 0x33 [2]) 0x33 (mgmtAsked 0x33 [2]) (mgmtState { state := 4, target := 4 }) ∧
    (powerMove (mgmtState { state := 4, target := 4 }) 2).any (fun t => t.pwr.target == 5) = true :=
  ⟨asks_sealed 0x33 _ _ (by decide +kernel), by decide +kernel⟩
theorem test_thermal_set : asked_ 0x34 [70, 90] (asks 0x34 [70, 90]) ∧
    after (.thermalSet pfBox) (asks 0x34 [70, 90]) (fun t => t.pwr.tJunction == 70 && t.pwr.tHbm == 90) = true := by simp only [asked_, asks_iff]; decide +kernel
theorem test_fault_status : asked_ 0x60 [] (asks 0x60 []) ∧ after (.faultStatus pfBox) (asks 0x60 []) (fun t => status t == 0) = true := by
  simp only [asked_, asks_iff]; decide +kernel
theorem test_unit_recommission : asked_ 0x61 [6, 0, 15, 0] (asks 0x61 [6, 0, 15, 0]) ∧
    after (.unitRecommission pfBox) (asks 0x61 [6, 0, 15, 0]) (fun t => (getPort t 15).expected == 1 && (getPort t 15).epoch == 0) = true := by
  simp only [asked_, asks_iff]; decide +kernel
/-- ATTEST with its nonce and 64 KiB at the host address 0x1000. -/
def attestPayload : List Byte := List.replicate 32 1 ++ leBytes 12 (hostBase + 0x1000 + 65536 * 2 ^ 64)
theorem test_w_attest : asked_ 0x48 attestPayload (asks 0x48 attestPayload) ∧ spaceOf ((req 0x48 attestPayload).at 32 8) 65536 = .host := by
  simp only [asked_, asks_iff]; decide +kernel
theorem test_w_identity : asked_ 0x49 (leBytes 20 0) (asks 0x49 (leBytes 20 0)) ∧ (req 0x49 (leBytes 20 1)).at 0 1 = 1 := by simp only [asked_, asks_iff]; decide +kernel

/-- An SPDM exchange in phase `n`. -/
def spdm (n : Nat) : State := setSpdm { fwc := { st := 3, stage := 5 }, sec := { chain := [1, 2, 3] } } true { phase := n }
theorem test_spdm : serving (spdm 0) ∧ after (.getVersion true) (spdm 0) (fun t => (getSpdm t true).phase == 1) = true ∧
    after (.getCapabilities true []) (spdm 1) (fun t => (getSpdm t true).phase == 2) = true ∧
    after (.getCapabilities true []) (spdm 0) (fun t => (getSpdm t true).phase == 0 && (getSpdm t true).out.map (·.1) == [0]) = true := by decide +kernel
theorem test_spdm_later : after (.negotiateAlgorithms true 1 1) (spdm 2) (fun t => (getSpdm t true).phase == 3) = true ∧
    after (.getDigests true) (spdm 3) (fun t => (getSpdm t true).out.map (·.1) == [4]) = true ∧
    after (.getDigests true) (spdm 2) (fun t => (getSpdm t true).out.map (·.1) == [0]) = true := by decide +kernel
theorem test_spdm_reads : after (.getCertificate true 0 1 1) (spdm 3) (fun t => (getSpdm t true).out.map (·.1) == [5]) = true ∧
    after (.challenge true [7]) (spdm 3) (fun t => (getSpdm t true).out.map (·.1) == [6]) = true ∧
    after (.getMeasurements true [7] 1) (spdm 3) (fun t => (getSpdm t true).out.map (·.1) == [7]) = true := by decide +kernel

/-! ### The host's side, units, power and pins (16, 20, 21, 22, 23) -/

theorem test_step_front : step { pending := [.holdInAssert 1, .modRstNRise], aon := 4 } = exec (.holdInAssert 1) { pending := [.modRstNRise], aon := 4 } ∧
    (match step { pending := [.holdInAssert 1, .modRstNRise], aon := 4 } with
      | .next t => t.pending == [.modRstNRise] && Tab.get 0 t.pins.holdInSince 1 == 4
      | _ => false) = true := ⟨rfl, by decide +kernel⟩
theorem test_idle_step : (match step { aon := 4, aclks := [(1, 10)], fwc := { stage := 3 }, pwr := { state := 5 } } with
      | .next t => t.aon == 5 && t.aclks == [(0, 0), (1, 10)] && t.nclks == [(0, 0), (1, 0)] && t.xclk == 0 && t.fresh == 5
      | _ => false) = true ∧
    (match step { aon := 4, fwc := { stage := 3 }, pwr := { state := 3 } } with
      | .next t => t.aon == 5
      | _ => false) = true := by decide +kernel
theorem test_reset_memory : MemOk State.reset ∧ MemOk (hbmWrite {} 5 [1, 0]) := by decide +kernel

theorem test_completion_failure : ringServed (host { st := .running }) 1 (getHRing (host { st := .running }) 1 63) ∧
    after (.completionFailure 1 (.doorbell 63)) (host { st := .running }) (fun t => (getHRing t 1 63).st == .error && t.hif.aer == 1) = true ∧
    after (.completionFailure 1 (.command 63 0)) (host (ring1 copyCmd)) (fun t => reported t == [0x48] && t.hif.aer == 1) = true := by decide +kernel
theorem test_completion_failure_burst :
    hostRead { readBurst with src := some (.device hostBase), issued := true } ∧
    after (.completionFailure 16 (.descriptor 0 0 1 0)) (bursting [{ readBurst with src := some (.device hostBase), issued := true }, otherBurst])
      (fun t => t.hif.aer == 1 && (getCore t 0).runs.map (·.status) == [0x30]) = true := by decide +kernel
/-- A module whose PCIe controller is out of reset. -/
def linked (l : Link) : State := { fwc := { st := 3, stage := 5 }, pins := { perstN := true, pcieInReset := false }, hif := { link := l } }
theorem test_link_training : after (.linkTraining 6 16 true) (linked {})
      (fun t => t.hif.link.state == 2 && t.hif.link.speed == 6 && t.hif.link.flit) = true ∧
    after (.linkTraining 2 16 true) (linked { attempts := 2 }) (fun t => t.hif.link.state == 3) = true := by decide +kernel
theorem test_bar2 : after (.bar2Access false 0xBFFFFFFFFF (some [7]) 0 []) (trained { sec := { debug := true } }) (fun t => hbmRead t 0xBFFFFFFFFF 1 == [7]) = true ∧
    after (.bar2Access false 5 none 2 []) (hbmWrite (trained { sec := { debug := true } }) 5 [7]) (fun t => t.hif.aer == 0 && t.hif.bar2Back == [7, 0]) = true ∧
    after (.bar2Access false 0 (some [7]) 0 []) {} (fun t => t.hif.aer == 1 && t.hbm.bytes == []) = true := by decide +kernel
theorem test_flr_vf : after (.flrVf 1) (host (ring1 copyCmd)) (fun t => getFn t 1 == {} && !(getSess t 1).opened) = true := by decide +kernel
theorem test_flr_pf : after .flrPf (host (ring1 copyCmd)) (fun t => getFn t 1 == {} && !t.hif.vfEnable && t.fwc.st == 2) = true := by decide +kernel
theorem test_hot_reset : after .hotReset { host (ring1 copyCmd) with sec := { ide := [(1, [([1], [2])])] } }
    (fun t => getFn t 1 == {} && t.sec.ide == [] && t.hif.link == {} && t.fwc.st == 2) = true := by decide +kernel

theorem test_core_out : coreLive {} 255 ∧ physOf {} 255 = some 270 ∧ after (.coreOut 255 4) { cores := [(255, running [0x73])] }
    (fun t => (getPhys t 270).out == some 4 && (getPhys t 270).expected == 1 && (getCore t 255).ctxs == []) = true := by decide +kernel
/-- A cancelled job of core 0, out of service, whose fence is reached. -/
def fencedJob : State :=
  { host { st := .running, cmds := [{ cmd placeCmd with st := .placed }] } with
    phys := [(0, { out := some 1 })]
    hif := { (host { st := .running, cmds := [{ cmd placeCmd with st := .placed }] }).hif with
      jobs := [{ job [(0, 0)] with origin := .command 1 63 0, cancel := some { serial := 1, todo := [], fences := [] } }] } }
theorem test_core_fence : coreGone fencedJob 0 ∧ (fencedJob.hif.jobs.map fun j => jobFenced fencedJob j) = [true] ∧
    after (.coreFenceTimeout 0) fencedJob (fun t => t.hif.jobs == [] && reported t == [0x10]) = true := by decide +kernel
theorem test_w_spar_lost : sparLost { hub := { sparLost := 1 } } 1 = false ∧ sparLost { hub := { sparLost := 1 } } 0 = true ∧
    after (.sparLost 0 3) { hub := { sparLost := 1 } } (fun t => t == { hub := { sparLost := 1 } }) = true := by decide +kernel
theorem test_edge_switch : after (.edgeSwitchFailure 1) {} (fun t => t.hub.moduleFault && t.pwr.entering && t.pwr.target == 4) = true := by decide +kernel
theorem test_lockstep : (recent { fwc := { mismatches := [0, 1] } } [0, 1]).length = 2 ∧
    after .lockstep { fwc := { mismatches := [0, 1] }, sec := { sess := [(17, { opened := true })], handshakes := [hand], ide := [(1, [([1], [2])])] } }
      (fun t => !(getSess t 17).opened && t.sec.handshakes.isEmpty && t.sec.ide == [] && t.hub.moduleFault) = true := by decide +kernel
theorem test_watchdog : procRuns { fwc := { stage := 5 } } 0x1F ∧
    after (.fwWatchdog 0x1F) { fwc := { stage := 5 } } (fun t => Tab.get [] t.fwc.expiries 0x1F == [0] && t.fwc.dead == []) = true ∧
    after (.fwWatchdog 0x1F) { fwc := { stage := 5, expiries := [(0x1F, [0, 0])] } }
      (fun t => t.fwc.dead == [0x1F] && t.hub.withdrawnCtl == 0x8000 && !t.hub.moduleFault) = true ∧
    after (.fwWatchdog 1) { fwc := { stage := 5, expiries := [(1, [0, 0])] } } (fun t => t.fwc.dead == [1] && t.hub.moduleFault) = true := by decide +kernel
theorem test_core_recommission : physId 1 7 16 = 271 ∧ posExhausted (setPhys {} 271 { expected := 3 }) 271 = false ∧
    after (.coreRecommission 1 7 16 true) (setPhys {} 271 { expected := 3, out := some 3 }) (fun t => (getPhys t 271).epoch == 3 && (getPhys t 271).out == none) =
      true ∧ after (.coreRecommission 1 7 16 false) (setPhys {} 271 { expected := 3, out := some 2 }) (fun t => (getPhys t 271).retired) = true := by
  decide +kernel
theorem test_control_core : after (.controlCoreRecommission 15) (setCtlEpoch {} 15 { expected := 2 }) (fun t => (getCtlEpoch t 15).epoch == 2) = true := by
  decide +kernel
theorem test_w_stack : (getStack (setStack {} 7 { expected := 2 }) 7).epoch ≠ (getStack (setStack {} 7 { expected := 2 }) 7).expected := by decide +kernel
theorem test_port_recommission : after (.portRecommission 15 [0, 1, 2, 3, 4, 5, 6, 7]) (setPort {} 15 { expected := 1 })
    (fun t => (getPort t 15).epoch == 1 && (getPort t 15).st == .training && (getPort t 15).bad == [8]) = true := by decide +kernel
/-- A suspension of cause 3 that has had no occurrence since 0. -/
def suspended : State := { hub := { susp := [{ cause := 3, kind := 6, unit := 15, bounds := 8, active := true }] } }
theorem test_bound_resume : (suspAt suspended 3 6 15).active ∧ after (.boundResume { kind := 6, id := 15 }) { suspended with aon := 50000000 }
    (fun t => !(suspAt t 3 6 15).active) = true := by decide +kernel

theorem test_input_low : isOff {} = false ∧ after (.inputOutOfRange 35999) { fwc := { stage := 5 } }
      (fun t => t.pwr.forceInput && t.pwr.powerEmerg && t.pwr.target == 3) = true ∧
    after (.inputOutOfRange 44001) {} (fun t => !t.pwr.forceInput && t.pwr.powerEmerg) = true := by decide +kernel
theorem test_input_back : after (.inputInRange 36000) { pwr := { forceInput := true, inputBad := true } }
    (fun t => !t.pwr.forceInput && !t.pwr.inputBad) = true := by decide +kernel
theorem test_input_shutdown : after (.inputShutdownLevel 33999) (hbmWrite {} 0 [1])
      (fun t => t.pwr.lastShutdown == 1 && t.pins.step == 1 && t.hbm.bytes == []) = true ∧
    after (.inputShutdownLevel 46001) {} (fun t => t.pwr.lastShutdown == 2 && t.pins.shutHold) = true := by decide +kernel
theorem test_thermal_shutdown : after .thermalShutdown {} (fun t => t.pwr.lastShutdown == 3 && !t.pins.thermtripN && t.pwr.thermHold) = true := by
  decide +kernel
theorem test_overcurrent : after (.overcurrent 56001) { fwc := { stage := 5 } } (fun t => t.pwr.forceCurrent && t.pwr.target == 3) = true ∧
    after .overcurrentRelease { pwr := { forceCurrent := true } } (fun t => !t.pwr.forceCurrent) = true := by decide +kernel
theorem test_rail : after (.railOutOfRegulation 2 true) {} (fun t => t.pwr.railsBad == [2] && t.pwr.powerEmerg) = true := by decide +kernel
theorem test_cap_loop : pmcOn { fwc := { stage := 2 } } ∧ effectiveCap { capHost := 0x708 } = 0x708 ∧
    after (.capLoop 1801) { fwc := { stage := 2 } } (fun t => t.pwr.capReq == 1) = true ∧
    after (.capLoop 1619) { fwc := { stage := 2 }, pwr := { capReq := 2, capLow := 9 } } (fun t => t.pwr.capReq == 1 && !t.pwr.capUnmet) = true := by
  decide +kernel
theorem test_thermal_sample : after (.thermalSample (191 :: List.replicate 23 0) (List.replicate 24 0) (List.replicate 4 0) (List.replicate 4 0) (List.replicate 8 0))
    { fwc := { stage := 2 }, aon := 7 } (fun t => t.pwr.thermReq == 1 && t.pwr.thermLast == some 7) = true := by decide +kernel
theorem test_junction_force : after .junctionForce { fwc := { stage := 5 } } (fun t => t.pwr.forceJunction && t.pwr.thermalEmerg && t.pwr.target == 3) = true ∧
    after .junctionForceRelease { pwr := { forceJunction := true, thermalEmerg := true } }
      (fun t => !t.pwr.forceJunction && !t.pwr.thermalEmerg) = true := by decide +kernel
theorem test_telemetry_update : after (.telemetryUpdate 1 2 65535 4) { fwc := { stage := 2 } } (fun t => t.pwr.pin == 65535 && t.pwr.pinMax == 65535) = true ∧
    after (.telemetryUpdate 1 2 3 4) { fwc := { stage := 2 }, pwr := { pinMax := 9 } } (fun t => t.pwr.pin == 3 && t.pwr.pinMax == 9) = true := by
  decide +kernel
theorem test_reef_step : reefGoal { fwc := { stage := 2 }, pwr := { reefLimit := 3 } } = 3 ∧
    after .reefStep { fwc := { stage := 2 }, pwr := { reefLimit := 3, state := 2 } } (fun t => t.pwr.state == 3) = true ∧
    after .reefStep { fwc := { stage := 2 }, pwr := { reefLimit := 1, state := 2 } } (fun t => t.pwr.state == 1) = true := by decide +kernel
theorem test_thermal_bare_pole : after .thermalBarePole { aon := 50000000, fwc := { stage := 2 }, pwr := { hotSince := some 0 } }
    (fun t => t.pwr.entering && t.pwr.target == 4) = true := by decide +kernel
theorem test_bare_pole_entry : after .barePoleEntry { cores := [(0, { pushes := 1, spad := spadWrite {} 0 [7] })], pwr := { entering := true, target := 4 } }
    (fun t => t.pwr.state == 4 && (getCore t 0).pushes == 0 && spadBytes (getCore t 0).spad 0 1 == [7]) = true := by decide +kernel
theorem test_bare_pole_exit : after .barePoleExit { pwr := { state := 4, target := 3 } } (fun t => t.pwr.state == 3) = true := by decide +kernel
theorem test_standby_entry : after .standbyEntry (setStay (setPort { pwr := { state := 4, target := 5 } } 15 up) 1 { st := .opened })
    (fun t => t.pwr.state == 5 && (getStack t 7).selfRefresh && (getPort t 15).st == .down && (getStay t 1).st == .moving false 0) = true := by decide +kernel
theorem test_standby_exit : after .standbyExit { pwr := { state := 5, target := 0 } } (fun t => t.pwr.state == 4 && (getStack t 7).expected == 1) = true := by
  decide +kernel

theorem test_power_on_reset : after .powerOnReset { hbmWrite {} 0 [1] with aon := 9, pins := { modEn := false } }
      (fun t => t.aon == 0 && t.hbm.bytes == [] && t.pins.step == 1) = true ∧
    after .powerOnReset { aon := 9 } (fun t => t.pins.step == 3) = true := by decide +kernel
theorem test_mod_en_rise : isOff { pins := { modEn := false, step := 1, shutHold := true } } ∧
    after .modEnRise { pins := { modEn := false, step := 1, shutHold := true } } (fun t => t.pins.step == 3 && !t.pins.shutHold) = true := by decide +kernel
theorem test_mod_en_fall : after .modEnFall (hbmWrite {} 0 [1]) (fun t => t.pins.step == 1 && t.pwr.lastShutdown == 4 && t.hbm.bytes == []) = true := by
  decide +kernel
theorem test_mod_rst : after .modRstNFall { hbmWrite {} 0 [1] with fwc := { st := 3, stage := 5 }, sec := { sess := [(0, { opened := true })] } }
      (fun t => t.pins.step == 2 && t.fwc.st == 1 && t.sec.sess == [] && hbmRead t 0 1 == [1]) = true ∧
    after .modRstNRise { pins := { modRstN := false, step := 2 } } (fun t => t.pins.step == 3 && t.pins.modRstN) = true := by decide +kernel
theorem test_perst : after .perstFall { host (ring1 copyCmd) with pins := { perstN := true } } (fun t => getFn t 1 == {} && t.pins.pcieInReset) = true ∧
    after .perstFall { linked { state := 2 } with fwc := { stage := 4 } } (fun t => t.hif.link == {} && !t.pins.perstN) = true ∧
    after .perstRise {} (fun t => t.pins.perstN && !t.pins.pcieInReset) = true := by decide +kernel

/-- Stage `n` of a boot. -/
def boot (n : Nat) : State := { fwc := { stage := n } }
/-- Two erased slots: neither verifies, and the module goes to RECOVERY (R534, R535). -/
theorem test_boot0 : booting (boot 0) 0 ∧ verifyImage (boot 0) (slotMem (boot 0) 0) = some smImage ∧ verifyImage (boot 0) (slotMem (boot 0) 1) = some smImage ∧
    after (.bootStage0 []) (boot 0) (fun t => t.fwc.st == 0) = true := by decide +kernel
/-- The boot record names slot B; without its second copy it names slot A again (R532). -/
theorem test_boot_record : activeSlot { fwc := { flash := { boot := { copy0 := some (1, 0), copy1 := some (2, 1) } } } } = 1 ∧
    activeSlot (loseCopies { fwc := { flash := { boot := { copy0 := some (1, 0), copy1 := some (2, 1) } } } } [{ item := .bootRecord, second := true }]) = 0 := by
  decide +kernel
/-- Stage 1 waits for its turn; of its two clauses the slot's digests say which holds, and SHAKE256 is uninterpreted (assumption 7). -/
theorem test_w_boot1 : booting (boot 1) 1 ∧ (boot 1).fwc.requests = [] ∧ activeSlot (boot 1) = 0 ∧
    after (.bootStage1 []) (boot 0) (fun t => t.fwc.stage == 0) = true := by decide +kernel
theorem test_boot2 : booting (boot 2) 2 ∧ (boot 2).hbm.waiting = [] ∧
    after (.bootStage2 .fails [255] []) (boot 2) (fun t => t.pins.step == 1 && t.pins.shutHold) = true := by decide +kernel
theorem test_boot3 : after (.bootStage3 .passes) (setPort (boot 3) 15 { light := true }) (fun t => t.fwc.stage == 4 && (getPort t 15).st == .training) = true := by
  decide +kernel
theorem test_w_boot4 : booting (boot 4) 4 := by decide +kernel

/-! ### Registers (23) -/

/-- An access of the PF. -/
def acc (off size : Nat) (ag : RegAgent := .host) : BarAccess := { agent := ag, fn := 0, off := off, size := size }
theorem test_unused_offset : regHit (acc 0x1C 4) = .unused ∧ after (.readClear (acc 0x1C 4)) {} (fun t => t.hif.readBack == some 0) = true ∧
    after (.registerWrite (acc 0x1C 4) 5) {} (fun t => t == {}) = true ∧ after (.w1cClear (acc 0x1C 4) 5 true) {} (fun t => t == {}) = true := by
  decide +kernel
/-- A request outside the stream of a session that is bound to it completes as Unsupported Request (R572). -/
theorem test_outside_stream : after (.readClear (acc 0x1C 4)) { sec := { sess := [(0, { opened := true, ide := true })] } }
      (fun t => t.hif.readBack == none && t.hub.badAccess == 0) = true ∧
    after (.readClear { acc 0x1C 4 with inStream := true }) { sec := { sess := [(0, { opened := true, ide := true })], ide := [(0, [])] } }
      (fun t => t.hif.readBack == some 0) = true ∧
    refusesTlp { sec := { sess := [(0, { opened := true, ide := true })] } } (acc 0x1C 4) = true ∧
    refusesTlp { sec := { sess := [(0, { opened := true, ide := true })], ide := [(0, [])] } } { acc 0x1C 4 with inStream := true } = false := by decide +kernel
theorem test_bad_access : regHit (acc 2 4) = .bad ∧ after (.registerWrite (acc 2 4) 5) {} (fun t => t.hub.badAccess == 1) = true ∧
    after (.readClear (acc 2 4)) {} (fun t => t.hub.badAccess == 1 && t.hif.readBack == none) = true := by decide +kernel
theorem test_read_only : regHit (acc 0 8) = .reg .hubId 0 ∧ after (.registerWrite (acc 0 8) 5) {} (fun t => t.hub.ignoredWr == 1) = true := by decide +kernel
/-- Port 15 with counts. -/
def counts : State := setPort {} 15 { stomped := 1, framesLost := 2, retries := 3, fecUe := 4 }
theorem test_read_clear : regHit (acc 0x3001F0 4) = .reg (.portStats 15) 0 ∧
    after (.readClear (acc 0x3001F0 4)) counts (fun t => (getPort t 15).stomped == 0 && (getPort t 15).framesLost == 0 && (getPort t 15).retries == 3) = true ∧
    regHit (acc 0x3001F4 4) = .reg (.portStats 15) 4 ∧
    after (.readClear (acc 0x3001F4 4)) counts (fun t => (getPort t 15).stomped == 1 && (getPort t 15).retries == 0 && (getPort t 15).fecUe == 0) = true := by
  decide +kernel
theorem test_write_db_base : regHit (acc 0x30008 8) = .reg .dbBase 0 ∧
    after (.registerWrite (acc 0x30008 8) 0x12345) {} (fun t => (getFn t 0).dbBase == 0x12000) = true := by decide +kernel
theorem test_write_route : regHit (acc 0x31FFFC 4) = .reg (.route 32766) 0 ∧ after (.registerWrite (acc 0x31FFFC 4) 0xB000A000) (sessed {})
    (fun t => Tab.get 0#16 t.fab.route 32766 == 0xA000 && Tab.get 0#16 t.fab.route 32767 == 0xB000 && t.log.next == 1) = true ∧
    after (.registerWrite (acc 0x31FFFC 4) 0xB000A000) {} (fun t => t.fab.route == [] && t.log.next == 0) = true := by decide +kernel
theorem test_write_entry : regHit (acc 0x1FF01C8 4 (.control 15)) = .reg (.core 255 (.ctxEntry 7)) 0 ∧ coreLive {} 255 ∧
    after (.registerWrite (acc 0x1FF01C8 4 (.control 15)) 0x100) {} (fun t => (ctxAt t 255 7).entry == 0x80) = true ∧
    after (.registerWrite (acc 0x1FF01C8 4 (.control 14)) 0x100) {} (fun t => (ctxAt t 255 7).entry == 0) = true := by decide +kernel
theorem test_mbox_status : regHit (acc 0x10018 4) = .reg .mboxStatus 0 ∧
    after (.w1cClear (acc 0x10018 4) 2 false) { fwc := { done := true } } (fun t => !t.fwc.done) = true ∧
    after (.w1cClear (acc 0x10018 4) 2 true) { fwc := { done := true } } (fun t => t.fwc.done) = true := by decide +kernel

/-! ### More witnesses -/

/-- A head whose operand A has a header that is not valid: stage 3 refuses it. -/
def badHeader : BitVec 1024 := desc 1 (slot 0x801 1 0 64) (slot 1 1 64 1) (slot 0xE 1 0x100 4) 0 (2 ^ 12 + 2 ^ 13 + 0xE * 2 ^ 32)
def badHead : QDesc := { seq := 1, push := 0, desc := badHeader, nests := [nestRed] }
theorem test_issue_stage3 : staticStage (headed badHeader false [nestRed]) 0 0 badHead = none ∧
    (stage2Blocked (headed badHeader false [nestRed]) 0 0 badHead || entriesBlocked (headed badHeader false [nestRed]) 0 0 badHead) = false ∧
    ((contentStage (getCore (headed badHeader false [nestRed]) 0) 0 badHead).map faultCause) = some none ∧
    after (.descriptorIssue 0 0 []) (headed badHeader false [nestRed]) (fun t => (ctxAt t 0 0).queue == [] && (getCore t 0).sb == []) = true := by
  decide +kernel
theorem test_commit_unreadable : entryBad (ledgered (claiming 0x10105 0 2 { st := .running, ledger := 1 })) 64 0 [(0x80, .uncorrectable)] ∧
    after (.kclaimCommit 0 0 [(0x80, .uncorrectable)]) (ledgered (claiming 0x10105 0 2 { st := .running, ledger := 1 }))
      (fun t => ledgerEntry t 64 0 == 0x100 && readX (ctxAt t 0 0) 5 == 0x100000004 && t.wct.ledgerUe == 1) = true := by decide +kernel
theorem test_claim_waits : claimWaits {} { st := .running, ledger := 1 } ∧ claimWaits (trained {}) { st := .running, ledger := 1 } = false := by decide +kernel
theorem test_cancel_no_context : after (.cancelAccept 0 0 7) (on { dma := { cancel := some { mask := 1, tag := 2 } } })
      (fun t => (getCore t 0).dma.cancelBusy == 1) = true ∧ after (.cancelAccept 0 0x100 7) {} (fun t => t == {}) = true := by decide +kernel
/-- The chain, with the head's cluster in partition 2 and the tail's in none: they are of different clusters. -/
def splitChain : State :=
  { cores := [(3, { dma := { hal := { halHead with cfg := 0x0001000000008009, inFlight := true } } })], parts := [(2, { st := .setUp, clusters := 1 })] }
theorem test_relay_foreign : nextMember 3 (halOf splitChain 3) = some 4 ∧ partOfCore splitChain 3 = some 2 ∧ partOfCore splitChain 4 = none ∧
    after (.relayForwardComplete 3 []) splitChain
      (fun t => !(halOf t 3).inFlight && (halOf t 3).nextFwd == 1 && (getCore t 4).mesh.xpartDrop == 1) = true := by decide +kernel
theorem test_read_waits : rangeWaits { peered with hbm := { peered.hbm with stk := [] } } 0x40 2 ∧
    after (.read (rx (frame 3 []))) { peered with hbm := { peered.hbm with stk := [] } }
      (fun t => t.hbm.waiting == [.frame (frame 3 []) none [] 0]) = true := by decide +kernel
theorem test_egress_press : after (.frameSend 3 0) (setCdc (ported { sendable with queues := [(0, [frame 1 [1]])] }) (queueNo 5 0 3) { press := true })
    (fun t => (getPort t 3).txSeq == 0) = true := by decide +kernel
theorem test_poll_reserved_running : after (.doorbellPoll 1 63 100 true) (devWrite (host { st := .running }) (busAddr 0x3F8) [1])
    (fun t => (getHRing t 1 63).st == .error && (getHRing t 1 63).cause == 1) = true := by decide +kernel
theorem test_launch_held : launchHeld (untrained (image (host (ring1 placeCmd)))) 1 0 (cmd placeCmd).bytes ∧
    after (.launchPlace 1 63 0 []) (untrained (image (host (ring1 placeCmd)))) (fun t => t.hif.jobs == [] && reported t == []) = true := by decide +kernel
theorem test_launch_named : (rangesBad (host (ring1 (1 + 9 * 2 ^ 64 + 0x40000000 * 2 ^ 192))) 1 (namedRanges (cmd (1 + 9 * 2 ^ 64 + 0x40000000 * 2 ^ 192)).bytes)).isSome ∧
    after (.launchPlace 1 63 0 []) (host (ring1 (1 + 9 * 2 ^ 64 + 0x40000000 * 2 ^ 192))) (fun t => (reported t).length == 1 && t.hif.jobs == []) = true := by
  decide +kernel
/-- The position of core 0, which left service for cause 2 and fails its test, while core 15 of its row runs a context or is idle. -/
def failing0 (st : CtxSt) : State := setPhys { cores := [(15, { ctxs := [(3, { st := st })] })] } 0 { expected := 3, out := some 2 }
theorem test_retirement_waits :
    coresBusy (failWhole (failing0 .running) 0) (displaced (failWhole (failing0 .running) 0) (retiredRow (failWhole (failing0 .running) 0) 0 0 0)) = true ∧
    coresBusy (failWhole (failing0 .idle) 0) (displaced (failWhole (failing0 .idle) 0) (retiredRow (failWhole (failing0 .idle) 0) 0 0 0)) = false ∧
    after (.coreRecommission 0 0 0 false) (failing0 .running) (fun t => !(getPhys t 0).retired && (ctxAt t 15 3).killPending) = true ∧
    after (.coreRecommission 0 0 0 false) (failing0 .idle) (fun t => (getPhys t 0).retired) = true := by decide +kernel
theorem test_queue_flight : (flightsOf foreignSent 2048).map (·.burst) = [none] ∧ after (.queueReset 2048 1 0) foreignSent
    (fun t => (getCore t 1).mesh.sends.map (·.st) == [.dropped] && (Tab.get (0#16, 0#8, 0#8) t.hub.mshCdc 0).1 == 1) = true := by decide +kernel

end Sys2Proof.Tests
end

section
/-! PROOF. Claims and commits on a foreign counter (R43): what a fault leaves of a context (R126, R127), what a denied request does, and the
refutation of O15. -/

namespace Sys2Proof.Machine

open Sys2Proof

/-! ### A fault and the contexts of a core -/

/-- What `wake` does to one context: it runs on if its condition has cleared (R122). -/
def wakeOne (k : Core) (n : Nat) : Core :=
  if (getCtx k n).st = .waiting ∧ waitClear k n then putCtx k n { getCtx k n with st := .running, wait := none } else k

theorem wake_eq_foldl (k : Core) : wake k = (List.range 8).foldl wakeOne k := rfl

theorem getCtx_wakeOne_of_not_waiting (k : Core) (m n : Nat) (h : (getCtx k n).st ≠ .waiting) : getCtx (wakeOne k m) n = getCtx k n := by
  unfold wakeOne
  split
  case isTrue hm =>
    have hne : n ≠ m := by rintro rfl; exact h hm.1
    exact getCtx_putCtx_ne k _ hne
  case isFalse => rfl

theorem getCtx_wake_of_not_waiting (k : Core) (n : Nat) (h : (getCtx k n).st ≠ .waiting) : getCtx (wake k) n = getCtx k n := by
  rw [wake_eq_foldl]
  generalize List.range 8 = l
  induction l generalizing k with
  | nil => rfl
  | cons m l ih =>
    have hm := getCtx_wakeOne_of_not_waiting k m n h
    rw [List.foldl_cons, ih _ (hm ▸ h), hm]

theorem getCtx_refuseDesc (now : Nat) (k : Core) (n : Nat) (q : QDesc) (status un : Nat) (h : (getCtx k n).st ≠ .waiting) :
    getCtx (refuseDesc now k n q status un) n = setToken (getCtx k n) q.seq status (if un = 0 then 0 else 16) := by
  unfold refuseDesc writeRecord
  rw [getCtx_wake_of_not_waiting _ _ (by rw [getCtx_putCtx]; exact h), getCtx_putCtx]

/-- What a context's token window and drain accumulators hold once the descriptors `q` are discarded with `status` (R127). -/
def discardTokens (x : Ctx) (q : List QDesc) (status : Nat) : Ctx := q.foldl (fun x d => setToken x d.seq status 0) x

/-- Discarding touches the window and the accumulators alone. -/
theorem discardTokens_eq (x : Ctx) (q : List QDesc) (status : Nat) :
    ∃ w ds db, discardTokens x q status = { x with window := w, drainSum := ds, drainBad := db } := by
  unfold discardTokens
  induction q generalizing x with
  | nil => exact ⟨_, _, _, rfl⟩
  | cons d q ih =>
    obtain ⟨w, ds, db, h⟩ := ih (setToken x d.seq status 0)
    exact ⟨w, ds, db, h⟩

theorem getCtx_foldl_refuseDesc (now : Nat) (k : Core) (n status : Nat) (q : List QDesc) (h : (getCtx k n).st ≠ .waiting) :
    getCtx (q.foldl (fun k d => refuseDesc now (sbRelease k d.holds) n d status) k) n = discardTokens (getCtx k n) q status := by
  induction q generalizing k with
  | nil => rfl
  | cons d q ih =>
    have hd : getCtx (refuseDesc now (sbRelease k d.holds) n d status) n = setToken (getCtx k n) d.seq status 0 :=
      getCtx_refuseDesc now _ n d status 0 h
    rw [List.foldl_cons, ih _ (by rw [hd]; exact h), hd]
    rfl

/-- The end of a head fill is no matter of a context (R361). -/
theorem getCtx_ite_endFill (b : Bool) (now : Nat) (k : Core) (n : Nat) : getCtx (if b then endFill now k else k) n = getCtx k n := by
  cases b <;> rfl

theorem getCtx_discardQueue (s : State) (c : Nat) (k : Core) (n status : Nat) (h : (getCtx k n).st ≠ .waiting) :
    getCtx (discardQueue s c k n status) n = discardTokens { getCtx k n with queue := [] } (getCtx k n).queue status := by
  unfold discardQueue
  rw [getCtx_foldl_refuseDesc, getCtx_putCtx, getCtx_ite_endFill]
  rw [getCtx_putCtx, getCtx_ite_endFill]
  exact h

/-- Event 0x0607 reports no hardware fault, so no bound is suspended (R526). -/
theorem raiseCore_contextFault (s : State) (c detail : Nat) :
    raiseCore s c 0x0607 0 detail = raiseN s 0x0607 0 (partOfCore s c) ukCore (coreUnit s c) detail 0 1 := rfl

/-- A faulted context but for its window and accumulators (R126, R127). -/
theorem ctxAt_faultCtx (s : State) (c n cause pc : Nat) : ∃ w ds db, ctxAt (faultCtx s c n cause pc) c n =
    { ctxAt s c n with st := .faulted, cause := BitVec.ofNat 8 cause, faultPc := BitVec.ofNat 32 pc, wait := none, haltPending := false
                       queue := [], window := w, drainSum := ds, drainBad := db } := by
  have hraise : ∀ (t : State) (d : Nat), ctxAt (raiseCore t c 0x0607 0 d) c n = ctxAt t c n := by
    intro t d
    simp [raiseCore_contextFault, ctxAt, getCore]
  unfold faultCtx
  rw [hraise, ctxAt, getCore_setCore, getCtx_discardQueue]
  · obtain ⟨w, ds, db, hw⟩ := discardTokens_eq { ctxAt s c n with
      st := .faulted, cause := BitVec.ofNat 8 cause, faultPc := BitVec.ofNat 32 pc, wait := none, haltPending := false, queue := [] }
      (ctxAt s c n).queue stCtxFaulted
    refine ⟨w, ds, db, Eq.trans ?_ hw⟩
    simp [getCtx, putCtx, ctxAt]
  · simp [getCtx, putCtx]

@[simp] theorem faultCtx_wct (s : State) (c n cause pc : Nat) : (faultCtx s c n cause pc).wct = s.wct := by
  simp [faultCtx, raiseCore_contextFault, setCore]
@[simp] theorem faultCtx_hbm (s : State) (c n cause pc : Nat) : (faultCtx s c n cause pc).hbm = s.hbm := by
  simp [faultCtx, raiseCore_contextFault, setCore]

/-! ### A claim that is denied -/

theorem claimDenied_of_waiting {s : State} {c n rd : Nat} {r : ClaimReq} (hw : (ctxAt s c n).wait = some (.kclaim rd)) (hd : r.dead = false) :
    claimDenied s c n r = faultCtx s c n causeClaim (ctxAt s c n).pc.toNat := by
  unfold ctxAt at hw
  simp [claimDenied, hw, hd, ctxAt]

/-- No context is reached by a reply that it does not await. -/
theorem claimDenied_of_no_wait {s : State} {c n : Nat} (r : ClaimReq) (hw : (ctxAt s c n).wait = none) : claimDenied s c n r = s := by
  unfold ctxAt at hw
  simp [claimDenied, hw]

/-- Command `i` performs the claim or commit `r` of context `n` of core `c`, whose class lets it go, on a counter that is not assigned to the
core's partition: the premises of R43 as `Obligations.ForeignClaimFaults` has them. -/
structure ForeignClaim (i : Instr) (s : State) (c n : Nat) (r : ClaimReq) (rest : List ClaimReq) : Prop where
  core : c < 256
  ctx : n < 8
  oldest : (∃ ecc, i = .kclaimClaim c n ecc ∧ takeClaim n (fun r => claimFunc r != 1) (getCore s c).claims = some (r, rest)) ∨
    ∃ ecc, i = .kclaimCommit c n ecc ∧ takeClaim n (fun r => claimFunc r == 1) (getCore s c).claims = some (r, rest)
  live : r.dead = false
  wellFormed : claimMalformed r = false
  first : claimBehind s (getCore s c) r = false
  foreign : (getCtr s (claimCtr r)).assigned = false ∨ partOfCore s c ≠ some (getCtr s (claimCtr r)).part.toNat

/-- `s` without the request that core `c` has had performed. -/
def claimTaken (s : State) (c : Nat) (rest : List ClaimReq) : State := setCore s c { getCore s c with claims := rest }

@[simp] theorem ctxAt_claimTaken (s : State) (c n : Nat) (rest : List ClaimReq) : ctxAt (claimTaken s c rest) c n = ctxAt s c n := by
  simp [ctxAt, claimTaken, getCtx]

/-- Either form is refused by `claimDenied` before its operation is looked at. -/
theorem doClaim_foreign {i : Instr} {s : State} {c n : Nat} {r : ClaimReq} {rest : List ClaimReq} (h : ForeignClaim i s c n r rest)
    (p : ClaimReq → Bool) (f : State → ClaimReq → Nat × State) (hp : takeClaim n p (getCore s c).claims = some (r, rest)) :
    doClaim c n p f s = .next (claimDenied (claimTaken s c rest) c n r) := by
  have hforeign : (!((getCtr s (claimCtr r)).assigned && partOfCore s c == some (getCtr s (claimCtr r)).part.toNat)) = true := by
    obtain ha | hp := h.foreign
    · simp [ha]
    · simp [hp]
  unfold doClaim onCtx
  rw [if_pos ⟨h.core, h.ctx⟩]
  simp only [hp, h.first, h.wellFormed]
  exact if_pos hforeign

theorem exec_kclaimClaim (c n : Nat) (ecc : EccHits) (s : State) : exec (.kclaimClaim c n ecc) s = execKclaimClaim c n ecc s := rfl
theorem exec_kclaimCommit (c n : Nat) (ecc : EccHits) (s : State) : exec (.kclaimCommit c n ecc) s = execKclaimCommit c n ecc s := rfl

theorem exec_foreignClaim {i : Instr} {s : State} {c n : Nat} {r : ClaimReq} {rest : List ClaimReq} (h : ForeignClaim i s c n r rest) :
    exec i s = .next (claimDenied (claimTaken s c rest) c n r) := by
  obtain ⟨ecc, rfl, hp⟩ | ⟨ecc, rfl, hp⟩ := h.oldest
  · rw [exec_kclaimClaim, execKclaimClaim, doClaim_foreign h _ _ hp]
  · rw [exec_kclaimCommit, execKclaimCommit, doClaim_foreign h _ _ hp]

/-- R43 where the context still awaits the reply, which `Obligations.ForeignClaimFaults` does not ask: the claim faults it. -/
theorem foreignClaim_faults_waiting {i : Instr} {s : State} {c n rd : Nat} {r : ClaimReq} {rest : List ClaimReq}
    (h : ForeignClaim i s c n r rest) (hw : (ctxAt s c n).wait = some (.kclaim rd)) :
    Completes i s fun t =>
      t.wct = s.wct ∧ t.hbm = s.hbm ∧ (ctxAt t c n).st = .faulted ∧ (ctxAt t c n).cause = 7 ∧ (ctxAt t c n).queue = [] := by
  refine ⟨_, exec_foreignClaim h, ?_⟩
  rw [claimDenied_of_waiting (by simpa using hw) h.live]
  obtain ⟨w, ds, db, hx⟩ := ctxAt_faultCtx (claimTaken s c rest) c n causeClaim (ctxAt (claimTaken s c rest) c n).pc.toNat
  rw [hx]
  exact ⟨by simp [claimTaken, setCore], by simp [claimTaken, setCore], rfl, rfl, rfl⟩

/-- A context that awaits no reply stays as it is. -/
theorem foreignClaim_keeps_ctx_of_no_wait {i : Instr} {s t : State} {c n : Nat} {r : ClaimReq} {rest : List ClaimReq}
    (h : ForeignClaim i s c n r rest) (hw : (ctxAt s c n).wait = none) (ht : exec i s = .next t) : ctxAt t c n = ctxAt s c n := by
  rw [exec_foreignClaim h, claimDenied_of_no_wait r (by simpa using hw)] at ht
  cases ht
  simp

/-! ### A context that faults while its claim is under way -/

/-- FILL of 16 bytes at 0x3000. -/
def strayFill : QDesc :=
  { seq := 1, push := 0, nests := [BitVec.ofNat 1792 0x100]
    desc := BitVec.ofNat 1024 (5 + 3 * 2 ^ 8 + 0x1000 * 2 ^ 64 + (0x3000 + 2 ^ 62 + 16 * 2 ^ 64) * 2 ^ 512) }

/-- KCLAIM of one position of counter 5. -/
def claim5 : ClaimReq := { ctx := 0, rs1 := 5, rs2 := 1 }

/-- Context 0 of core 0, with a window of 0x2000 bytes, has pushed `strayFill` and then awaits the reply to `claim5`; counter 5 is assigned to no
partition. -/
def claimUnderFill : State :=
  { cores := [(0, { claims := [claim5]
                    ctxs := [(0, { st := .waiting, wait := some (.kclaim 5), bound := 0x80, queue := [strayFill], window := [{ seq := 1 }] })] })] }

theorem exec_descriptorIssue (c n : Nat) (ecc : EccHits) (s : State) :
    exec (.descriptorIssue c n ecc) s = execDescriptorIssue c n ecc s := rfl

theorem hostIssue_of_not_posted {s : State} {c n : Nat} (seq : Nat) (h : (ctxAt s c n).hostSince = none) : hostIssue s c n seq = s := by
  simp only [hostIssue, h]

theorem descriptorIssue_claimUnderFill :
    exec (.descriptorIssue 0 0 []) claimUnderFill = .next (issueHead claimUnderFill 0 0 strayFill []) := by
  have hserves : coreServes claimUnderFill 0 = true := by decide +kernel
  have hhead : (ctxAt claimUnderFill 0 0).queue.head? = some strayFill := rfl
  have hpassed : strayFill.passed = false := rfl
  have hhost : (ctxAt (issueHead claimUnderFill 0 0 strayFill []) 0 0).hostSince = none := by decide +kernel
  simp only [exec_descriptorIssue, execDescriptorIssue, onCtx, hserves, hhead, hpassed]
  exact congrArg Host.Outcome.next (hostIssue_of_not_posted _ hhost)

/-- The head ends beyond BOUND, so DESCRIPTOR_ISSUE faults its context with BOUND_FAULT, and the foreign claim is still under way
(R127, R139). -/
theorem fault_outruns_foreignClaim : Completes (.descriptorIssue 0 0 []) claimUnderFill fun t =>
    (ctxAt t 0 0).cause = 3 ∧ (ctxAt t 0 0).wait = none ∧ ForeignClaim (.kclaimClaim 0 0 []) t 0 0 claim5 [] := by
  refine ⟨_, descriptorIssue_claimUnderFill, by decide +kernel, by decide +kernel, ?_⟩
  have hclaims : (getCore (issueHead claimUnderFill 0 0 strayFill []) 0).claims = [claim5] := by decide +kernel
  exact {
    core := by decide
    ctx := by decide
    oldest := .inl ⟨[], rfl, by rw [hclaims]; rfl⟩
    live := rfl
    wellFormed := by decide +kernel
    first := by decide +kernel
    foreign := .inl (by decide +kernel) }

/-- Refutes O15: the statement does not ask that the context still awaits the reply. A descriptor at the head of its queue can fault it first,
and it then keeps the cause of that fault, here BOUND_FAULT. (`foreignClaim_faults_waiting` is the statement with that premise.) -/
theorem not_foreignClaimFaults : ¬ Obligations.ForeignClaimFaults := by
  unfold Obligations.ForeignClaimFaults
  intro h
  obtain ⟨s, -, hcause, hwait, hf⟩ := fault_outruns_foreignClaim
  obtain ⟨t, ht, -, -, -, hdenied, -⟩ := h s 0 0 claim5 [] _ hf.core hf.ctx hf.oldest hf.live hf.wellFormed hf.first hf.foreign
  rw [foreignClaim_keeps_ctx_of_no_wait hf hwait ht, hcause] at hdenied
  exact absurd hdenied (by decide)

end Sys2Proof.Machine
end

section
/-! PROOF. LAUNCH and the launches that a partition has had (R495): which operations leave the host interface or its LAUNCH_IDs alone, what a
known LAUNCH_ID answers, and what every other one adds. It settles O42. -/

namespace Sys2Proof.Machine

open Sys2Proof

/-- What every step of a fold keeps, the fold keeps. -/
theorem foldl_keeps {σ α β : Type} (v : σ → β) (g : σ → α → σ) (h : ∀ s a, v (g s a) = v s) (l : List α) (s : σ) :
    v (l.foldl g s) = v s := by
  induction l generalizing s with
  | nil => rfl
  | cons a l ih => rw [List.foldl_cons, ih, h]

theorem foldl_hif {α : Type} (g : State → α → State) (h : ∀ s a, (g s a).hif = s.hif) (l : List α) (s : State) : (l.foldl g s).hif = s.hif :=
  foldl_keeps State.hif g h l s

theorem foldl_launchIds {α : Type} (g : State → α → State) (h : ∀ s a, (g s a).hif.launchIds = s.hif.launchIds) (l : List α) (s : State) :
    (l.foldl g s).hif.launchIds = s.hif.launchIds :=
  foldl_keeps (fun s : State => s.hif.launchIds) g h l s

/-! ### Events, memory and findings leave the host interface alone -/

@[simp] theorem setCtx_hif (s : State) (c n : Nat) (x : Ctx) : (setCtx s c n x).hif = s.hif := rfl
@[simp] theorem setFlash_hif (s : State) (x : Flash) : (setFlash s x).hif = s.hif := rfl
@[simp] theorem putSusp_hif (s : State) (x : Susp) : (putSusp s x).hif = s.hif := rfl
@[simp] theorem drawFree_hif (s : State) : (drawFree s).2.hif = s.hif := rfl

@[simp] theorem boundEvent_hif (s : State) (x : Susp) (part : Option Nat) (flags : Nat) : (boundEvent s x part flags).hif = s.hif := by
  unfold boundEvent raiseBound
  split <;> simp

@[simp] theorem boundOccur_hif (s : State) (cause kind unit bounds : Nat) (part : Option Nat) :
    (boundOccur s cause kind unit bounds part).hif = s.hif := boundEvent_hif _ _ _ _

@[simp] theorem raise_hif (s : State) (code sev : Nat) (part : Option Nat) (kind unit detail flags : Nat) :
    (raise s code sev part kind unit detail flags).hif = s.hif := by
  unfold raise boundBegin
  split
  · simp only []
    split <;> simp
  · simp

@[simp] theorem devWrite_hif (s : State) (a : Nat) (bs : List Byte) : (devWrite s a bs).hif = s.hif := by
  unfold devWrite
  split <;> rfl

@[simp] theorem writeTensor_hif (s : State) (dst : Nat) (bytes : List Byte) : (writeTensor s dst bytes).hif = s.hif := by
  simp [writeTensor]

@[simp] theorem repairAdd_hif (s : State) (row : Nat) : (repairAdd s row).hif = s.hif := by
  unfold repairAdd
  simp only []
  split <;> simp

@[simp] theorem hbmHit_hif (s : State) (h : Nat × Ecc) : (hbmHit s h).hif = s.hif := by
  obtain ⟨a, e⟩ := h
  cases e with
  | corrected =>
    simp only [hbmHit]
    split <;> simp
  | uncorrectable => simp [hbmHit]
  | bitCopy n => rfl

@[simp] theorem hbmEcc_hif (s : State) (hits : EccHits) : (hbmEcc s hits).hif = s.hif :=
  foldl_hif _ hbmHit_hif hits s

@[simp] theorem setLedgerEntry_hif (s : State) (base i v : Nat) : (setLedgerEntry s base i v).hif = s.hif := devWrite_hif _ _ _
@[simp] theorem setLedgerBytes_hif (s : State) (a : Nat) (bs : List Byte) (ecc : EccHits) : (setLedgerBytes s a bs ecc).hif = s.hif := by
  simp [setLedgerBytes]
@[simp] theorem bumpLedger_hif (s : State) (base off n : Nat) (ecc : EccHits) : (bumpLedger s base off n ecc).hif = s.hif := by
  simp [bumpLedger]
@[simp] theorem readEntry_hif (s : State) (b i : Nat) (ecc : EccHits) : (readEntry s b i ecc).hif = s.hif := hbmEcc_hif _ _

/-! ### Counters, contexts and fold channels leave the host interface alone -/

@[simp] theorem ctrState_hif (s : State) (n : Nat) (st : CtrSt) : (ctrState s n st).hif = s.hif := by simp [ctrState]
@[simp] theorem runCounter_hif (s : State) (n value limit gen ledger table : Nat) (owners : List (Nat × Nat)) :
    (runCounter s n value limit gen ledger table owners).hif = s.hif := by simp [runCounter]

@[simp] theorem killCtx_hif (s : State) (c n : Nat) : (killCtx s c n).hif = s.hif := rfl
@[simp] theorem idleCtx_hif (s : State) (c n : Nat) : (idleCtx s c n).hif = s.hif := by
  unfold idleCtx
  simp only []
  split <;> simp

@[simp] theorem mapSend_hif (s : State) (src id : Nat) (f : SendEx → SendEx) : (mapSend s src id f).hif = s.hif := by
  unfold mapSend
  simp only []
  split <;> rfl

@[simp] theorem markSend_hif (s : State) (src id : Nat) (st : SendSt) : (markSend s src id st).hif = s.hif := mapSend_hif _ _ _ _
@[simp] theorem countXpart_hif (s : State) (c : Nat) : (countXpart s c).hif = s.hif := rfl
@[simp] theorem answerSend_hif (s : State) (src id ans : Nat) : (answerSend s src id ans).hif = s.hif := by simp [answerSend]
@[simp] theorem giveAnswer_hif (s : State) (c : Nat) (h : Held) (a : CreditAns) : (giveAnswer s c h a).hif = s.hif := by
  cases a <;> simp [giveAnswer]

@[simp] theorem regrant_hif (s : State) (c : Nat) : (regrant s c).hif = s.hif := by
  refine foldl_hif _ (fun s h => ?_) _ s
  simp only []
  split
  · simp
  · split <;> simp

theorem execFoldArm_hif {c ch : Nat} {cfg : W64} {s t : State} (h : execFoldArm c ch cfg s = .next t) : t.hif = s.hif := by
  unfold execFoldArm onFold at h
  simp only [] at h
  split_ifs at h <;> cases h <;> simp

theorem armFold_hif {b : List Byte} {ty : Nat} {es : List ImgEntry} {s t : State} {f : SegEntry} (h : armFold b ty es s f = some t) :
    t.hif = s.hif := by
  unfold armFold at h
  simp only [] at h
  split at h
  · split at h
    · cases h
    · split at h
      case h_1 u hu =>
        cases h
        exact execFoldArm_hif hu
      case h_2 => cases h
  · cases h

theorem armFolds_hif {b : List Byte} {ty : Nat} {es : List ImgEntry} {folds : List SegEntry} {s t : State}
    (h : armFolds b ty es s folds = some t) : t.hif = s.hif := by
  induction folds generalizing s with
  | nil => cases h; rfl
  | cons f folds ih =>
    unfold armFolds at h
    split at h
    case h_1 u hu => rw [ih h, armFold_hif hu]
    case h_2 => cases h

theorem armAll_hif {s t : State} {b : List Byte} {es : List ImgEntry} {folds : List SegEntry} (h : armAll s b es folds = some t) :
    t.hif = s.hif := by
  unfold armAll at h
  split at h
  · cases h; rfl
  · exact (armFolds_hif h).trans (drawFree_hif s)

/-! ### Messages and frames leave the host interface alone -/

@[simp] theorem acceptFrom_none_hif (s : State) (c : Nat) (m : Message) : (acceptFrom s c m none).hif = s.hif := rfl

@[simp] theorem refuseFrom_none_hif (s : State) (c : Nat) (m : Message) : (refuseFrom s c m none).hif = s.hif := by
  unfold refuseFrom
  simp only []
  split <;> simp

@[simp] theorem crossQueues_hif (s : State) (qs : List Nat) (n : Nat) : (crossQueues s qs n).hif = s.hif :=
  foldl_hif (fun s q => enterCdc s q n) (fun _ _ => rfl) qs s

@[simp] theorem postSend_hif (s : State) (id c : Nat) : (postSend s id c).hif = s.hif := by simp [postSend, hubSend]

theorem hubToken_hif {f : State → State} (hf : ∀ s, (f s).hif = s.hif) (s : State) (part : Option Nat) : (hubToken s part f).hif = s.hif := by
  unfold hubToken
  split
  · exact hf _
  · simp

@[simp] theorem postOne_hif (p cls polled : Nat) (b : List Byte) (a : List Nat × State) (c : Nat) :
    (postOne p cls polled b a c).2.hif = a.2.hif := by
  unfold postOne
  simp only []
  split
  · exact hubToken_hif (fun s => postSend_hif s _ c) _ _
  · simp

@[simp] theorem postAll_hif (s : State) (p cls polled : Nat) (b : List Byte) : (postAll s p cls polled b).2.hif = s.hif :=
  foldl_keeps (fun a : List Nat × State => a.2.hif) _ (postOne_hif p cls polled b) _ _

@[simp] theorem sendFrame_hif (s : State) (f : Frame) : (sendFrame s f).hif = s.hif := by
  unfold sendFrame
  split
  · rfl
  · split <;> rfl

@[simp] theorem sendCtl_hif (s : State) (ty p module code : Nat) (body : List Byte) : (sendCtl s ty p module code body).hif = s.hif :=
  sendFrame_hif _ _

/-! ### Rings and jobs leave the LAUNCH_IDs alone -/

@[simp] theorem setHRing_launchIds (s : State) (f n : Nat) (x : HRing) : (setHRing s f n x).hif.launchIds = s.hif.launchIds := rfl
@[simp] theorem markCmd_launchIds (s : State) (f n k : Nat) (st : CmdSt) : (markCmd s f n k st).hif.launchIds = s.hif.launchIds := rfl

@[simp] theorem completeCmd_launchIds (s : State) (f n k st : Nat) (res : List Byte) :
    (completeCmd s f n k st res).hif.launchIds = s.hif.launchIds := by
  unfold completeCmd
  simp only []
  split <;> rfl

@[simp] theorem sweepRing_launchIds (s : State) (f n : Nat) : (sweepRing s f n).hif.launchIds = s.hif.launchIds := by
  refine foldl_launchIds _ (fun s c => ?_) _ s
  split
  · exact completeCmd_launchIds _ _ _ _ _ _
  · rfl

@[simp] theorem ledgerUe_launchIds (s : State) (n b i : Nat) (ecc : EccHits) : (ledgerUe s n b i ecc).hif.launchIds = s.hif.launchIds := by
  simp [ledgerUe]

@[simp] theorem dropJobCtx_launchIds (s : State) (x : Nat × Nat) : (dropJobCtx s x).hif.launchIds = s.hif.launchIds := rfl

/-! ### The re-issue of a table leaves the LAUNCH_IDs alone (R311) -/

@[simp] theorem reissue_launchIds (s : State) (n : Nat) (ecc : EccHits) (b i new : Nat) (force : Bool) :
    (reissue s n ecc b i new force).2.hif.launchIds = s.hif.launchIds := by
  unfold reissue
  simp only []
  split
  · simp
  · split <;> simp

@[simp] theorem markCommitted_launchIds (s : State) (n : Nat) (ecc : EccHits) (b i new : Nat) :
    (markCommitted s n ecc b i new).hif.launchIds = s.hif.launchIds := by
  unfold markCommitted
  simp only []
  split <;> simp

@[simp] theorem foldl_markCommitted_launchIds (n : Nat) (ecc : EccHits) (b new : Nat) (es : List SegEntry) (s : State) :
    (es.foldl (fun s e => markCommitted s n ecc b e.idx new) s).hif.launchIds = s.hif.launchIds := by
  refine foldl_launchIds _ (fun s e => ?_) es s
  exact markCommitted_launchIds s n ecc b e.idx new

@[simp] theorem foldl_reissue_launchIds (n : Nat) (ecc : EccHits) (b new : Nat) (es : List SegEntry) (s : State) :
    (es.foldl (fun s e => (reissue s n ecc b e.idx new true).2) s).hif.launchIds = s.hif.launchIds := by
  refine foldl_launchIds _ (fun s e => ?_) es s
  exact reissue_launchIds s n ecc b e.idx new true

@[simp] theorem reissueAll_launchIds (s : State) (n : Nat) (ecc : EccHits) (b table new : Nat) :
    (reissueAll s n ecc b table new).2.2.hif.launchIds = s.hif.launchIds := by
  unfold reissueAll
  refine (foldl_keeps (fun a : List SegEntry × List SegEntry × State => a.2.2.hif.launchIds) _ (fun a e => ?_) _ _).trans
    (foldl_keeps (fun a : List SegEntry × List SegEntry × State => a.2.2.hif.launchIds) _ (fun a f => ?_) _ _)
  · exact reissue_launchIds _ _ _ _ _ _ _
  · simp only []
    split <;> simp

/-! ### The three modes leave the LAUNCH_IDs alone -/

@[simp] theorem loadCode_hif (s : State) (image : Nat) (e : ImgEntry) : (loadCode s image e).hif = s.hif := by
  unfold loadCode
  split <;> simp

@[simp] theorem startEntry_hif (s : State) (e : ImgEntry) : (startEntry s e).hif = s.hif := by simp [startEntry]

@[simp] theorem sendArgs_hif (s : State) (e : ImgEntry) : (sendArgs s e).hif = s.hif := by
  unfold sendArgs
  simp only []
  split
  · rfl
  · split <;> simp

@[simp] theorem foldl_loadCode_hif (image : Nat) (es : List ImgEntry) (s : State) :
    (es.foldl (fun s e => loadCode s image e) s).hif = s.hif :=
  foldl_hif _ (fun s e => loadCode_hif s image e) es s

@[simp] theorem foldl_startEntry_hif (es : List ImgEntry) (s : State) : (es.foldl (fun s e => sendArgs (startEntry s e) e) s).hif = s.hif :=
  foldl_hif _ (fun s e => (sendArgs_hif _ e).trans (startEntry_hif s e)) es s

@[simp] theorem startImage_launchIds (s : State) (p : Nat) (b : List Byte) (image : Nat) (counter : Option Nat) (origin : Origin)
    (firstUe : Nat) : (startImage s p b image counter origin firstUe).hif.launchIds = s.hif.launchIds := by
  simp only [startImage, foldl_startEntry_hif, foldl_loadCode_hif, trace_hif]

@[simp] theorem setupTable_hif (s : State) (f p : Nat) (b : List Byte) (es : List ImgEntry) : (setupTable s f p b es).2.hif = s.hif := by
  unfold setupTable
  simp only []
  split
  · rfl
  · split_ifs
    · rfl
    · rfl
    · rfl
    · simp
    · split
      · simp
      · next h => simp [armAll_hif h]

@[simp] theorem launchEcc_hif (s : State) (f p : Nat) (b : List Byte) (ecc : EccHits) : (launchEcc s f p b ecc).hif = s.hif := by
  unfold launchEcc
  simp only []
  split
  · rfl
  · simp

@[simp] theorem placeJob_launchIds (s : State) (f p : Nat) (b : List Byte) (origin : Origin) (ecc : EccHits) :
    (placeJob s f p b origin ecc).2.hif.launchIds = s.hif.launchIds := by
  unfold placeJob
  simp only []
  split
  · rfl
  · split
    · simp
    · split_ifs <;> simp

@[simp] theorem afterPlace_launchIds (f n k : Nat) (r : Nat × State) : (afterPlace f n k r).hif.launchIds = r.2.hif.launchIds := by
  unfold afterPlace
  split <;> simp

@[simp] theorem recoverFreeze_launchIds (s : State) (ecc : EccHits) (b : List Byte) :
    (recoverFreeze s ecc b).2.hif.launchIds = s.hif.launchIds := by
  refine (foldl_launchIds _ (fun s x => ?_) _ _).trans ?_
  · simp
  · simp

@[simp] theorem recoverRun_launchIds (s : State) (ecc : EccHits) (f p : Nat) (b : List Byte) (origin : Origin) :
    (recoverRun s ecc f p b origin).2.hif.launchIds = s.hif.launchIds := by
  unfold recoverRun
  simp only []
  generalize (if imgHeaderOk s (fieldAt b 24 8) then imgList s (fieldAt b 24 8) else []) = es
  split
  · simp
  · next h =>
    split
    · simp [armAll_hif h]
    · split <;> simp [armAll_hif h]

@[simp] theorem recoverGo_launchIds (f n k p : Nat) (ecc : EccHits) (c : HCmd) (s : State) :
    (recoverGo f n k p ecc c s).hif.launchIds = s.hif.launchIds := by
  unfold recoverGo
  split <;> simp

@[simp] theorem distribute_launchIds (s : State) (f n k p : Nat) (b : List Byte) (ms : List Nat) :
    (distribute s f n k p b ms).hif.launchIds = s.hif.launchIds := by
  have hsend := foldl_hif (fun s m => sendCtl s ftGroupCtl p m ccLaunch (b ++ leBytes 1 p)) (fun s m => sendCtl_hif s _ p m _ _) ms s
  simp [distribute, hsend]

/-! ### What a completion leaves of its ring -/

theorem cmds_markCmd (s : State) (f n k : Nat) (st : CmdSt) :
    (getHRing (markCmd s f n k st) f n).cmds = (getHRing s f n).cmds.map fun c => if c.idx = k then { c with st := st } else c := by
  simp [markCmd]

theorem done_markCmd (s : State) (f n k : Nat) (st : CmdSt) : (getHRing (markCmd s f n k st) f n).done = (getHRing s f n).done := by
  simp [markCmd]

/-- A command that is marked stays the one found. -/
theorem find_markCmd {s : State} {f n k : Nat} {c : HCmd} (h : (getHRing s f n).cmds.find? (fun x => x.idx == k) = some c) (st : CmdSt) :
    (getHRing (markCmd s f n k st) f n).cmds.find? (fun x => x.idx == k) = some { c with st := st } := by
  have hidx : c.idx = k := by simpa using List.find?_some h
  have hp : (fun x : HCmd => x.idx == k) ∘ (fun c => if c.idx = k then { c with st := st } else c) = fun x => x.idx == k := by
    funext x
    simp only [Function.comp]
    split <;> rfl
  rw [cmds_markCmd, List.find?_map, hp, h]
  simp [hidx]

/-- The other commands of the ring are as they were. -/
theorem filter_cmds_markCmd (s : State) (f n k : Nat) (st : CmdSt) :
    (getHRing (markCmd s f n k st) f n).cmds.filter (fun x => x.idx != k) = (getHRing s f n).cmds.filter fun x => x.idx != k := by
  rw [cmds_markCmd]
  induction (getHRing s f n).cmds with
  | nil => rfl
  | cons x l ih =>
    by_cases hx : x.idx = k <;> simp [hx, ih]

theorem completeCmd_of_find {s : State} {f n k : Nat} {c : HCmd} (h : (getHRing s f n).cmds.find? (fun x => x.idx == k) = some c)
    (st : Nat) (res : List Byte) : completeCmd s f n k st res = setHRing s f n { getHRing s f n with
      cmds := (getHRing s f n).cmds.filter fun x => x.idx != k, done := (getHRing s f n).done ++ [doneOf c st res] } := by
  simp only [completeCmd, h]

/-- A command that starts and completes at once is reported, and only its ring has changed. -/
theorem completeCmd_started {s : State} {f n k : Nat} {c : HCmd} (h : (getHRing s f n).cmds.find? (fun x => x.idx == k) = some c)
    (st : Nat) (res : List Byte) : ∃ x, completeCmd (markCmd s f n k .started) f n k st res = setHRing (markCmd s f n k .started) f n x ∧
      Reports f n c st s (completeCmd (markCmd s f n k .started) f n k st res) := by
  have hidx : c.idx = k := by simpa using List.find?_some h
  rw [completeCmd_of_find (find_markCmd h .started)]
  refine ⟨_, rfl, res, ?_, ?_⟩
  · rw [getHRing_setHRing, done_markCmd]
    rfl
  · rw [getHRing_setHRing, hidx]
    exact filter_cmds_markCmd s f n k .started

/-! ### A LAUNCH that is ready (R494, R495) -/

/-- A command that is the next to start runs its body. -/
theorem runCmd_of_ready {f n k op : Nat} {c : HCmd} {s : State} {ok : HCmd → Bool} (h : Ready f n k op c s) (hok : ok c = true)
    (body : State → HCmd → State) : runCmd f n k ok s body = .next (body (markCmd s f n k .started) c) := by
  obtain ⟨hf, hn, hfind, -, -, hstart, hrefuse⟩ := h
  simp [runCmd, onRing, hf, hn, hfind, hok, hstart, hrefuse]

/-- A command that waits is not in the middle of a recovery. -/
theorem find_recovering_of_ready {f n k op : Nat} {c : HCmd} {s : State} (h : Ready f n k op c s) :
    (getHRing s f n).cmds.find? (fun x => x.idx == k && x.st == .recovering) = none := by
  obtain ⟨-, -, -, huniq, -, hstart, -⟩ := h
  have hst : c.st = .waiting := by simp only [startable, Bool.and_eq_true, beq_iff_eq] at hstart; exact hstart.1
  rw [List.find?_eq_none]
  intro x hx hrec
  simp only [Bool.and_eq_true, beq_iff_eq] at hrec
  obtain ⟨hidx, hrec⟩ := hrec
  rw [huniq x hx hidx, hst] at hrec
  cases hrec

theorem exec_launchPlace (f n k : Nat) (ecc : EccHits) (s : State) : exec (.launchPlace f n k ecc) s = execLaunchPlace f n k ecc s := rfl
theorem exec_launchPost (f n k : Nat) (s : State) : exec (.launchPost f n k) s = execLaunchPost f n k s := rfl
theorem exec_launchRecover (f n k : Nat) (ecc : EccHits) (s : State) : exec (.launchRecover f n k ecc) s = execLaunchRecover f n k ecc s := rfl

/-- Every mode is a LAUNCH with a body of its own, and no body touches the LAUNCH_IDs (R497, R499, R500). -/
theorem exec_launch {f n k : Nat} {ecc : EccHits} {c : HCmd} {s : State} {i : Instr} (h : Ready f n k 1 c s)
    (hi : i = .launchPlace f n k ecc ∧ launchMode c.bytes = 0 ∨ i = .launchPost f n k ∧ launchMode c.bytes = 1 ∨
      i = .launchRecover f n k ecc ∧ launchMode c.bytes = 2) :
    ∃ body : State → Nat → HCmd → State, exec i s = launchCmd f n k (launchMode c.bytes) s body ∧
      ∀ s p c, (body s p c).hif.launchIds = s.hif.launchIds := by
  obtain ⟨rfl, hm⟩ | ⟨rfl, hm⟩ | ⟨rfl, hm⟩ := hi <;> rw [hm]
  · exact ⟨_, exec_launchPlace f n k ecc s, fun s p c => by simp⟩
  · refine ⟨_, exec_launchPost f n k s, fun s p c => ?_⟩
    simp only []
    split <;> simp
  · obtain ⟨hf, hn, -⟩ := id h
    have hexec := exec_launchRecover f n k ecc s
    rw [execLaunchRecover, onRing, if_pos ⟨hf, hn⟩, find_recovering_of_ready h] at hexec
    refine ⟨_, hexec, fun s p c => ?_⟩
    simp only []
    split <;> simp

/-- In whatever mode, a known LAUNCH_ID completes with DUP_LAUNCH before the body is reached (R495). -/
theorem launchCmd_of_known {f n k p : Nat} {c : HCmd} {s : State} (h : Ready f n k 1 c s) (hp : fnPart f = some p)
    (hproc : procWaits s 2 = false) (hknown : knownLaunch s p (launchId c.bytes) = true) (body : State → Nat → HCmd → State) :
    launchCmd f n k (launchMode c.bytes) s body = .next (completeCmd (markCmd s f n k .started) f n k csDup []) := by
  obtain ⟨-, -, -, -, hop, -⟩ := id h
  have hk : knownLaunch (markCmd s f n k .started) p (launchId c.bytes) = true := hknown
  unfold launchCmd
  simp only []
  rw [runCmd_of_ready h]
  · simp [hp, hk]
  · simp [hop, opLaunchCmd, hproc, launchWaits, hp, hknown]

/-- Any other LAUNCH_ID is kept before the body or the distribution to a group runs, and these change no LAUNCH_ID. -/
theorem launchCmd_of_new {f n k p : Nat} {c : HCmd} {s : State} (h : Ready f n k 1 c s) (hp : fnPart f = some p)
    (hproc : procWaits s 2 = false) (hnew : knownLaunch s p (launchId c.bytes) = false) (hheld : launchHeld s f p c.bytes = false)
    {body : State → Nat → HCmd → State} (hbody : ∀ s p c, (body s p c).hif.launchIds = s.hif.launchIds) :
    ∃ t, launchCmd f n k (launchMode c.bytes) s body = .next t ∧
      t.hif.launchIds = (keepLaunch (markCmd s f n k .started) p (launchId c.bytes)).hif.launchIds := by
  obtain ⟨-, -, -, -, hop, -⟩ := id h
  have hk : knownLaunch (markCmd s f n k .started) p (launchId c.bytes) = false := hnew
  unfold launchCmd
  simp only []
  rw [runCmd_of_ready h]
  · refine ⟨_, rfl, ?_⟩
    simp only [hp, hk]
    split
    · contradiction
    · split
      · exact hbody _ _ _
      · exact distribute_launchIds _ _ _ _ _ _ _
  · simp [hop, opLaunchCmd, hproc, launchWaits, hp, hheld]

@[simp] theorem get_keepLaunch_launchIds (s : State) (p l : Nat) :
    Tab.get [] (keepLaunch s p l).hif.launchIds p = (l :: Tab.get [] s.hif.launchIds p).take 256 := by
  simp [keepLaunch]

/-- Settles O42: a known LAUNCH_ID is seen before the mode's own body runs, so that only the ring changes; no body of any mode, nor the
distribution to a group, touches the LAUNCH_IDs after the new one is kept. -/
theorem duplicateLaunch : Obligations.DuplicateLaunch := by
  unfold Obligations.DuplicateLaunch
  intro s f n k p ecc c i hp hready hproc hi
  obtain ⟨body, hexec, hbody⟩ := exec_launch hready hi
  constructor
  · intro hknown
    obtain ⟨-, -, hfind, -⟩ := id hready
    obtain ⟨x, hring, hreports⟩ := completeCmd_started hfind csDup []
    refine ⟨_, hexec.trans (launchCmd_of_known hready hp hproc hknown body), hreports, ?_⟩
    rw [hring]
    exact ⟨rfl, rfl, rfl, rfl, rfl, rfl, rfl, rfl, rfl, rfl⟩
  · intro hnew hheld
    obtain ⟨t, hnext, hids⟩ := launchCmd_of_new hready hp hproc hnew hheld hbody
    exact ⟨t, hexec.trans hnext, by simp [hids]⟩

end Sys2Proof.Machine
end

section
/-! PROOF. A Smitum request that nothing refuses is answered the way it came (R537, R540, R565), whatever its type: the answer leaves the
queue of requests alone, so that no further request is served with it. It settles O46 (R550). -/

namespace Sys2Proof.Machine

open Sys2Proof

/-! ### Findings, completions and answers leave the queue of requests alone -/

@[simp] theorem devWrite_fwc (s : State) (a : Nat) (bs : List Byte) : (devWrite s a bs).fwc = s.fwc := by
  unfold devWrite
  split <;> rfl

@[simp] theorem boundEvent_fwc (s : State) (x : Susp) (part : Option Nat) (flags : Nat) : (boundEvent s x part flags).fwc = s.fwc := by
  unfold boundEvent
  split
  · rfl
  · simp [raiseBound, putSusp]

@[simp] theorem raise_fwc (s : State) (code sev : Nat) (part : Option Nat) (kind unit detail flags : Nat) :
    (raise s code sev part kind unit detail flags).fwc = s.fwc := by
  unfold raise boundBegin
  split
  · simp only []
    split
    · simp [putSusp]
    · simp
  · simp

@[simp] theorem repairAdd_requests (s : State) (row : Nat) : (repairAdd s row).fwc.requests = s.fwc.requests := by
  unfold repairAdd
  simp only []
  split
  · rfl
  · simp [setFlash]

@[simp] theorem hbmHit_requests (s : State) (h : Nat × Ecc) : (hbmHit s h).fwc.requests = s.fwc.requests := by
  obtain ⟨a, e⟩ := h
  cases e with
  | corrected =>
    simp only [hbmHit]
    split <;> simp
  | uncorrectable => simp [hbmHit]
  | bitCopy n => rfl

@[simp] theorem hbmEcc_requests (s : State) (hits : EccHits) : (hbmEcc s hits).fwc.requests = s.fwc.requests :=
  foldl_keeps (fun s : State => s.fwc.requests) _ hbmHit_requests hits s

@[simp] theorem touch_requests (s : State) (a n : Nat) (wr : Bool) : (touch s a n wr).fwc.requests = s.fwc.requests := by
  unfold touch
  split
  · rfl
  · simp [drawFree]

@[simp] theorem completeCmd_fwc (s : State) (f n k st : Nat) (res : List Byte) : (completeCmd s f n k st res).fwc = s.fwc := by
  unfold completeCmd
  simp only []
  split <;> simp

@[simp] theorem signalVec_fwc (s : State) (f v : Nat) : (signalVec s f v).fwc = s.fwc := by
  unfold signalVec
  simp only []
  split
  · rfl
  · split <;> simp

@[simp] theorem answerRing_requests (s : State) (f n : Nat) (m : List Byte) : (answerRing s f n m).fwc.requests = s.fwc.requests := by
  unfold answerRing
  split
  · rfl
  · split <;> simp

theorem reply_requests (secrets s : State) (r : Req) (status : Nat) (body : List Byte) :
    (reply secrets s r status body).fwc.requests = s.fwc.requests := by
  obtain ⟨via, key, msg, session⟩ := r
  cases via with
  | waiting ch => cases ch <;> simp [reply]
  | mgmtPlain m => rfl
  | mgmtSealed x q b m => rfl

/-! ### A request that is not refused gets its handler's answer -/

@[simp] theorem asked_fwc (via : Via) (s : State) : (asked via s).fwc = s.fwc := by cases via <;> rfl
@[simp] theorem asked_log (via : Via) (s : State) : (asked via s).log = s.log := by cases via <;> rfl
@[simp] theorem asked_hbm (via : Via) (s : State) : (asked via s).hbm = s.hbm := by cases via <;> rfl

theorem mustOk_setSess_seq (s : State) (r : Req) (k : Nat) (seq : Option Nat) (last : Nat) :
    mustOk (setSess s k { getSess s k with seq := seq, last := last }) r = mustOk s r := by
  unfold mustOk
  by_cases h : r.key = k
  · rw [h, getSess_setSess]
  · rw [getSess_setSess_ne _ _ h]

/-- The SEQ of an accepted envelope changes nothing that a refusal rests on. -/
@[simp] theorem refusal_asked (via : Via) (s : State) (r : Req) : refusal (asked via s) r = refusal s r := by
  cases via with
  | waiting ch => rfl
  | mgmtPlain m => rfl
  | mgmtSealed x q b m =>
    unfold refusal asked
    rw [mustOk_setSess_seq]

theorem sweepAll_of_no_requests {s : State} (h : s.fwc.requests = []) : sweepAll s = s := by simp [sweepAll, h, sweepReqs]

/-- A handler's answer is sent, and with the queue of requests empty behind it nothing else is. -/
theorem serveMsg_of_now {ty : Nat} {s t : State} {r : Req} {take : State → State} {k : State → Req → Ans} {st : Nat} {body : List Byte}
    (hty : msgType r.msg = ty) (href : refusal s r = none) (hk : k s r = .now t st body) (hempty : (take t).fwc.requests = []) :
    serveMsg ty s r take k = some (reply s (take t) r st body) := by
  have hsweep : sweepAll (reply s (take t) r st body) = reply s (take t) r st body :=
    sweepAll_of_no_requests ((reply_requests ..).trans hempty)
  simp [serveMsg, href, hty, finishMsg, hk, hsweep]

theorem requests_of_not_mgmtBusy {s : State} (h : mgmtBusy s = false) : s.fwc.requests = [] := by
  simp only [mgmtBusy, Bool.or_eq_false_iff] at h
  simpa using h.1

/-- By whichever way it came, a request of its row's type that is not refused gets the answer of the row's handler (R537, R540, R565). -/
theorem runMsg_of_asks {via : Via} {ty : Nat} {r : Req} {s t : State} {k : State → Req → Ans} {st : Nat} {body : List Byte}
    (h : Asks via ty r s) (hk : k (asked via s) r = .now t st body) (hkeep : t.fwc.requests = s.fwc.requests) :
    runMsg ty via s k = .next (answer via r s t st body) := by
  obtain ⟨rvia, key, msg, session⟩ := r
  obtain ⟨hserving, hproc, hrvia, hty, href, hway⟩ := h
  dsimp only at hrvia hty href hway hk
  subst hrvia
  rw [← refusal_asked rvia] at href
  unfold runMsg
  rw [if_neg (by simp [hserving, hproc])]
  cases rvia with
  | waiting ch =>
    obtain ⟨hfront, hheld, rfl, rfl⟩ := hway
    have hserve := serveMsg_of_now (take := popReq) hty href hk (by simp [popReq, hkeep, hfront])
    simp only [asked] at hserve
    simp [hfront, hheld, hty, hserve, answer, asked, taken]
  | mgmtPlain m =>
    obtain ⟨hbusy, rfl, rfl, rfl⟩ := hway
    have hserve := serveMsg_of_now (take := id) hty href hk (hkeep.trans (requests_of_not_mgmtBusy hbusy))
    simp only [asked] at hserve
    simp [hbusy, hserve, answer, asked, taken]
  | mgmtSealed x q b m =>
    obtain ⟨hbusy, henv, rfl, rfl, rfl⟩ := hway
    have hserve := serveMsg_of_now (take := id) hty href hk (hkeep.trans (requests_of_not_mgmtBusy hbusy))
    simp only [asked] at hserve
    simp [hbusy, henv, hserve, answer, asked, taken]

/-! ### SVN_RAISE (R550) -/

/-- What SVN_RAISE does in session `session` with no update under way: the SVN_CHANGE record, and MIN_SVN raised to the SVN that runs. -/
def svnRaised (s : State) (session : Nat) : State :=
  let n := max s.fwc.minSvn s.fwc.running.svn
  let s1 := securityRecord s 0x040B 0xFF session n
  { s1 with fwc := { s1.fwc with minSvn := n } }

@[simp] theorem svnRaised_fwc (s : State) (session : Nat) :
    (svnRaised s session).fwc = { s.fwc with minSvn := max s.fwc.minSvn s.fwc.running.svn } := by simp [svnRaised]
@[simp] theorem svnRaised_hbm (s : State) (session : Nat) : (svnRaised s session).hbm = s.hbm := by simp [svnRaised]
@[simp] theorem svnRaised_sec (s : State) (session : Nat) : (svnRaised s session).sec = s.sec := by simp [svnRaised]

theorem exec_svnRaise (via : Via) (s : State) : exec (.svnRaise via) s = execSvnRaise via s := rfl

theorem exec_svnRaise_of_idle {via : Via} {r : Req} {s : State} (h : Asks via 0x25 r s) (hidle : s.fwc.update = 0) (hroom : LogRoom s) :
    exec (.svnRaise via) s = .next (answer via r s (svnRaised (asked via s) r.session) 0 []) := by
  have hasked : ¬ (logQueue (asked via s) 0).length ≥ 64 := by simpa [logQueue] using hroom
  rw [exec_svnRaise]
  refine runMsg_of_asks h ?_ (by simp)
  rw [if_neg (by simp [hidle]), if_neg hasked]
  rfl

theorem exec_svnRaise_of_update {via : Via} {r : Req} {s : State} (h : Asks via 0x25 r s) (hupdate : s.fwc.update ≠ 0) :
    exec (.svnRaise via) s = .next (answer via r s (asked via s) 0x43 []) := by
  rw [exec_svnRaise]
  refine runMsg_of_asks h ?_ (by simp)
  rw [if_pos (by simpa using hupdate)]
  rfl

/-- Settles O46: the handler's answer goes out by any of the three ways, and the new MIN_SVN is a maximum with the old one. -/
theorem svnRaise : Obligations.SvnRaise := by
  unfold Obligations.SvnRaise
  intro s via r hasks
  constructor
  · intro hidle hroom
    have hfwc : (svnRaised (asked via s) r.session).fwc =
        { (asked via s).fwc with minSvn := max s.fwc.minSvn s.fwc.running.svn } := by simp
    refine ⟨_, exec_svnRaise_of_idle hasks hidle hroom, hfwc, ?_, by simp, by simp⟩
    rw [hfwc]
    exact Nat.le_max_left _ _
  · exact exec_svnRaise_of_update hasks

end Sys2Proof.Machine
end

section
/-! PROOF. Accesses to an offset that holds no register (R635): when an access reaches its offset, and what a read and a write do there. It
settles O58. -/

namespace Sys2Proof.Machine

open Sys2Proof

/-- An access arrives: its function exists, the link is up if the host sends it (R536), and it lies in the stream to which the function's
session is bound (R572). -/
structure Arrives (s : State) (a : BarAccess) : Prop where
  fn : accessFn a ≤ 16
  link : a.agent = .host → s.fwc.st ≠ 0
  stream : refusesTlp s a = false

/-- An access that arrives does what its offset says. -/
theorem onAccess_of_arrives {s : State} {a : BarAccess} (h : Arrives s a) (bad k : Out) : onAccess a s bad k = k := by
  have hlink : ¬ (a.agent = .host ∧ s.fwc.st = 0) := fun ⟨hhost, hdown⟩ => h.link hhost hdown
  rw [onAccess, if_neg (Nat.not_lt.2 h.fn), if_neg hlink, if_neg (by simp [h.stream])]

theorem execReadClear_of_unused {s : State} {a : BarAccess} (h : Arrives s a) (hit : regHit a = .unused) :
    execReadClear a s = .next (setRead s (some 0)) := by
  rw [execReadClear, onAccess_of_arrives h, hit]

/-- Writes of both kinds go through `writeAccess`. -/
theorem writeAccess_of_unused {s : State} {a : BarAccess} (h : Arrives s a) (hit : regHit a = .unused) (v : W64) (same : Bool) :
    writeAccess a v same s = .next s := by
  rw [writeAccess, onAccess_of_arrives h, hit]

theorem exec_readClear (a : BarAccess) (s : State) : exec (.readClear a) s = execReadClear a s := rfl
theorem exec_registerWrite (a : BarAccess) (v : W64) (s : State) : exec (.registerWrite a v) s = writeAccess a v false s := rfl
theorem exec_w1cClear (a : BarAccess) (v : W64) (same : Bool) (s : State) : exec (.w1cClear a v same) s = writeAccess a v same s := rfl

/-- Settles O58: an access that arrives at an unused offset meets neither a register's value nor a writer, whatever its agent. -/
theorem unusedOffsets : Obligations.UnusedOffsets := by
  unfold Obligations.UnusedOffsets
  intro s a v same hfn hlink hstream hit
  have harrives : Arrives s a := ⟨hfn, hlink, hstream⟩
  refine ⟨?read, ?write, ?w1c⟩
  case read => exact (exec_readClear a s).trans (execReadClear_of_unused harrives hit)
  case write => exact (exec_registerWrite a v s).trans (writeAccess_of_unused harrives hit v false)
  case w1c => exact (exec_w1cClear a v same s).trans (writeAccess_of_unused harrives hit v same)

end Sys2Proof.Machine
end
